-- ==== Sys2Proof/Word.lean ====
section
/-! DEFINITION. The fields of the spec by width (00_scope.md R13, `uN`): bit vectors, and nothing more. -/

namespace Sys2Proof

/-- A `u8` field (and one byte of SRC or DST, 20_memory.md R70). -/
abbrev U8 := BitVec 8

/-- A `u16` or `s16` field (R13). -/
abbrev U16 := BitVec 16

/-- A `u32` or `s32` field (R13), and a command word (30_encoding.md R92). -/
abbrev U32 := BitVec 32

/-- A `u64` or `s64` field (R13): the width of the port registers (10_state.md R31). -/
abbrev U64 := BitVec 64

end Sys2Proof
end

