-- ==== Sys2Proof/Syntax.lean ====
section
/-! DEFINITION. The 43 commands of 30_encoding.md R93 as syntax: one constructor per row of the opcode table. -/

namespace Sys2Proof

/-- The stream selector of 10_state.md R40: 0 = L, 1 = M, 2 = D, 3 = LIT. -/
inductive Sel where
  | l | m | d | lit
  deriving DecidableEq, Repr, Inhabited

/-- The selector of the three value streams (R40, SEL in 0..2). -/
inductive VSel where
  | l | m | d
  deriving DecidableEq, Repr, Inhabited

/-- The selector of the IN_* commands (30_encoding.md R92): 0 = IN[0], the literal stream; 1 = IN[1], the LMD stream. -/
inductive InSel where
  | lit | lmd
  deriving DecidableEq, Repr, Inhabited

/-- The commands of 30_encoding.md R93, with the SEL and N fields of R92 each of them uses. -/
inductive Instr where
  | reset
  | storeArray
  | loadArray
  | outInit
  | outPush (n : Nat)
  | outFlush
  | outFinish
  | inInit (sel : InSel)
  | inFlush (sel : InSel)
  | inPull (sel : InSel) (n : Nat)
  | normalize (sel : Sel)
  | checkFreq (sel : Sel)
  | buildEnc (sel : Sel)
  | buildDec
  | buildVdec (sel : VSel)
  | symbolOfValue (sel : VSel)
  | fseEncode (sel : Sel)
  | fseDecode
  | fseVdecode (sel : VSel)
  | freqEnc
  | freqDec
  | hdrPack
  | hdrUnpack
  | hdrCheck
  | v1Load
  | v1Store
  | decInit
  | decStep
  | decFeed
  | decGrow
  | decBuffer
  | encInit
  | hash
  | encBase
  | encTranslate
  | pushLmd
  | pushMatch
  | backendMatch
  | backendLiterals
  | emitBlock
  | encFinish
  | storeRaw
  | encBuffer
  deriving DecidableEq, Repr, Inhabited

end Sys2Proof
end

