-- ==== Sys2Proof/WellFormed.lean ====
section
/-! DEFINITION. Which commands the opcode map of 30_encoding.md R93 admits: the ranges of the N field. The SEL
ranges are the selector types of Syntax. -/

namespace Sys2Proof

/-- 30_encoding.md R93, column N: 0..64 for OUT_PUSH, 0..63 for IN_PULL; no other command has an N. -/
def Instr.wf : Instr → Bool
  | .outPush n => decide (n ≤ 64)
  | .inPull _ n => decide (n ≤ 63)
  | .reset | .storeArray | .loadArray | .outInit | .outFlush | .outFinish | .inInit _ | .inFlush _
  | .normalize _ | .checkFreq _ | .buildEnc _ | .buildDec | .buildVdec _ | .symbolOfValue _
  | .fseEncode _ | .fseDecode | .fseVdecode _ | .freqEnc | .freqDec | .hdrPack | .hdrUnpack
  | .hdrCheck | .v1Load | .v1Store | .decInit | .decStep | .decFeed | .decGrow | .decBuffer
  | .encInit | .hash | .encBase | .encTranslate | .pushLmd | .pushMatch | .backendMatch
  | .backendLiterals | .emitBlock | .encFinish | .storeRaw | .encBuffer => true

end Sys2Proof
end

