-- ==== Sys2Proof/Decode.lean ====
section
/-! DEFINITION. Command words (30_encoding.md R92, R93, R95): the decoder, total on every u32 and rejecting by name, and
the encoder, written from the same table. -/

namespace Sys2Proof

/-- Why a command word is no command (R95). -/
inductive Reject where
  /-- OPC is not in R93, or RSV is not 0. -/
  | illegalCommand
  /-- SEL or N is outside the range R93 gives for OPC. -/
  | badOperand
  deriving DecidableEq, Repr, Inhabited

/-- `field(w, lo, n)` of 00_scope.md R14. -/
def wordField (w : U32) (lo n : Nat) : Nat := w.toNat / 2 ^ lo % 2 ^ n

/-- OPC, bits 7:0 (R92). -/
def opcOf (w : U32) : Nat := wordField w 0 8

/-- SEL, bits 9:8 (R92). -/
def selOf (w : U32) : Nat := wordField w 8 2

/-- N, bits 16:10 (R92). -/
def nOf (w : U32) : Nat := wordField w 10 7

/-- RSV, bits 31:17 (R92). -/
def rsvOf (w : U32) : Nat := wordField w 17 15

/-- A command whose SEL and N columns of R93 both say 0. -/
def plainForm (sel n : Nat) (i : Instr) : Except Reject Instr :=
  if sel = 0 ∧ n = 0 then .ok i else .error .badOperand

/-- SEL of the IN_* commands: 0..1. -/
def inSelOf : Nat → Except Reject InSel
  | 0 => .ok .lit
  | 1 => .ok .lmd
  | _ => .error .badOperand

/-- SEL of the commands whose column says 0..3. -/
def anySelOf : Nat → Except Reject Sel
  | 0 => .ok .l
  | 1 => .ok .m
  | 2 => .ok .d
  | 3 => .ok .lit
  | _ => .error .badOperand

/-- SEL of the commands whose column says 0..2. -/
def valSelOf : Nat → Except Reject VSel
  | 0 => .ok .l
  | 1 => .ok .m
  | 2 => .ok .d
  | _ => .error .badOperand

/-- A command with a selector and N = 0. -/
def selForm {α : Type} (sel : Except Reject α) (n : Nat) (mk : α → Instr) : Except Reject Instr :=
  match sel with
  | .ok x => if n = 0 then .ok (mk x) else .error .badOperand
  | .error e => .error e

/-- A command whose SEL column says 3 (LIT only). -/
def litForm (sel n : Nat) (i : Instr) : Except Reject Instr :=
  if sel = 3 ∧ n = 0 then .ok i else .error .badOperand

/-- OUT_PUSH: SEL 0, N 0..64. -/
def pushForm (sel n : Nat) : Except Reject Instr :=
  if sel = 0 ∧ n ≤ 64 then .ok (.outPush n) else .error .badOperand

/-- IN_PULL: SEL 0..1, N 0..63. -/
def pullForm (sel n : Nat) : Except Reject Instr :=
  match inSelOf sel with
  | .ok x => if n ≤ 63 then .ok (.inPull x n) else .error .badOperand
  | .error e => .error e

/-- The opcode map of R93, on the three fields of a word whose RSV is 0. -/
def decodeFields (opc sel n : Nat) : Except Reject Instr :=
  match opc with
  | 0x01 => plainForm sel n .reset
  | 0x02 => plainForm sel n .storeArray
  | 0x03 => plainForm sel n .loadArray
  | 0x10 => plainForm sel n .outInit
  | 0x11 => pushForm sel n
  | 0x12 => plainForm sel n .outFlush
  | 0x13 => plainForm sel n .outFinish
  | 0x18 => selForm (inSelOf sel) n .inInit
  | 0x19 => selForm (inSelOf sel) n .inFlush
  | 0x1A => pullForm sel n
  | 0x20 => selForm (anySelOf sel) n .normalize
  | 0x21 => selForm (anySelOf sel) n .checkFreq
  | 0x22 => selForm (anySelOf sel) n .buildEnc
  | 0x23 => litForm sel n .buildDec
  | 0x24 => selForm (valSelOf sel) n .buildVdec
  | 0x25 => selForm (valSelOf sel) n .symbolOfValue
  | 0x28 => selForm (anySelOf sel) n .fseEncode
  | 0x29 => litForm sel n .fseDecode
  | 0x2A => selForm (valSelOf sel) n .fseVdecode
  | 0x30 => plainForm sel n .freqEnc
  | 0x31 => plainForm sel n .freqDec
  | 0x32 => plainForm sel n .hdrPack
  | 0x33 => plainForm sel n .hdrUnpack
  | 0x34 => plainForm sel n .hdrCheck
  | 0x35 => plainForm sel n .v1Load
  | 0x36 => plainForm sel n .v1Store
  | 0x40 => plainForm sel n .decInit
  | 0x41 => plainForm sel n .decStep
  | 0x42 => plainForm sel n .decFeed
  | 0x43 => plainForm sel n .decGrow
  | 0x44 => plainForm sel n .decBuffer
  | 0x50 => plainForm sel n .encInit
  | 0x51 => plainForm sel n .hash
  | 0x52 => plainForm sel n .encBase
  | 0x53 => plainForm sel n .encTranslate
  | 0x58 => plainForm sel n .pushLmd
  | 0x59 => plainForm sel n .pushMatch
  | 0x5A => plainForm sel n .backendMatch
  | 0x5B => plainForm sel n .backendLiterals
  | 0x5C => plainForm sel n .emitBlock
  | 0x5D => plainForm sel n .encFinish
  | 0x5E => plainForm sel n .storeRaw
  | 0x5F => plainForm sel n .encBuffer
  | _ => .error .illegalCommand

/-- R95, in the order of 60_exceptions.md R293: an unassigned OPC or RSV ≠ 0 is ILLEGAL_COMMAND whatever SEL and N. -/
def decode (w : U32) : Except Reject Instr :=
  if rsvOf w = 0 then decodeFields (opcOf w) (selOf w) (nOf w) else .error .illegalCommand

/-- A word from its fields, RSV = 0 (R92). -/
def wordOf (opc sel n : Nat) : U32 := BitVec.ofNat 32 (opc + sel * 2 ^ 8 + n * 2 ^ 10)

/-- 10_state.md R40: L, M, D, LIT are 0, 1, 2, 3. -/
def Sel.code : Sel → Nat
  | .l => 0
  | .m => 1
  | .d => 2
  | .lit => 3

/-- R40 on the value streams. -/
def VSel.code : VSel → Nat
  | .l => 0
  | .m => 1
  | .d => 2

/-- R92: 0 = IN[0], 1 = IN[1]. -/
def InSel.code : InSel → Nat
  | .lit => 0
  | .lmd => 1

/-- The OPC column of R93. -/
def Instr.opcode : Instr → Nat
  | .reset => 0x01
  | .storeArray => 0x02
  | .loadArray => 0x03
  | .outInit => 0x10
  | .outPush _ => 0x11
  | .outFlush => 0x12
  | .outFinish => 0x13
  | .inInit _ => 0x18
  | .inFlush _ => 0x19
  | .inPull _ _ => 0x1A
  | .normalize _ => 0x20
  | .checkFreq _ => 0x21
  | .buildEnc _ => 0x22
  | .buildDec => 0x23
  | .buildVdec _ => 0x24
  | .symbolOfValue _ => 0x25
  | .fseEncode _ => 0x28
  | .fseDecode => 0x29
  | .fseVdecode _ => 0x2A
  | .freqEnc => 0x30
  | .freqDec => 0x31
  | .hdrPack => 0x32
  | .hdrUnpack => 0x33
  | .hdrCheck => 0x34
  | .v1Load => 0x35
  | .v1Store => 0x36
  | .decInit => 0x40
  | .decStep => 0x41
  | .decFeed => 0x42
  | .decGrow => 0x43
  | .decBuffer => 0x44
  | .encInit => 0x50
  | .hash => 0x51
  | .encBase => 0x52
  | .encTranslate => 0x53
  | .pushLmd => 0x58
  | .pushMatch => 0x59
  | .backendMatch => 0x5A
  | .backendLiterals => 0x5B
  | .emitBlock => 0x5C
  | .encFinish => 0x5D
  | .storeRaw => 0x5E
  | .encBuffer => 0x5F

/-- The SEL field of a command. -/
def Instr.selField : Instr → Nat
  | .inInit s | .inFlush s | .inPull s _ => s.code
  | .normalize s | .checkFreq s | .buildEnc s | .fseEncode s => s.code
  | .buildVdec s | .symbolOfValue s | .fseVdecode s => s.code
  | .buildDec | .fseDecode => 3
  | .reset | .storeArray | .loadArray | .outInit | .outPush _ | .outFlush | .outFinish | .freqEnc | .freqDec
  | .hdrPack | .hdrUnpack | .hdrCheck | .v1Load | .v1Store | .decInit | .decStep | .decFeed | .decGrow
  | .decBuffer | .encInit | .hash | .encBase | .encTranslate | .pushLmd | .pushMatch | .backendMatch
  | .backendLiterals | .emitBlock | .encFinish | .storeRaw | .encBuffer => 0

/-- The N field of a command. -/
def Instr.nField : Instr → Nat
  | .outPush n | .inPull _ n => n
  | .inInit _ | .inFlush _ | .normalize _ | .checkFreq _ | .buildEnc _ | .fseEncode _ | .buildVdec _
  | .symbolOfValue _ | .fseVdecode _ | .buildDec | .fseDecode | .reset | .storeArray | .loadArray | .outInit
  | .outFlush | .outFinish | .freqEnc | .freqDec | .hdrPack | .hdrUnpack | .hdrCheck | .v1Load | .v1Store
  | .decInit | .decStep | .decFeed | .decGrow | .decBuffer | .encInit | .hash | .encBase | .encTranslate
  | .pushLmd | .pushMatch | .backendMatch | .backendLiterals | .emitBlock | .encFinish | .storeRaw
  | .encBuffer => 0

/-- The command word of a well-formed command (R92, R93). -/
def encode (i : Instr) : U32 := wordOf i.opcode i.selField i.nField

/-- The host's question about one row: the command read from a word of `nbits` bits (bits above are 0). -/
def decodeTableWord (nbits w : Nat) : Option Instr :=
  match decode (BitVec.ofNat 32 (w % 2 ^ nbits)) with
  | .ok i => some i
  | .error _ => none

end Sys2Proof
end

