-- ==== Sys2Proof/Config.lean ====
section
/-! DEFINITION. What no rule of the spec fixes: the free values and the OPEN parameters. Each is an opaque
constant, so that nothing can be proved of the value it gives. The fixed parameters of 00_scope.md R11 are in
Machine/Params.lean. -/

namespace Sys2Proof

/-- What one call of SECONDARY_DECODE answers (10_state.md R62, 44_decoder_engine.md R214): how many source bytes it
consumed, the bytes it produced at DEC.dst_pos, its new previous distance and its end-of-stream flag. -/
structure SecondaryResult where
  consumed : Nat
  produced : List U8
  dprev : Int
  eos : Bool
  deriving DecidableEq, Repr, Inhabited

/-- The arguments of SECONDARY_DECODE (R62): the source bytes it may read, [src_pos, src_lim), the destination bytes
produced before the call, [dst_begin, dst_pos), the positions, and d_prev. DESIGN CHOICE (log entry 6): P1 lets the agent read
up to dst_pos', and the spec leaves open whether its answer may depend on what stood in [dst_pos, dst_pos') before it wrote
there; here it may not. -/
structure SecondaryCall where
  srcBytes : List U8
  srcPos : Nat
  srcLim : Nat
  dstBytes : List U8
  dstBegin : Nat
  dstPos : Nat
  dstLim : Nat
  dprev : Int
  deriving DecidableEq, Repr, Inhabited

/-- OPEN parameter P1 of 92_eei_decisions.md: the external decoder of the secondary block (log entry 6, a DESIGN CHOICE where it
says what the answer may depend on). -/
opaque Config.secondaryDecode : SecondaryCall → SecondaryResult

/-- OPEN parameter P2 of 92_eei_decisions.md: the external encoder, given the source bytes and a capacity; `none`
is FAIL (log entry 6). -/
opaque Config.secondaryEncode : List U8 → Nat → Option (List U8)

/-- The free value of byte `i` under free-value number `tag`: DST bytes at or beyond DST_POS (20_memory.md R79,
log entry 4) and ENC.lits entries at or beyond ENC.n_lits (93_implementation_defined.md U3, log entry 5). -/
opaque Config.freeByte : Nat → Nat → U8

/-- The free value of entry `i` of ENC.l_values, m_values or d_values under number `tag` (U3, log entry 5). -/
opaque Config.freeWord32 : Nat → Nat → U32

/-- The free value of ENC.src_end or ENC.src_limit under number `tag` where ENC_TRANSLATE's difference does not fit
the u64 field (45_encoder_frontend.md R242, log entry 15). -/
opaque Config.freeWord64 : Nat → U64

/-- The free value of a u64 field or port register given an exact value that does not fit it (00_scope.md R13, log entry 25). -/
opaque Config.unfitU64 : Int → U64

/-- The free value of an s64 field given an exact value that does not fit it (R13, log entry 25). -/
opaque Config.unfitS64 : Int → U64

end Sys2Proof
end

