-- ==== Sys2Proof/Machine/State.lean ====
section
/-! DEFINITION. The machine's state as plain data (10_state.md, 20_memory.md), why a step can stop, and the state right
after reset (70_reset_and_hazards.md R310). -/

namespace Sys2Proof.Machine

/-- STATUS codes (60_exceptions.md R280); `Status.code` gives the number. -/
inductive Status where
  | ok | srcEmpty | dstFull | error | stateFull | faulted
  deriving DecidableEq, Repr, Inhabited

/-- Fault causes (60_exceptions.md R283); `Cause.code` gives the number. FAULT = 0 is `none` of `Option Cause`. -/
inductive Cause where
  | illegalCommand | badOperand | badCursor | bufferBounds | streamInvalid | pushOverflow | pullUnderflow
  | emptyEntry | freqRange | fieldOverflow | normalizeInput | contextPoisoned | resourceBusy
  deriving DecidableEq, Repr, Inhabited

/-- DEC.block_magic (R49): NO_BLOCK or the magic of the open block; `Block.magic` gives the u32. -/
inductive Block where
  | noBlock | raw | v1 | v2 | vn
  deriving DecidableEq, Repr, Inhabited

/-- Sparse contents of an internal array: (index, value) pairs, indices strictly rising, no value equal to what an
unlisted index reads as (R41 to R45, R51, R56). -/
abbrev Sparse (α : Type) := List (Nat × α)

/-- Indices lo, …, hi − 1 hold the free values of number `tag` (20_memory.md R79, 93_implementation_defined.md U3). -/
structure Span where
  lo : Nat
  hi : Nat
  tag : Nat
  deriving DecidableEq, Repr, Inhabited

/-- An array some of whose entries may be unspecified: `cells` as in `Sparse`; an index that is not listed reads as the
free value of the newest span over it, if any (log entries 4, 5). -/
structure Arr (α : Type) where
  cells : List (Nat × α)
  spans : List Span
  deriving DecidableEq, Repr, Inhabited

/-- A byte space: (address, byte) cells (`Host.Cell`) in canonical form, `Memory.wf` of Ops (20_memory.md R70). -/
abbrev Memory := Arr U8

/-- One value for each of the four streams (R40). -/
structure Quad (α : Type) where
  l : α
  m : α
  d : α
  lit : α
  deriving DecidableEq, Repr, Inhabited

/-- One value for each of the three value streams (R45). -/
structure Triple (α : Type) where
  l : α
  m : α
  d : α
  deriving DecidableEq, Repr, Inhabited

/-- The six cursor registers (R32), and a decoder context's copy of them (R50). -/
structure Cursors where
  srcBegin : U64
  srcPos : U64
  srcEnd : U64
  dstBegin : U64
  dstPos : U64
  dstEnd : U64
  deriving DecidableEq, Repr, Inhabited

/-- The output accumulator OUT (R38): nbits is an integer in [−7, 64]. -/
structure OutAcc where
  accum : U64
  nbits : Int
  deriving DecidableEq, Repr, Inhabited

/-- An input accumulator (R39, 40_bitstream.md R138): nbits is an integer in [0, 64). -/
structure InAcc where
  accum : U64
  nbits : Nat
  pos : U64
  lo : U64
  valid : Bool
  deriving DecidableEq, Repr, Inhabited

/-- An encoder table entry (R43): s16 fields. -/
structure EncEntry where
  s0 : U16
  k : U16
  delta0 : U16
  delta1 : U16
  deriving DecidableEq, Repr, Inhabited

/-- A literal decoder table entry (R44): u8, u8, s16. -/
structure DecEntry where
  k : U8
  symbol : U8
  delta : U16
  deriving DecidableEq, Repr, Inhabited

/-- A value-decoder table entry (R45): u8, u8, s16, s32. -/
structure VEntry where
  totalBits : U8
  valueBits : U8
  delta : U16
  valueBase : U32
  deriving DecidableEq, Repr, Inhabited

/-- The verbose header register HDR (R48); its frequency tables are FREQ. -/
structure Hdr where
  magic : U32
  nRawBytes : U32
  nPayloadBytes : U32
  nLiterals : U32
  nMatches : U32
  nLiteralPayloadBytes : U32
  nLmdPayloadBytes : U32
  literalBits : U32
  literalState0 : U16
  literalState1 : U16
  literalState2 : U16
  literalState3 : U16
  lmdBits : U32
  lState : U16
  mState : U16
  dState : U16
  deriving DecidableEq, Repr, Inhabited

/-- The decoder context (R49 to R52) but for IN[1]. `pendL`, `pendM`, `curD` are DEC.L, DEC.M, DEC.D. `feedLo` is the MODEL's own:
the source end that DEC_INIT took, from which on DEC_FEED raised DEC.src_end (host duty 3 of 70_reset_and_hazards.md R317, log
entry 16). -/
structure DecCtx where
  block : Block
  cur : Cursors
  rawRemaining : U32
  vnRaw : U32
  vnPayload : U32
  vnDprev : Int
  nMatches : U32
  nLmdPayloadBytes : U32
  lits : Arr U8
  nLits : U32
  litPos : U32
  pendL : U32
  pendM : U32
  curD : U32
  lState : U16
  mState : U16
  dState : U16
  lmdLo : U64
  endOfStream : Bool
  poisoned : Bool
  feedLo : U64
  deriving DecidableEq, Repr, Inhabited

/-- ENC.pending (R55): pos and ref are s64. -/
structure Pending where
  pos : U64
  ref : U64
  length : U32
  deriving DecidableEq, Repr, Inhabited

/-- One pair of a history bucket (R56): pos is an s32. -/
structure HistEntry where
  pos : U32
  value : U32
  deriving DecidableEq, Repr, Inhabited

/-- A history bucket (R56): HASH_WIDTH = 4 pairs, e0 the most recent. -/
structure Bucket where
  e0 : HistEntry
  e1 : HistEntry
  e2 : HistEntry
  e3 : HistEntry
  deriving DecidableEq, Repr, Inhabited

/-- The encoder context (R53 to R59); src_encode_i and src_literal are s64. `active` is the MODEL's own bit: an encode
has begun and is not finished (host duty 5 of 70_reset_and_hazards.md R317, log entry 16). -/
structure EncCtx where
  srcLo : U64
  srcBegin : U64
  srcLimit : U64
  srcEnd : U64
  dstBegin : U64
  dstPos : U64
  dstEnd : U64
  srcEncodeI : U64
  srcLiteral : U64
  pending : Pending
  hist : Sparse Bucket
  lValues : Arr U32
  mValues : Arr U32
  dValues : Arr U32
  nMatches : U32
  lits : Arr U8
  nLits : U32
  poisoned : Bool
  active : Bool
  deriving DecidableEq, Repr, Inhabited

/-- The port and cursor registers by name (R31, R32), for the host's reads and writes; CMD is written by `HostMove.cmd`. -/
inductive PortReg where
  | arg0 | arg1 | arg2 | arg3 | res0 | res1 | status | fault | faultInfo
  | srcBegin | srcPos | srcEnd | dstBegin | dstPos | dstEnd
  deriving DecidableEq, Repr, Inhabited

/-- One move of the host between commands (R31, R32, 20_memory.md R83): a write of CMD, which starts a command; a write of
another register; a byte placed in SRC or in DST. -/
inductive HostMove where
  | cmd (w : U32)
  | reg (r : PortReg) (v : U64)
  | srcByte (a : U64) (b : U8)
  | dstByte (a : U64) (b : U8)
  deriving DecidableEq, Repr, Inhabited

/-- The whole state: the core's (R31 to R59), the two byte spaces and their sizes (20_memory.md R70), and the model's own
`freeTag` (log entry 4) and `script`, the host's coming moves (log entry 1). -/
structure State where
  cmd : U32
  arg0 : U64
  arg1 : U64
  arg2 : U64
  arg3 : U64
  res0 : U64
  res1 : U64
  status : Status
  fault : Option Cause
  faultInfo : U64
  cur : Cursors
  out : OutAcc
  in0 : InAcc
  in1 : InAcc
  occ : Quad (Sparse U32)
  freq : Quad (Sparse U16)
  encTab : Quad (Sparse EncEntry)
  decTab : Sparse DecEntry
  vdecTab : Triple (Sparse VEntry)
  hdr : Hdr
  hdrSize : U32
  dec : DecCtx
  enc : EncCtx
  src : Memory
  dst : Memory
  srcSize : U64
  dstSize : U64
  freeTag : Nat
  script : List HostMove
  deriving DecidableEq, Repr

/-- Why the machine stops with a fault. No command's exception is here: those of 60_exceptions.md R283 are taken, as a
next state (R290). -/
inductive Fault where
  /-- Raised by `step` where the host places a byte at an SRC index ≥ SRC_SIZE, which does not exist (20_memory.md R70).
  Safe: the machine stops. -/
  | noSuchSrcByte
  /-- Raised by `step` where the host places a byte at a DST index ≥ DST_SIZE (20_memory.md R70). Safe: the machine stops. -/
  | noSuchDstByte
  /-- Raised by DEC_STEP and DEC_BUFFER if a decode needs more block steps than 44_decoder_engine.md R201 allows; no state
  reaches it (log entry 18). Safe: the machine stops. -/
  | stepBound
  deriving DecidableEq, Repr, Inhabited

/-- The host duties of 70_reset_and_hazards.md R317 that the model holds the host to. -/
inductive Duty where
  /-- Duty 1: the SRC bytes of an open block's LMD payload must not change. -/
  | openPayload
  /-- Duty 2: the DST bytes a decode has produced must not change, neither by a byte the host places nor by a command it
  gives. -/
  | producedBytes
  /-- Duty 3: the SRC bytes that DEC_FEED raised the end over were in place before it. -/
  | fedBytes
  /-- Duty 4: the SRC bytes a decode has passed must not change. -/
  | consumedBytes
  /-- Duty 5: the SRC bytes of an encode in progress must not change. -/
  | encodedSource
  deriving DecidableEq, Repr, Inhabited

/-- Why the model gives no meaning. -/
inductive Refusal where
  /-- Raised by `exec`'s arm of an instruction that has no meaning yet. Safe. -/
  | notModelled (mnemonic : String)
  /-- Raised by `step` where the host's move would break a duty the model must not let it break (20_memory.md R83,
  70_reset_and_hazards.md R317, log entry 16). Safe: the machine stops. -/
  | hostDuty (d : Duty)
  deriving DecidableEq, Repr, Inhabited

/-- An array with no entry listed. -/
def Arr.empty {α : Type} : Arr α := { cells := [], spans := [] }

/-- All six cursors 0 (R310). -/
def Cursors.zero : Cursors :=
  { srcBegin := 0, srcPos := 0, srcEnd := 0, dstBegin := 0, dstPos := 0, dstEnd := 0 }

/-- OUT after reset (R310). -/
def OutAcc.zero : OutAcc := { accum := 0, nbits := 0 }

/-- An input accumulator after reset (R310): all fields 0, INVALID. -/
def InAcc.zero : InAcc := { accum := 0, nbits := 0, pos := 0, lo := 0, valid := false }

/-- HDR after reset (R310). -/
def Hdr.zero : Hdr :=
  { magic := 0, nRawBytes := 0, nPayloadBytes := 0, nLiterals := 0, nMatches := 0,
    nLiteralPayloadBytes := 0, nLmdPayloadBytes := 0, literalBits := 0, literalState0 := 0,
    literalState1 := 0, literalState2 := 0, literalState3 := 0, lmdBits := 0, lState := 0,
    mState := 0, dState := 0 }

/-- The decoder context after reset (R310): all 0, but DEC.D = −1. -/
def DecCtx.reset : DecCtx :=
  { block := .noBlock, cur := Cursors.zero, rawRemaining := 0, vnRaw := 0, vnPayload := 0, vnDprev := 0,
    nMatches := 0, nLmdPayloadBytes := 0, lits := Arr.empty, nLits := 0, litPos := 0, pendL := 0, pendM := 0,
    curD := BitVec.ofInt 32 (-1), lState := 0, mState := 0, dState := 0, lmdLo := 0,
    endOfStream := false, poisoned := false, feedLo := 0 }

/-- The encoder context after reset (R310). An unlisted history bucket reads as four pairs (−1048556, 0) (R56). -/
def EncCtx.reset : EncCtx :=
  { srcLo := 0, srcBegin := 0, srcLimit := 0, srcEnd := 0, dstBegin := 0, dstPos := 0, dstEnd := 0,
    srcEncodeI := 0, srcLiteral := 0, pending := { pos := 0, ref := 0, length := 0 }, hist := [],
    lValues := Arr.empty, mValues := Arr.empty, dValues := Arr.empty, nMatches := 0,
    lits := Arr.empty, nLits := 0, poisoned := false, active := false }

/-- The machine right after power-on (R310, R312). SRC and DST list nothing (log entry 3); their sizes are the largest the
spec allows (log entry 2); no host move is waiting (log entry 1). -/
def State.reset : State :=
  { cmd := 0, arg0 := 0, arg1 := 0, arg2 := 0, arg3 := 0, res0 := 0, res1 := 0,
    status := .ok, fault := none, faultInfo := 0, cur := Cursors.zero, out := OutAcc.zero,
    in0 := InAcc.zero, in1 := InAcc.zero,
    occ := { l := [], m := [], d := [], lit := [] },
    freq := { l := [], m := [], d := [], lit := [] },
    encTab := { l := [], m := [], d := [], lit := [] },
    decTab := [], vdecTab := { l := [], m := [], d := [] },
    hdr := Hdr.zero, hdrSize := 0, dec := DecCtx.reset, enc := EncCtx.reset,
    src := Arr.empty, dst := Arr.empty,
    srcSize := BitVec.ofNat 64 (2 ^ 64 - 1), dstSize := BitVec.ofNat 64 (2 ^ 64 - 1),
    freeTag := 0, script := [] }

end Sys2Proof.Machine
end

