-- ==== Sys2Proof/Machine/Params.lean ====
section
/-! DEFINITION. The fixed parameters of 00_scope.md R11, the block magics (30_encoding.md R90), the codes of STATUS and
FAULT (60_exceptions.md R280, R283) and the constant tables of 10_state.md R46. -/

namespace Sys2Proof.Machine

/-- NSYM[SEL] (10_state.md R40). -/
def nsym : Sel → Nat
  | .l => 20
  | .m => 20
  | .d => 64
  | .lit => 256

/-- NSTATES[SEL] (R40). -/
def nstates : Sel → Nat
  | .l => 64
  | .m => 64
  | .d => 256
  | .lit => 1024

/-- A value stream as one of the four streams (R40). -/
def streamOf : VSel → Sel
  | .l => .l
  | .m => .m
  | .d => .d

/-- MAX_L_VALUE (R11). -/
def maxLValue : Nat := 315

/-- MAX_M_VALUE (R11). -/
def maxMValue : Nat := 2359

/-- MAX_D_VALUE (R11). -/
def maxDValue : Nat := 262139

/-- MAX[SEL] (30_encoding.md R105). -/
def maxValue : VSel → Nat
  | .l => maxLValue
  | .m => maxMValue
  | .d => maxDValue

/-- MAX_MATCH_LENGTH = 100 × MAX_M_VALUE (R11). -/
def maxMatchLength : Nat := 100 * maxMValue

/-- LITERAL_FLUSH_LIMIT = 8 × MAX_L_VALUE (R11). -/
def literalFlushLimit : Nat := 8 * maxLValue

/-- FREQ_VALUE_MAX (R11). -/
def freqValueMax : Nat := 1047

/-- MATCHES_PER_BLOCK (R11). -/
def matchesPerBlock : Nat := 10000

/-- LITERALS_PER_BLOCK (R11). -/
def literalsPerBlock : Nat := 40000

/-- MATCH_MARGIN (R11). -/
def matchMargin : Nat := 8

/-- LITERAL_MARGIN (R11). -/
def literalMargin : Nat := 16

/-- HASH_BITS (R11): 2^14 buckets. -/
def hashBits : Nat := 14

/-- HASH_MULTIPLIER (R11). -/
def hashMultiplier : Nat := 2654435761

/-- GOOD_MATCH (R11). -/
def goodMatch : Nat := 40

/-- MIN_SRC_SIZE (R11). -/
def minSrcSize : Nat := 8

/-- SECONDARY_THRESHOLD (R11). -/
def secondaryThreshold : Nat := 4096

/-- V1_HEADER_SIZE (R11). -/
def v1HeaderSize : Nat := 772

/-- V2_FIXED_SIZE (R11). -/
def v2FixedSize : Nat := 32

/-- ENC_HEADER_ROOM (R11). -/
def encHeaderRoom : Nat := 752

/-- SRC_MAX (R11). -/
def srcMax : Nat := 2 ^ 31 - 2

/-- The history's invalid position, −4 × MAX_D_VALUE (10_state.md R56). -/
def invalidPos : Int := -1048556

/-- MAGIC_EOS, `bvx$` (30_encoding.md R90). -/
def magicEos : Nat := 0x24787662

/-- MAGIC_RAW, `bvx-` (R90). -/
def magicRaw : Nat := 0x2D787662

/-- MAGIC_V1, `bvx1` (R90). -/
def magicV1 : Nat := 0x31787662

/-- MAGIC_V2, `bvx2` (R90). -/
def magicV2 : Nat := 0x32787662

/-- MAGIC_VN, `bvxn` (R90). -/
def magicVn : Nat := 0x6E787662

/-- DEC.block_magic as the u32 of 10_state.md R49. -/
def Block.magic : Block → Nat
  | .noBlock => 0
  | .raw => magicRaw
  | .v1 => magicV1
  | .v2 => magicV2
  | .vn => magicVn

/-- STATUS codes (60_exceptions.md R280). -/
def Status.code : Status → U8
  | .ok => 0
  | .srcEmpty => 1
  | .dstFull => 2
  | .error => 3
  | .stateFull => 4
  | .faulted => 5

/-- Fault codes (60_exceptions.md R283). -/
def Cause.code : Cause → U8
  | .illegalCommand => 1
  | .badOperand => 2
  | .badCursor => 3
  | .bufferBounds => 4
  | .streamInvalid => 5
  | .pushOverflow => 6
  | .pullUnderflow => 7
  | .emptyEntry => 8
  | .freqRange => 9
  | .fieldOverflow => 10
  | .normalizeInput => 11
  | .contextPoisoned => 12
  | .resourceBusy => 13

/-- L_EXTRA, M_EXTRA, D_EXTRA: VBITS[SEL] (30_encoding.md R104, 10_state.md R46). -/
def vbits : VSel → List Nat
  | .l => [0, 0, 0, 0, 0, 0, 0, 0, 0, 0, 0, 0, 0, 0, 0, 0, 2, 3, 5, 8]
  | .m => [0, 0, 0, 0, 0, 0, 0, 0, 0, 0, 0, 0, 0, 0, 0, 0, 3, 5, 8, 11]
  | .d => [0, 0, 0, 0, 1, 1, 1, 1, 2, 2, 2, 2, 3, 3, 3, 3, 4, 4, 4, 4, 5, 5, 5, 5, 6, 6, 6, 6, 7, 7, 7, 7]
      ++ [8, 8, 8, 8, 9, 9, 9, 9, 10, 10, 10, 10, 11, 11, 11, 11, 12, 12, 12, 12, 13, 13, 13, 13, 14, 14, 14, 14,
        15, 15, 15, 15]

/-- L_BASE, M_BASE, D_BASE: VBASE[SEL] (R104). -/
def vbase : VSel → List Nat
  | .l => [0, 1, 2, 3, 4, 5, 6, 7, 8, 9, 10, 11, 12, 13, 14, 15, 16, 20, 28, 60]
  | .m => [0, 1, 2, 3, 4, 5, 6, 7, 8, 9, 10, 11, 12, 13, 14, 15, 16, 24, 56, 312]
  | .d => [0, 1, 2, 3, 4, 6, 8, 10, 12, 16, 20, 24, 28, 36, 44, 52, 60, 76, 92, 108, 124, 156, 188, 220, 252, 316,
        380, 444, 508, 636, 764, 892]
      ++ [1020, 1276, 1532, 1788, 2044, 2556, 3068, 3580, 4092, 5116, 6140, 7164, 8188, 10236, 12284, 14332, 16380,
        20476, 24572, 28668, 32764, 40956, 49148, 57340, 65532, 81916, 98300, 114684, 131068, 163836, 196604, 229372]

/-- FREQ_NBITS[b], b the low 5 bits of the window (30_encoding.md R103). -/
def freqNbits : List Nat :=
  [2, 3, 2, 5, 2, 3, 2, 8, 2, 3, 2, 5, 2, 3, 2, 14, 2, 3, 2, 5, 2, 3, 2, 8, 2, 3, 2, 5, 2, 3, 2, 14]

/-- FREQ_VALUE[b] (R103); the four unused entries, which no rule reads, are written 0. -/
def freqValue : List Nat :=
  [0, 2, 1, 4, 0, 3, 1, 0, 0, 2, 1, 5, 0, 3, 1, 0, 0, 2, 1, 6, 0, 3, 1, 0, 0, 2, 1, 7, 0, 3, 1, 0]

/-- The code words of the values 0..7 with their lengths (30_encoding.md R101). -/
def freqCodeSmall : List (Nat × Nat) :=
  [(0, 2), (2, 2), (1, 3), (5, 3), (3, 5), (11, 5), (19, 5), (27, 5)]

end Sys2Proof.Machine
end

