-- ==== Sys2Proof/Machine/Ops.lean ====
section
/-! DEFINITION. The shared operations: arithmetic of 00_scope.md R13, sparse arrays and the byte spaces (20_memory.md),
raising a fault and leaving it (60_exceptions.md R290 to R292), the cursor checks and write-backs (10_state.md R32, R33,
R53), and the values the spec leaves unspecified (20_memory.md R79, 93_implementation_defined.md U3). -/

namespace Sys2Proof.Machine

/-! ## Arithmetic (R13) -/

/-- A u64 field from an integer: two's complement, mod 2^64 (log entry 14). -/
def word64 (v : Int) : U64 := BitVec.ofInt 64 v

/-- A u64 field from a natural number. -/
def nat64 (v : Nat) : U64 := BitVec.ofNat 64 v

/-- A u64 field or port register from an exact value that a run can make too large for it: where it does not fit, the spec states
no result and the model takes a free value (log entry 25, a DESIGN CHOICE). -/
def fitU64 (v : Int) : U64 := if 0 ≤ v ∧ v < (2 ^ 64 : Nat) then word64 v else Config.unfitU64 v

/-- An s64 field from an exact value, likewise (log entry 25). -/
def fitS64 (v : Int) : U64 := if -(2 ^ 63 : Nat) ≤ v ∧ v < (2 ^ 63 : Nat) then word64 v else Config.unfitS64 v

/-- `clz32(x)` = 32 − (bit length of x), for 0 < x < 2^32 (R13). -/
def clz32 (x : Nat) : Nat := 31 - Nat.log2 x

/-- The index of the lowest 1 bit, found within `fuel` bits (45_encoder_frontend.md R236). -/
def ctzWithin : Nat → Nat → Nat
  | 0, _ => 0
  | fuel + 1, d => if d % 2 = 1 then 0 else 1 + ctzWithin fuel (d / 2)

/-- `ctz64(d)` for 0 < d < 2^64 (R236). -/
def ctz64 (d : Nat) : Nat := ctzWithin 64 d

/-- `field(w, lo, n)` = w[lo+n−1:lo] (00_scope.md R14). -/
def field (w lo n : Nat) : Nat := w / 2 ^ lo % 2 ^ n

/-! ## Sparse arrays -/

/-- The value listed at index `i`. -/
def sparseFind {α : Type} : Sparse α → Nat → Option α
  | [], _ => none
  | (k, v) :: r, i => if k = i then some v else sparseFind r i

/-- List `v` at index `i`, keeping the indices rising. -/
def sparseInsert {α : Type} : Sparse α → Nat → α → Sparse α
  | [], i, v => [(i, v)]
  | (k, w) :: r, i, v =>
    if i < k then (i, v) :: (k, w) :: r
    else if i = k then (i, v) :: r
    else (k, w) :: sparseInsert r i v

/-- List nothing at index `i`. -/
def sparseErase {α : Type} (m : Sparse α) (i : Nat) : Sparse α := m.filter (fun c => c.1 ≠ i)

/-- Entry `i` of an array whose unlisted entries are `d`. -/
def sparseGet {α : Type} (d : α) (m : Sparse α) (i : Nat) : α := (sparseFind m i).getD d

/-- Write entry `i`, in canonical form. -/
def sparseSet {α : Type} [DecidableEq α] (d : α) (m : Sparse α) (i : Nat) (v : α) : Sparse α :=
  if v = d then sparseErase m i else sparseInsert m i v

/-- The array whose entries from `i` on are those of a list and `d` after it, in canonical form. -/
def sparseFrom {α : Type} [DecidableEq α] (d : α) : Nat → List α → Sparse α
  | _, [] => []
  | i, v :: r => if v = d then sparseFrom d (i + 1) r else (i, v) :: sparseFrom d (i + 1) r

/-- The array that lists the present entries of a list, EMPTY ones left out (10_state.md R43 to R45). -/
def sparseOfEntries {α : Type} : Nat → List (Option α) → Sparse α
  | _, [] => []
  | i, none :: r => sparseOfEntries (i + 1) r
  | i, some v :: r => (i, v) :: sparseOfEntries (i + 1) r

/-- The first `n` entries of an array. -/
def sparseList {α : Type} (d : α) (m : Sparse α) (n : Nat) : List α := (List.range n).map (sparseGet d m)

/-- Write consecutive entries from `i` on. -/
def sparseSetAll {α : Type} [DecidableEq α] (d : α) : Sparse α → Nat → List α → Sparse α
  | m, _, [] => m
  | m, i, v :: r => sparseSetAll d (sparseSet d m i v) (i + 1) r

/-- The canonical form: indices strictly rising, no entry equal to what an unlisted index reads as. -/
def sparseWf {α : Type} [DecidableEq α] (d : α) : Sparse α → Bool
  | [] => true
  | [(_, v)] => decide (v ≠ d)
  | (i, v) :: (j, w) :: r => decide (v ≠ d) && decide (i < j) && sparseWf d ((j, w) :: r)

/-! ## Arrays with unspecified entries (R79, U3) -/

/-- The number of the newest free-value span over index `i`. -/
def spanAt : List Span → Nat → Option Nat
  | [], _ => none
  | p :: r, i => if p.lo ≤ i ∧ i < p.hi then some p.tag else spanAt r i

/-- Entry `i`: the listed value, else the free value of the span over it, else `d`. -/
def arrGet {α : Type} (d : α) (free : Nat → Nat → α) (m : Arr α) (i : Nat) : α :=
  match sparseFind m.cells i with
  | some v => v
  | none =>
    match spanAt m.spans i with
    | some tag => free tag i
    | none => d

/-- Write entry `i`: an entry equal to what the unlisted index reads as, where that is known, is not listed. -/
def arrSet {α : Type} [DecidableEq α] (d : α) (m : Arr α) (i : Nat) (v : α) : Arr α :=
  if v = d ∧ spanAt m.spans i = none then { m with cells := sparseErase m.cells i }
  else { m with cells := sparseInsert m.cells i v }

/-- Write consecutive entries from `i` on. -/
def arrSetAll {α : Type} [DecidableEq α] (d : α) : Arr α → Nat → List α → Arr α
  | m, _, [] => m
  | m, i, v :: r => arrSetAll d (arrSet d m i v) (i + 1) r

/-- Entries lo, …, hi − 1 become unspecified: the free values of number `tag`. -/
def arrRelease {α : Type} (m : Arr α) (lo hi tag : Nat) : Arr α :=
  { cells := m.cells.filter (fun c => ¬ (lo ≤ c.1 ∧ c.1 < hi)),
    spans := { lo := lo, hi := hi, tag := tag } :: m.spans.filter (fun p => ¬ (lo ≤ p.lo ∧ p.hi ≤ hi)) }

/-- The cells of an array with spans are canonical: indices strictly rising, and an entry equal to `d` only where a span
lies over it. -/
def cellsWf {α : Type} [DecidableEq α] (d : α) (spans : List Span) : List (Nat × α) → Bool
  | [] => true
  | [(i, v)] => decide (v ≠ d) || (spanAt spans i).isSome
  | (i, v) :: (j, w) :: r =>
    (decide (v ≠ d) || (spanAt spans i).isSome) && decide (i < j) && cellsWf d spans ((j, w) :: r)

/-- The canonical form of an array with spans. -/
def arrWf {α : Type} [DecidableEq α] (d : α) (m : Arr α) : Bool := cellsWf d m.spans m.cells

/-! ## The byte spaces (20_memory.md R70 to R78) -/

/-- What a byte that nothing has written reads as, in SRC and in DST (log entry 3: a DESIGN CHOICE). -/
def unwrittenByte : U8 := 0

/-- One byte of a space (R70). -/
def readByte (m : Memory) (a : Nat) : U8 := arrGet unwrittenByte Config.freeByte m a

/-- Store one byte of a space (R70). -/
def writeByte (m : Memory) (a : Nat) (b : U8) : Memory := arrSet unwrittenByte m a b

/-- The canonical form of a space: addresses strictly rising, no cell equal to what its unlisted address reads as. -/
def Memory.wf (m : Memory) : Bool := arrWf unwrittenByte m

/-- The n bytes from index `a` on (R77: a sequence of byte reads). -/
def readBytes (m : Memory) : Nat → Nat → List U8
  | _, 0 => []
  | a, n + 1 => readByte m a :: readBytes m (a + 1) n

/-- Store consecutive bytes from index `a` on (R77). -/
def writeBytes : Memory → Nat → List U8 → Memory
  | m, _, [] => m
  | m, a, b :: r => writeBytes (writeByte m a b) (a + 1) r

/-- The little-endian value of bytes (R73). -/
def leValue : List U8 → Nat
  | [] => 0
  | b :: r => b.toNat + 256 * leValue r

/-- The n low bytes of a value, little-endian (R73). -/
def leBytes : Nat → Nat → List U8
  | 0, _ => []
  | n + 1, v => BitVec.ofNat 8 v :: leBytes n (v / 256)

/-- `MemRead(buf, a, n)` (00_scope.md R15, 20_memory.md R73), where the rule has checked the region. -/
def memRead (m : Memory) (a n : Nat) : Nat := leValue (readBytes m a n)

/-- `MemWrite(buf, a, n, v)` (R15, R73), where the rule has checked the region. -/
def memWrite (m : Memory) (a n v : Nat) : Memory := writeBytes m a (leBytes n v)

/-! ## The four streams (10_state.md R40) -/

/-- The value of one stream. -/
def Quad.get {α : Type} (q : Quad α) : Sel → α
  | .l => q.l
  | .m => q.m
  | .d => q.d
  | .lit => q.lit

/-- Replace the value of one stream. -/
def Quad.put {α : Type} (q : Quad α) (s : Sel) (x : α) : Quad α :=
  match s with
  | .l => { q with l := x }
  | .m => { q with m := x }
  | .d => { q with d := x }
  | .lit => { q with lit := x }

/-- The value of one value stream. -/
def Triple.get {α : Type} (q : Triple α) : VSel → α
  | .l => q.l
  | .m => q.m
  | .d => q.d

/-- Replace the value of one value stream. -/
def Triple.put {α : Type} (q : Triple α) (s : VSel) (x : α) : Triple α :=
  match s with
  | .l => { q with l := x }
  | .m => { q with m := x }
  | .d => { q with d := x }

/-! ## Raising a fault (60_exceptions.md R290), and the end of a command -/

/-- A cause with the value FAULT_INFO gets (R283). -/
structure Trap where
  cause : Cause
  info : U64
  deriving DecidableEq, Repr, Inhabited

/-- R290: FAULT, FAULT_INFO and STATUS = 5; every other piece of state keeps the value it had before the command. -/
def takeFault (t : Trap) (s : State) : State :=
  { s with fault := some t.cause, faultInfo := t.info, status := .faulted }

/-- The return from a fault (R292): FAULT and FAULT_INFO cleared and STATUS OK, nothing else changed. -/
def clearFault (s : State) : State :=
  { s with fault := none, faultInfo := 0, status := .ok }

/-- `raise FAULT(cause)` when a condition holds (00_scope.md R16). -/
def raiseIf {α : Type} (c : Bool) (cause : Cause) (info : U64) (k : Except Trap α) : Except Trap α :=
  if c then .error { cause := cause, info := info } else k

/-- Raise the fault a check found, if any. -/
def raiseOpt {α : Type} (t : Option Trap) (k : Except Trap α) : Except Trap α :=
  match t with
  | some t => .error t
  | none => k

/-- One command (10_state.md R36): ignored while a fault is held (60_exceptions.md R291); else it ends with a fault and no
other effect (R290, R295), or with its own effect and its STATUS (R280). -/
def command (s : State) (body : Except Trap (Status × State)) : Host.Outcome State Fault Refusal :=
  if s.fault.isSome then .next s
  else
    match body with
    | .error t => .next (takeFault t s)
    | .ok (st, s') => .next { s' with status := st }

/-- RES0 (10_state.md R31). -/
def State.withRes0 (s : State) (v : U64) : State := { s with res0 := v }

/-- RES0 and RES1 (R31). -/
def State.withRes (s : State) (v w : U64) : State := { s with res0 := v, res1 := w }

/-! ## Cursors (10_state.md R32, R33, R53) -/

/-- begin ≤ pos ≤ end ≤ size: the index of the first register beyond its bound (R32, 60_exceptions.md R283, log entry 7). -/
def orderFault (first : Nat) (b p e size : U64) : Option Trap :=
  if p.toNat < b.toNat then some { cause := .badCursor, info := nat64 first }
  else if e.toNat < p.toNat then some { cause := .badCursor, info := nat64 (first + 1) }
  else if size.toNat < e.toNat then some { cause := .badCursor, info := nat64 (first + 2) }
  else none

/-- The check of the SRC cursor registers (R32). -/
def srcCursorFault (s : State) : Option Trap :=
  orderFault 0 s.cur.srcBegin s.cur.srcPos s.cur.srcEnd s.srcSize

/-- The check of the DST cursor registers (R32). -/
def dstCursorFault (s : State) : Option Trap :=
  orderFault 3 s.cur.dstBegin s.cur.dstPos s.cur.dstEnd s.dstSize

/-- The check of both, SRC first (R32, R283). -/
def cursorFault (s : State) : Option Trap :=
  match srcCursorFault s with
  | some t => some t
  | none => dstCursorFault s

/-- The decoder context's cursors go to the cursor registers (R33). -/
def writeBackDec (s : State) : State := { s with cur := s.dec.cur }

/-- The encoder context's cursors as the cursor registers show them (R53). The spec is silent where ENC.src_begin + ENC.src_literal or
ENC.src_begin + ENC.src_limit does not fit the register: a free value (log entry 25, a DESIGN CHOICE). -/
def encCursors (c : EncCtx) : Cursors :=
  { srcBegin := c.srcLo, srcPos := fitU64 (c.srcBegin.toNat + c.srcLiteral.toInt),
    srcEnd := fitU64 ((c.srcBegin.toNat + c.srcLimit.toNat : Nat) : Int),
    dstBegin := c.dstBegin, dstPos := c.dstPos, dstEnd := c.dstEnd }

/-- The encoder context's cursors go to the cursor registers (R33, R53). -/
def writeBackEnc (s : State) : State := { s with cur := encCursors s.enc }

/-! ## Unspecified values after a command -/

/-- DST bytes lo, …, hi − 1 become unspecified (20_memory.md R79, 92_eei_decisions.md D17, log entry 4). -/
def releaseDst (lo hi : Nat) (s : State) : State :=
  if lo < hi then { s with dst := arrRelease s.dst lo hi s.freeTag, freeTag := s.freeTag + 1 } else s

/-- The ENC.l_values, m_values and d_values entries from `nm` on and the ENC.lits entries from `nl` on become unspecified
(93_implementation_defined.md U3, 46_encoder_backend.md R252, R266, log entry 5). -/
def releaseEncArrays (nm nl : Nat) (s : State) : State :=
  { s with
    enc := { s.enc with
      lValues := arrRelease s.enc.lValues nm matchesPerBlock s.freeTag,
      mValues := arrRelease s.enc.mValues nm matchesPerBlock (s.freeTag + 1),
      dValues := arrRelease s.enc.dValues nm matchesPerBlock (s.freeTag + 2),
      lits := arrRelease s.enc.lits nl literalsPerBlock (s.freeTag + 3) },
    freeTag := s.freeTag + 4 }

/-- The DEC.lits entries from DEC.n_lits on become unspecified (U3). -/
def releaseDecLits (s : State) : State :=
  { s with
    dec := { s.dec with lits := arrRelease s.dec.lits s.dec.nLits.toNat literalsPerBlock s.freeTag },
    freeTag := s.freeTag + 1 }

/-- The ENC.lits entries from `nl` on become unspecified (U3: after padding). -/
def releaseEncLits (nl : Nat) (s : State) : State :=
  { s with
    enc := { s.enc with lits := arrRelease s.enc.lits nl literalsPerBlock s.freeTag },
    freeTag := s.freeTag + 1 }

end Sys2Proof.Machine
end

