-- ==== Sys2Proof/Machine/Operands.lean ====
section
/-! DEFINITION. The operand forms: ARGn as unsigned and signed numbers (30_encoding.md R127), the selected streams and
tables (10_state.md R39 to R45), the array identifiers (30_encoding.md R94, 60_exceptions.md R298). -/

namespace Sys2Proof.Machine

/-- An unsigned ARGn (R127). -/
def argNat (v : U64) : Nat := v.toNat

/-- A signed ARGn, `sext_64` of the register (R127). -/
def argInt (v : U64) : Int := v.toInt

/-- An unsigned operand of width w < 64 faults BAD_OPERAND, FAULT_INFO = n, when ARGn ≥ 2^w (R127). -/
def raiseArgWidth {α : Type} (n w : Nat) (v : U64) (k : Except Trap α) : Except Trap α :=
  raiseIf (decide (2 ^ w ≤ v.toNat)) .badOperand (nat64 n) k

/-- IN[SEL] (10_state.md R39). -/
def State.inAcc (s : State) : InSel → InAcc
  | .lit => s.in0
  | .lmd => s.in1

/-- Replace IN[SEL]. -/
def State.withInAcc (s : State) (sel : InSel) (x : InAcc) : State :=
  match sel with
  | .lit => { s with in0 := x }
  | .lmd => { s with in1 := x }

/-- OCC[SEL] as the counts of symbols 0, …, NSYM − 1 (R41). -/
def State.occList (s : State) (sel : Sel) : List Nat :=
  (sparseList 0 (s.occ.get sel) (nsym sel)).map BitVec.toNat

/-- FREQ[SEL] as the frequencies of symbols 0, …, NSYM − 1 (R42). -/
def State.freqList (s : State) (sel : Sel) : List Nat :=
  (sparseList 0 (s.freq.get sel) (nsym sel)).map BitVec.toNat

/-- The 360 frequencies in the order l, m, d, literal (30_encoding.md R102). -/
def State.allFreqs (s : State) : List Nat :=
  s.freqList .l ++ s.freqList .m ++ s.freqList .d ++ s.freqList .lit

/-- FREQ[SEL] holding the frequencies of a list (R42: u16 entries). -/
def freqOfList (f : List Nat) : Sparse U16 := sparseFrom 0 0 (f.map (BitVec.ofNat 16))

/-- OCC[SEL] holding the counts of a list (R41: u32 entries). -/
def occOfList (f : List Nat) : Sparse U32 := sparseFrom 0 0 (f.map (BitVec.ofNat 32))

/-- FREQ[0..3] from the 360 frequencies in the order of R102. -/
def quadOfFreqs (f : List Nat) : Quad (Sparse U16) :=
  { l := freqOfList (f.take 20), m := freqOfList ((f.drop 20).take 20), d := freqOfList ((f.drop 40).take 64),
    lit := freqOfList ((f.drop 104).take 256) }

/-- The least legal entry of ENC.l_values, m_values or d_values (60_exceptions.md R298). -/
def minValue : VSel → Nat
  | .l => 0
  | .m => 0
  | .d => 1

/-- An unspecified entry of ENC.l_values, m_values or d_values: any value that R298 makes legal there (log entry 5). -/
def freeValue (sel : VSel) (tag i : Nat) : U32 :=
  BitVec.ofNat 32 (minValue sel + (Config.freeWord32 tag i).toNat % (maxValue sel + 1 - minValue sel))

/-- ENC.l_values, ENC.m_values or ENC.d_values (10_state.md R57). -/
def State.values (s : State) : VSel → Arr U32
  | .l => s.enc.lValues
  | .m => s.enc.mValues
  | .d => s.enc.dValues

/-- Entry `i` of ENC.l_values, m_values or d_values (R57). -/
def valueAt (sel : VSel) (s : State) (i : Nat) : Nat := (arrGet 0 (freeValue sel) (s.values sel) i).toNat

/-- Entry `i` of ENC.lits (R57) or DEC.lits (R51). -/
def litAt (m : Arr U8) (i : Nat) : U8 := arrGet 0 Config.freeByte m i

/-- The arrays that LOAD_ARRAY and STORE_ARRAY reach (30_encoding.md R94). -/
inductive ArrayId where
  | occ (sel : Sel)
  | freq (sel : Sel)
  | decLits | encLits | lValues | mValues | dValues | nMatches | nLits | decNLits
  deriving DecidableEq, Repr, Inhabited

/-- The array of an identifier; identifiers 13 to 15 and 19 on are reserved (R94). -/
def arrayOfId (n : Nat) : Option ArrayId :=
  match n with
  | 0 => some (.occ .l)
  | 1 => some (.occ .m)
  | 2 => some (.occ .d)
  | 3 => some (.occ .lit)
  | 4 => some (.freq .l)
  | 5 => some (.freq .m)
  | 6 => some (.freq .d)
  | 7 => some (.freq .lit)
  | 8 => some .decLits
  | 9 => some .encLits
  | 10 => some .lValues
  | 11 => some .mValues
  | 12 => some .dValues
  | 16 => some .nMatches
  | 17 => some .nLits
  | 18 => some .decNLits
  | _ => none

/-- The length column of 60_exceptions.md R298. -/
def arrayLength : ArrayId → Nat
  | .occ sel => nsym sel
  | .freq sel => nsym sel
  | .decLits => literalsPerBlock
  | .encLits => literalsPerBlock
  | .lValues => matchesPerBlock
  | .mValues => matchesPerBlock
  | .dValues => matchesPerBlock
  | .nMatches => 1
  | .nLits => 1
  | .decNLits => 1

/-- The legal values of R298. -/
def arrayLegal (id : ArrayId) (v : Nat) : Bool :=
  match id with
  | .occ _ => decide (v < 2 ^ 32)
  | .freq _ => decide (v < 2 ^ 16)
  | .decLits => decide (v < 256)
  | .encLits => decide (v < 256)
  | .lValues => decide (v ≤ maxLValue)
  | .mValues => decide (v ≤ maxMValue)
  | .dValues => decide (1 ≤ v ∧ v ≤ maxDValue)
  | .nMatches => decide (v ≤ matchesPerBlock)
  | .nLits => decide (v ≤ literalsPerBlock)
  | .decNLits => decide (v ≤ literalsPerBlock)

/-- Element `i` of an array (60_exceptions.md R299). -/
def loadElement (s : State) (id : ArrayId) (i : Nat) : Nat :=
  match id with
  | .occ sel => (sparseGet 0 (s.occ.get sel) i).toNat
  | .freq sel => (sparseGet 0 (s.freq.get sel) i).toNat
  | .decLits => (litAt s.dec.lits i).toNat
  | .encLits => (litAt s.enc.lits i).toNat
  | .lValues => valueAt .l s i
  | .mValues => valueAt .m s i
  | .dValues => valueAt .d s i
  | .nMatches => s.enc.nMatches.toNat
  | .nLits => s.enc.nLits.toNat
  | .decNLits => s.dec.nLits.toNat

/-- Write element `i` of an array (60_exceptions.md R298). -/
def storeElement (s : State) (id : ArrayId) (i v : Nat) : State :=
  match id with
  | .occ sel => { s with occ := s.occ.put sel (sparseSet 0 (s.occ.get sel) i (BitVec.ofNat 32 v)) }
  | .freq sel => { s with freq := s.freq.put sel (sparseSet 0 (s.freq.get sel) i (BitVec.ofNat 16 v)) }
  | .decLits => { s with dec := { s.dec with lits := arrSet 0 s.dec.lits i (BitVec.ofNat 8 v) } }
  | .encLits => { s with enc := { s.enc with lits := arrSet 0 s.enc.lits i (BitVec.ofNat 8 v) } }
  | .lValues => { s with enc := { s.enc with lValues := arrSet 0 s.enc.lValues i (BitVec.ofNat 32 v) } }
  | .mValues => { s with enc := { s.enc with mValues := arrSet 0 s.enc.mValues i (BitVec.ofNat 32 v) } }
  | .dValues => { s with enc := { s.enc with dValues := arrSet 0 s.enc.dValues i (BitVec.ofNat 32 v) } }
  | .nMatches => { s with enc := { s.enc with nMatches := BitVec.ofNat 32 v } }
  | .nLits => { s with enc := { s.enc with nLits := BitVec.ofNat 32 v } }
  | .decNLits => { s with dec := { s.dec with nLits := BitVec.ofNat 32 v } }

end Sys2Proof.Machine
end

