-- ==== Sys2Proof/Machine/Flags.lean ====
section
/-! DEFINITION. The flags of 10_state.md R37: the POISONED bits (60_exceptions.md R296) and the interlock of R64. STATUS
and FAULT are written by `command`, `takeFault` and `clearFault` of Ops alone. -/

namespace Sys2Proof.Machine

/-- DEC.block_magic ∈ {MAGIC_V1, MAGIC_V2}: a compressed block is open (10_state.md R64). -/
def compressedOpen (s : State) : Bool :=
  match s.dec.block with
  | .v1 => true
  | .v2 => true
  | .noBlock => false
  | .raw => false
  | .vn => false

/-- RESOURCE_BUSY with FAULT_INFO = the command's opcode while a compressed block is open (R64). -/
def raiseBusy {α : Type} (s : State) (opcode : Nat) (k : Except Trap α) : Except Trap α :=
  raiseIf (compressedOpen s) .resourceBusy (nat64 opcode) k

/-- The interlock on IN[SEL]: only IN[1] belongs to the open block (R64). -/
def raiseInBusy {α : Type} (s : State) (sel : InSel) (opcode : Nat) (k : Except Trap α) : Except Trap α :=
  match sel with
  | .lit => k
  | .lmd => raiseBusy s opcode k

/-- CONTEXT_POISONED while DEC.POISONED = 1 (60_exceptions.md R296). -/
def raiseDecPoisoned {α : Type} (s : State) (k : Except Trap α) : Except Trap α :=
  raiseIf s.dec.poisoned .contextPoisoned 0 k

/-- CONTEXT_POISONED while ENC.POISONED = 1 (R296). -/
def raiseEncPoisoned {α : Type} (s : State) (k : Except Trap α) : Except Trap α :=
  raiseIf s.enc.poisoned .contextPoisoned 0 k

/-- DEC.POISONED ← 1 when a decoder command ends with ERROR (R296). -/
def poisonDecOnError (st : Status) (s : State) : State :=
  match st with
  | .error => { s with dec := { s.dec with poisoned := true } }
  | .ok => s
  | .srcEmpty => s
  | .dstFull => s
  | .stateFull => s
  | .faulted => s

/-- ENC.POISONED ← 1 (R296). -/
def poisonEnc (s : State) : State := { s with enc := { s.enc with poisoned := true } }

end Sys2Proof.Machine
end

