-- ==== Sys2Proof/Machine/Bitstream.lean ====
section
/-! DEFINITION. The bitstream accumulator commands (40_bitstream.md). The `out…` and `in…` functions are the bodies that
the codec and the engines share; the `exec…` functions are the commands. -/

namespace Sys2Proof.Machine

/-! ## Output accumulator -/

/-- The body of OUT_PUSH (R132) for a field b of n ≤ 64 bits. -/
def outPush (o : OutAcc) (n b : Nat) : Except Trap OutAcc :=
  raiseIf (decide (2 ^ n ≤ b)) .badOperand 0 <|
  raiseIf (decide (o.nbits < 0)) .streamInvalid 0 <|
  raiseIf (decide (64 < o.nbits + n)) .pushOverflow (word64 o.nbits) <|
  .ok { accum := o.accum ||| BitVec.ofNat 64 (b * 2 ^ o.nbits.toNat), nbits := o.nbits + n }

/-- The number of whole bytes OUT holds (R134). -/
def outWholeBytes (o : OutAcc) : Nat := o.nbits.toNat / 8

/-- The whole bytes OUT_FLUSH writes (R134). -/
def outFlushBytes (o : OutAcc) : List U8 := leBytes (outWholeBytes o) o.accum.toNat

/-- OUT after OUT_FLUSH (R134). -/
def outFlushed (o : OutAcc) : OutAcc :=
  { accum := BitVec.ofNat 64 (o.accum.toNat / 2 ^ (8 * outWholeBytes o)), nbits := o.nbits - 8 * (outWholeBytes o : Int) }

/-- The number of bytes OUT_FINISH writes (R136). -/
def outFinishCount (o : OutAcc) : Nat := (o.nbits.toNat + 7) / 8

/-- The bytes OUT_FINISH writes (R136). -/
def outFinishBytes (o : OutAcc) : List U8 := leBytes (outFinishCount o) o.accum.toNat

/-- OUT after OUT_FINISH (R136): nbits in [−7, 0]. -/
def outFinished (o : OutAcc) : OutAcc :=
  { accum := 0, nbits := o.nbits - 8 * (outFinishCount o : Int) }

/-- `OUT_INIT` (R130). -/
def execOutInit (s : State) : Host.Outcome State Fault Refusal :=
  command s (.ok (.ok, { s with out := OutAcc.zero }))

/-- `OUT_PUSH n` (R132). -/
def execOutPush (n : Nat) (s : State) : Host.Outcome State Fault Refusal :=
  command s <|
    raiseIf (decide (64 < n)) .badOperand (nat64 s.cmd.toNat) <|
    match outPush s.out n (argNat s.arg0) with
    | .error t => .error t
    | .ok o => .ok (.ok, { s with out := o, res0 := word64 o.nbits })

/-- DST and DST_POS after a command that stores `bytes` at DST_POS (20_memory.md R71); the DST bytes from the new DST_POS
to DST_END become unspecified (R79, log entry 4). -/
def storeAtDstPos (bytes : List U8) (s : State) : State :=
  let p := s.cur.dstPos.toNat + bytes.length
  releaseDst p s.cur.dstEnd.toNat
    { s with dst := writeBytes s.dst s.cur.dstPos.toNat bytes, cur := { s.cur with dstPos := nat64 p } }

/-- `OUT_FLUSH` (R134). -/
def execOutFlush (s : State) : Host.Outcome State Fault Refusal :=
  command s <|
    raiseIf (decide (s.out.nbits < 0)) .streamInvalid 0 <|
    raiseOpt (dstCursorFault s) <|
    if s.cur.dstEnd.toNat < s.cur.dstPos.toNat + outWholeBytes s.out then .ok (.dstFull, s)
    else .ok (.ok, { storeAtDstPos (outFlushBytes s.out) s with
      out := outFlushed s.out, res0 := nat64 (outWholeBytes s.out) })

/-- `OUT_FINISH` (R136). -/
def execOutFinish (s : State) : Host.Outcome State Fault Refusal :=
  command s <|
    raiseIf (decide (s.out.nbits < 0)) .streamInvalid 0 <|
    raiseOpt (dstCursorFault s) <|
    if s.cur.dstEnd.toNat < s.cur.dstPos.toNat + outFinishCount s.out then .ok (.dstFull, s)
    else .ok (.ok, { storeAtDstPos (outFinishBytes s.out) s with
      out := outFinished s.out, res0 := word64 (outFinished s.out).nbits })

/-! ## Input accumulators -/

/-- The state of a stream whose IN_INIT ends with ERROR before anything is loaded: INVALID (R139). -/
def inInvalid (x : InAcc) : InAcc := { x with valid := false }

/-- Load `count` bytes ending at `stop` as `nbits` valid bits and apply the top-bits check of R139. The Bool says OK. -/
def inLoad (m : Memory) (x : InAcc) (stop lo count nbits : Nat) : Bool × InAcc :=
  if stop < lo + count then (false, inInvalid x)
  else
    let v := memRead m (stop - count) count
    let y : InAcc := { inInvalid x with pos := nat64 (stop - count), accum := nat64 v, nbits := nbits }
    if v / 2 ^ nbits = 0 then (true, { y with lo := nat64 lo, valid := true }) else (false, y)

/-- The body of IN_INIT (R139) for a stream with remaining bits n, ending before index `stop`, lower bound `lo`. -/
def inInit (m : Memory) (x : InAcc) (n : Int) (stop lo : Nat) : Bool × InAcc :=
  if n < -7 ∨ 0 < n then (false, inInvalid x)
  else if n ≠ 0 then inLoad m x stop lo 8 (64 + n).toNat
  else inLoad m x stop lo 7 56

/-- The body of IN_FLUSH (R141) on a valid stream; `none` is ERROR, the stream unchanged. -/
def inFlush (m : Memory) (x : InAcc) : Option InAcc :=
  let n := (63 - x.nbits) / 8
  if x.pos.toNat < x.lo.toNat + n then none
  else
    let p := x.pos.toNat - n
    some { x with
      pos := nat64 p,
      accum := BitVec.ofNat 64 (x.accum.toNat * 2 ^ (8 * n) + memRead m p n),
      nbits := x.nbits + 8 * n }

/-- The body of IN_PULL (R143): the top n bits and the stream after them. -/
def inPull (x : InAcc) (n : Nat) : Except Trap (Nat × InAcc) :=
  raiseIf (!x.valid) .streamInvalid 0 <|
  raiseIf (decide (x.nbits < n)) .pullUnderflow (nat64 x.nbits) <|
  let k := x.nbits - n
  .ok (x.accum.toNat / 2 ^ k, { x with nbits := k, accum := BitVec.ofNat 64 (x.accum.toNat % 2 ^ k) })

/-- `IN_INIT.s` (R139). -/
def execInInit (sel : InSel) (s : State) : Host.Outcome State Fault Refusal :=
  command s <|
    raiseInBusy s sel 0x18 <|
    raiseOpt (srcCursorFault s) <|
    let stop := argNat s.arg1
    let lo := argNat s.arg2
    raiseIf (!decide (s.cur.srcBegin.toNat ≤ lo ∧ lo ≤ stop ∧ stop ≤ s.cur.srcEnd.toNat)) .badOperand 2 <|
    match inInit s.src (s.inAcc sel) (argInt s.arg0) stop lo with
    | (true, x) => .ok (.ok, (s.withInAcc sel x).withRes0 (nat64 x.nbits))
    | (false, x) => .ok (.error, s.withInAcc sel x)

/-- `IN_FLUSH.s` (R141). DESIGN CHOICE (log entry 26): 60_exceptions.md R284 lists BUFFER_BOUNDS for the bitstream family and R141 does
not list it for this command; the model reads the stream that IN_INIT checked, [lo, pos), and never faults BUFFER_BOUNDS here, wherever
the host has moved SRC_BEGIN or SRC_END since. -/
def execInFlush (sel : InSel) (s : State) : Host.Outcome State Fault Refusal :=
  command s <|
    raiseInBusy s sel 0x19 <|
    raiseIf (!(s.inAcc sel).valid) .streamInvalid 0 <|
    match inFlush s.src (s.inAcc sel) with
    | none => .ok (.error, s)
    | some x => .ok (.ok, (s.withInAcc sel x).withRes0 (nat64 x.nbits))

/-- `IN_PULL.s n` (R143). -/
def execInPull (sel : InSel) (n : Nat) (s : State) : Host.Outcome State Fault Refusal :=
  command s <|
    raiseInBusy s sel 0x1A <|
    match inPull (s.inAcc sel) n with
    | .error t => .error t
    | .ok (v, x) => .ok (.ok, (s.withInAcc sel x).withRes0 (nat64 v))

end Sys2Proof.Machine
end

