-- ==== Sys2Proof/Machine/Tables.lean ====
section
/-! DEFINITION. The FSE table engine (41_fse_tables.md): normalisation, the frequency check, the table builders and the
value mapping. -/

namespace Sys2Proof.Machine

/-! ## Normalisation (R150 to R152) -/

/-- R150's first rounding of one count: f, at least 1 for a used symbol. -/
def scaledFreq (step shift t : Nat) : Nat :=
  let f := (t * step % 2 ^ 32 / 2 ^ shift + 1) / 2
  if f = 0 ∧ t ≠ 0 then 1 else f

/-- The largest value of a list and the first index that has it, from index `i` on: (max_f, max_s) of R150. -/
def firstMax : Nat → Nat × Nat → List Nat → Nat × Nat
  | _, best, [] => best
  | i, best, f :: r => firstMax (i + 1) (if best.1 < f then (f, i) else best) r

/-- One pass of REDUCE over the symbols (R151): the lowered table and the overrun left. -/
def reducePass (shift : Nat) : List Nat → Nat → List Nat × Nat
  | [], overrun => ([], overrun)
  | f :: r, overrun =>
    if overrun = 0 then (f :: r, 0)
    else
      let n := if 1 < f then min ((f - 1) / 2 ^ shift) overrun else 0
      let rest := reducePass shift r (overrun - n)
      ((f - n) :: rest.1, rest.2)

/-- REDUCE (R151) with the passes of shift `passes − 1` down to 0 left; `none` where the overrun is not met by then
(R152: unreachable, NORMALIZE_INPUT). -/
def reduceFreqs : Nat → List Nat → Nat → Option (List Nat)
  | 0, freq, overrun => if overrun = 0 then some freq else none
  | passes + 1, freq, overrun =>
    if overrun = 0 then some freq
    else
      let r := reducePass passes freq overrun
      reduceFreqs passes r.1 r.2

/-- NORMALIZE (R150) on the counts of one stream with N states: FREQ and max_s. -/
def normalizeCounts (n : Nat) (t : List Nat) : Except Trap (List Nat × Nat) :=
  let total := t.sum
  raiseIf (decide (2 ^ 32 ≤ total)) .normalizeInput (nat64 total) <|
  let shift := clz32 n - 1
  let step := if total = 0 then 0 else 2 ^ 31 / total
  let freq := t.map (scaledFreq step shift)
  let best := firstMax 0 (0, 0) freq
  let remaining : Int := (n : Int) - (freq.sum : Int)
  if -remaining < (best.1 / 4 : Nat) then
    .ok (freq.set best.2 ((freq.getD best.2 0 : Int) + remaining).toNat, best.2)
  else
    match reduceFreqs 4 freq (-remaining).toNat with
    | some f => .ok (f, best.2)
    | none => .error { cause := .normalizeInput, info := nat64 total }

/-- `NORMALIZE.SEL` (R150). -/
def execNormalize (sel : Sel) (s : State) : Host.Outcome State Fault Refusal :=
  command s <|
    match normalizeCounts (nstates sel) (s.occList sel) with
    | .error t => .error t
    | .ok (f, maxS) => .ok (.ok, { s with freq := s.freq.put sel (freqOfList f), res0 := nat64 maxS })

/-! ## Frequency check (R154, R162) -/

/-- FREQ_OK(SEL) of R162, on the frequencies of one stream. -/
def freqOk (sel : Sel) (f : List Nat) : Bool := decide (f.sum ≤ nstates sel)

/-- `CHECK_FREQ.SEL` (R154). -/
def execCheckFreq (sel : Sel) (s : State) : Host.Outcome State Fault Refusal :=
  command s <|
    let f := s.freqList sel
    .ok (if freqOk sel f then .ok else .error, s.withRes0 (nat64 f.sum))

/-! ## Encoder table (R155) -/

/-- k of R155: N ≤ f × 2^k < 2N, for 1 ≤ f ≤ N. -/
def stateShift (n f : Nat) : Nat := clz32 f - clz32 n

/-- The entry of a symbol of frequency f ≥ 1 whose states start at `off` (R155). -/
def encEntry (n off f : Nat) : EncEntry :=
  let k := stateShift n f
  { s0 := BitVec.ofInt 16 ((f * 2 ^ k : Nat) - (n : Int)),
    k := BitVec.ofNat 16 k,
    delta0 := BitVec.ofInt 16 ((off : Int) - f + (n / 2 ^ k : Nat)),
    delta1 := if 1 ≤ k then BitVec.ofInt 16 ((off : Int) - f + (n / 2 ^ (k - 1) : Nat)) else 0 }

/-- The encoder entries of the symbols of a list, EMPTY for frequency 0 (R155). -/
def encEntries (n : Nat) : Nat → List Nat → List (Option EncEntry)
  | _, [] => []
  | off, f :: r => (if f = 0 then none else some (encEntry n off f)) :: encEntries n (off + f) r

/-- ENC[SEL] from a valid frequency table (R155, R162). -/
def encTable (n : Nat) (f : List Nat) : Sparse EncEntry := sparseOfEntries 0 (encEntries n 0 f)

/-- `BUILD_ENC.SEL` (R155). -/
def execBuildEnc (sel : Sel) (s : State) : Host.Outcome State Fault Refusal :=
  command s <|
    let f := s.freqList sel
    raiseIf (!freqOk sel f) .freqRange (nat64 f.sum) <|
    .ok (.ok, { s with encTab := s.encTab.put sel (encTable (nstates sel) f) })

/-! ## Decoder tables (R157, R159) -/

/-- j0 of R157: the first j0 states of a symbol pull k bits, the others k − 1. -/
def longStates (n f : Nat) : Nat := 2 * n / 2 ^ stateShift n f - f

/-- The bits and the delta of state j of a symbol of frequency f (R157). -/
def stateStep (n f j : Nat) : Nat × Nat :=
  let k := stateShift n f
  let j0 := longStates n f
  if j < j0 then (k, (f + j) * 2 ^ k - n) else (k - 1, (j - j0) * 2 ^ (k - 1))

/-- The f literal entries of symbol i (R157). -/
def decSymbolEntries (n i f : Nat) : List DecEntry :=
  (List.range f).map fun j =>
    let b := stateStep n f j
    { k := BitVec.ofNat 8 b.1, symbol := BitVec.ofNat 8 i, delta := BitVec.ofNat 16 b.2 }

/-- The f value entries of symbol i, with its extra bits and base (R159). -/
def vdecSymbolEntries (n vb base f : Nat) : List VEntry :=
  (List.range f).map fun j =>
    let b := stateStep n f j
    { totalBits := BitVec.ofNat 8 (b.1 + vb), valueBits := BitVec.ofNat 8 vb, delta := BitVec.ofNat 16 b.2,
      valueBase := BitVec.ofNat 32 base }

/-- The entries of the symbols from i on, `cum` states being taken; `none` where a cumulative frequency exceeds N. -/
def stackEntries {α : Type} (n : Nat) (entries : Nat → Nat → List α) : Nat → Nat → List Nat → Option (List α)
  | _, _, [] => some []
  | i, cum, f :: r =>
    if f = 0 then stackEntries n entries (i + 1) cum r
    else if n < cum + f then none
    else
      match stackEntries n entries (i + 1) (cum + f) r with
      | some rest => some (entries i f ++ rest)
      | none => none

/-- A table from its consecutive entries; the entries after them are EMPTY (92_eei_decisions.md D24). -/
def tableOf {α : Type} (entries : List α) : Sparse α := sparseOfEntries 0 (entries.map some)

/-- The literal decoder table (R157); `none` is ERROR. -/
def decTable (f : List Nat) : Option (Sparse DecEntry) :=
  (stackEntries 1024 (decSymbolEntries 1024) 0 0 f).map tableOf

/-- A value-decoder table (R159); `none` is ERROR. -/
def vdecTable (sel : VSel) (f : List Nat) : Option (Sparse VEntry) :=
  let n := nstates (streamOf sel)
  (stackEntries n (fun i g => vdecSymbolEntries n ((vbits sel).getD i 0) ((vbase sel).getD i 0) g) 0 0 f).map tableOf

/-- `BUILD_DEC.LIT` (R157). -/
def execBuildDec (s : State) : Host.Outcome State Fault Refusal :=
  command s <|
    match decTable (s.freqList .lit) with
    | some t => .ok (.ok, { s with decTab := t })
    | none => .ok (.error, { s with decTab := [] })

/-- `BUILD_VDEC.SEL` (R159). -/
def execBuildVdec (sel : VSel) (s : State) : Host.Outcome State Fault Refusal :=
  command s <|
    raiseBusy s 0x24 <|
    match vdecTable sel (s.freqList (streamOf sel)) with
    | some t => .ok (.ok, { s with vdecTab := s.vdecTab.put sel t })
    | none => .ok (.error, { s with vdecTab := s.vdecTab.put sel [] })

/-! ## Value mapping (R161, 30_encoding.md R105) -/

/-- The largest index from `i` on whose base is ≤ v, `best` being the one so far (R105). -/
def lastAtMost (v : Nat) : Nat → Nat → List Nat → Nat
  | _, best, [] => best
  | i, best, b :: r => lastAtMost v (i + 1) (if b ≤ v then i else best) r

/-- symbol_of_value(v, SEL) (R105). -/
def symbolOf (sel : VSel) (v : Nat) : Nat := lastAtMost v 0 0 (vbase sel)

/-- The body of SYMBOL_OF_VALUE (R161): the symbol and the extra-bit value. -/
def symbolOfValue (sel : VSel) (v : Nat) : Except Trap (Nat × Nat) :=
  raiseIf (decide (maxValue sel < v)) .badOperand 0 <|
  let x := symbolOf sel v
  .ok (x, v - (vbase sel).getD x 0)

/-- `SYMBOL_OF_VALUE.SEL` (R161). -/
def execSymbolOfValue (sel : VSel) (s : State) : Host.Outcome State Fault Refusal :=
  command s <|
    match symbolOfValue sel (argNat s.arg0) with
    | .error t => .error t
    | .ok (x, e) => .ok (.ok, s.withRes (nat64 x) (nat64 e))

end Sys2Proof.Machine
end

