-- ==== Sys2Proof/Machine/Codec.lean ====
section
/-! DEFINITION. The FSE encode and decode steps (42_fse_codec.md). -/

namespace Sys2Proof.Machine

/-- The body of FSE_ENCODE (R170) on an encoder table and OUT, for a state s < N and a symbol i < NSYM: OUT after the
push, the next state and nb. An EMPTY entry faults EMPTY_ENTRY, FAULT_INFO = i. -/
def fseEncode (tab : Sparse EncEntry) (o : OutAcc) (s i : Nat) : Except Trap (OutAcc × Int × Nat) :=
  match sparseFind tab i with
  | none => .error { cause := .emptyEntry, info := nat64 i }
  | some e =>
    let long : Bool := decide (e.s0.toInt ≤ s)
    let nb := (if long then e.k.toInt else e.k.toInt - 1).toNat
    let delta := if long then e.delta0.toInt else e.delta1.toInt
    match outPush o nb (s % 2 ^ nb) with
    | .error t => .error t
    | .ok o' => .ok (o', delta + (s / 2 ^ nb : Nat), nb)

/-- The body of FSE_DECODE (R172) on the literal table, for a state x < 1024: the next state, the symbol and the stream. -/
def fseDecode (tab : Sparse DecEntry) (st : InAcc) (x : Nat) : Except Trap (Int × Nat × InAcc) :=
  match sparseFind tab x with
  | none => .error { cause := .emptyEntry, info := nat64 x }
  | some e =>
    match inPull st e.k.toNat with
    | .error t => .error t
    | .ok (b, st') => .ok (e.delta.toInt + b, e.symbol.toNat, st')

/-- The body of FSE_VDECODE (R174) on a value table, for a state x < N: the next state, the value and the stream. -/
def fseVdecode (tab : Sparse VEntry) (st : InAcc) (x : Nat) : Except Trap (Int × Int × InAcc) :=
  match sparseFind tab x with
  | none => .error { cause := .emptyEntry, info := nat64 x }
  | some e =>
    match inPull st e.totalBits.toNat with
    | .error t => .error t
    | .ok (v, st') =>
      .ok (e.delta.toInt + (v / 2 ^ e.valueBits.toNat : Nat), e.valueBase.toInt + (v % 2 ^ e.valueBits.toNat : Nat), st')

/-- `FSE_ENCODE.SEL` (R170). -/
def execFseEncode (sel : Sel) (s : State) : Host.Outcome State Fault Refusal :=
  command s <|
    raiseIf (decide (nstates sel ≤ argNat s.arg0)) .badOperand 0 <|
    raiseIf (decide (nsym sel ≤ argNat s.arg1)) .badOperand 1 <|
    match fseEncode (s.encTab.get sel) s.out (argNat s.arg0) (argNat s.arg1) with
    | .error t => .error t
    | .ok (o, next, nb) => .ok (.ok, { s with out := o, res0 := word64 next, res1 := nat64 nb })

/-- `FSE_DECODE.LIT` (R172). -/
def execFseDecode (s : State) : Host.Outcome State Fault Refusal :=
  command s <|
    raiseIf (decide (1024 ≤ argNat s.arg0)) .badOperand 0 <|
    match fseDecode s.decTab s.in0 (argNat s.arg0) with
    | .error t => .error t
    | .ok (next, symbol, st) => .ok (.ok, { s with in0 := st, res0 := word64 next, res1 := nat64 symbol })

/-- `FSE_VDECODE.SEL` (R174). -/
def execFseVdecode (sel : VSel) (s : State) : Host.Outcome State Fault Refusal :=
  command s <|
    raiseBusy s 0x2A <|
    raiseIf (decide (nstates (streamOf sel) ≤ argNat s.arg0)) .badOperand 0 <|
    match fseVdecode (s.vdecTab.get sel) s.in1 (argNat s.arg0) with
    | .error t => .error t
    | .ok (next, v, st) => .ok (.ok, { s with in1 := st, res0 := word64 next, res1 := word64 v })

end Sys2Proof.Machine
end

