-- ==== Sys2Proof/Machine/Header.lean ====
section
/-! DEFINITION. The block header codec (43_header_codec.md) with the wire forms of 30_encoding.md R96, R97, R101 to R103. -/

namespace Sys2Proof.Machine

/-! ## Frequency code (30_encoding.md R101, R103) -/

/-- The code word and its length of a value v ≤ 1047 (R101). -/
def freqCode (v : Nat) : Nat × Nat :=
  if v < 8 then freqCodeSmall.getD v (0, 0)
  else if v < 24 then (7 + 16 * (v - 8), 8)
  else (15 + 16 * (v - 24), 14)

/-- The value and the length read from a bit window w (R103). -/
def freqDecode (w : Nat) : Nat × Nat :=
  let n := freqNbits.getD (w % 32) 0
  let v :=
    if n = 8 then 8 + w / 2 ^ 4 % 16
    else if n = 14 then 24 + w / 2 ^ 4 % 1024
    else freqValue.getD (w % 32) 0
  (v, n)

/-- `FREQ_ENC` (R180). -/
def execFreqEnc (s : State) : Host.Outcome State Fault Refusal :=
  command s <|
    raiseIf (decide (freqValueMax < argNat s.arg0)) .badOperand 0 <|
    let c := freqCode (argNat s.arg0)
    .ok (.ok, s.withRes (nat64 c.1) (nat64 c.2))

/-- `FREQ_DEC` (R181). -/
def execFreqDec (s : State) : Host.Outcome State Fault Refusal :=
  command s <|
    let c := freqDecode (argNat s.arg0)
    .ok (.ok, s.withRes (nat64 c.1) (nat64 c.2))

/-! ## Packed header (R183, R184) -/

/-- The frequency region as a number, bit 0 the first bit, with its length in bits (30_encoding.md R102). -/
def freqRegionBits : List Nat → Nat × Nat
  | [] => (0, 0)
  | v :: r =>
    let c := freqCode v
    let rest := freqRegionBits r
    (c.1 + rest.1 * 2 ^ c.2, c.2 + rest.2)

/-- The frequency region's length in bytes (R102). -/
def freqRegionLength (f : List Nat) : Nat := ((freqRegionBits f).2 + 7) / 8

/-- The bytes of the frequency region, the last one zero-padded (R102). -/
def freqRegion (f : List Nat) : List U8 := leBytes (freqRegionLength f) (freqRegionBits f).1

/-- A final bit count lies in [−7, 0] (R184, R187). -/
def bitsInRange (b : U32) : Bool := decide (-7 ≤ b.toInt ∧ b.toInt ≤ 0)

/-- The ids of R184 whose field lies outside its packed range, in id order, the frequencies left out. -/
def badFieldIds (h : Hdr) : List Nat :=
  ([(1, decide (h.nLiterals.toNat < 2 ^ 20)),
    (2, decide (h.nLiteralPayloadBytes.toNat < 2 ^ 20)),
    (3, decide (h.nMatches.toNat < 2 ^ 20)),
    (4, bitsInRange h.literalBits),
    (5, decide (h.literalState0.toNat < 2 ^ 10)),
    (6, decide (h.literalState1.toNat < 2 ^ 10)),
    (7, decide (h.literalState2.toNat < 2 ^ 10)),
    (8, decide (h.literalState3.toNat < 2 ^ 10)),
    (9, decide (h.nLmdPayloadBytes.toNat < 2 ^ 20)),
    (10, bitsInRange h.lmdBits),
    (11, decide (h.lState.toNat < 2 ^ 10)),
    (12, decide (h.mState.toNat < 2 ^ 10)),
    (13, decide (h.dState.toNat < 2 ^ 10))].filter (fun p => !p.2)).map Prod.fst

/-- The first frequency from the concatenated index `i` on that is above 1047 (R184, ids 16 + i). -/
def badFreqId : Nat → List Nat → Option Nat
  | _, [] => none
  | i, f :: r => if freqValueMax < f then some (16 + i) else badFreqId (i + 1) r

/-- FIELD_OVERFLOW of R184: the first field outside its packed range. -/
def fieldOverflow (h : Hdr) (f : List Nat) : Option Trap :=
  match badFieldIds h with
  | id :: _ => some { cause := .fieldOverflow, info := nat64 id }
  | [] =>
    match badFreqId 0 f with
    | some id => some { cause := .fieldOverflow, info := nat64 id }
    | none => none

/-- w0 of the packed header (30_encoding.md R97). -/
def packedW0 (h : Hdr) : Nat :=
  h.nLiterals.toNat + h.nLiteralPayloadBytes.toNat * 2 ^ 20 + h.nMatches.toNat * 2 ^ 40
    + (h.literalBits.toInt + 7).toNat * 2 ^ 60

/-- w1 of the packed header (R97). -/
def packedW1 (h : Hdr) : Nat :=
  h.literalState0.toNat + h.literalState1.toNat * 2 ^ 10 + h.literalState2.toNat * 2 ^ 20
    + h.literalState3.toNat * 2 ^ 30 + h.nLmdPayloadBytes.toNat * 2 ^ 40 + (h.lmdBits.toInt + 7).toNat * 2 ^ 60

/-- w2 of the packed header (R97). -/
def packedW2 (h : Hdr) (hs : Nat) : Nat :=
  hs + h.lState.toNat * 2 ^ 32 + h.mState.toNat * 2 ^ 42 + h.dState.toNat * 2 ^ 52

/-- The bytes of the packed header, header_size of them, for fields in their packed ranges (R183). -/
def packedHeader (h : Hdr) (f : List Nat) : List U8 :=
  let hs := v2FixedSize + freqRegionLength f
  leBytes 4 magicV2 ++ leBytes 4 h.nRawBytes.toNat ++ leBytes 8 (packedW0 h) ++ leBytes 8 (packedW1 h)
    ++ leBytes 8 (packedW2 h hs) ++ freqRegion f

/-- `HDR_PACK` (R183). -/
def execHdrPack (s : State) : Host.Outcome State Fault Refusal :=
  command s <|
    raiseOpt (dstCursorFault s) <|
    raiseOpt (fieldOverflow s.hdr s.allFreqs) <|
    let hs := v2FixedSize + freqRegionLength s.allFreqs
    if s.cur.dstEnd.toNat < s.cur.dstPos.toNat + hs then .ok (.dstFull, s)
    else .ok (.ok, { storeAtDstPos (packedHeader s.hdr s.allFreqs) s with
      hdrSize := BitVec.ofNat 32 hs, res0 := nat64 hs })

/-! ## Unpacking (R185) -/

/-- The bit window of R185: the bits held, their number, and the index of the next region byte. -/
structure Window where
  acc : Nat
  nb : Nat
  pos : Nat
  deriving DecidableEq, Repr, Inhabited

/-- R185's refill, at most `fuel` bytes: it stops at 32 bits, so four are enough. -/
def refill (m : Memory) (stop : Nat) : Nat → Window → Window
  | 0, w => w
  | fuel + 1, w =>
    if w.pos < stop ∧ w.nb + 8 ≤ 32 then
      refill m stop fuel { acc := w.acc + (readByte m w.pos).toNat * 2 ^ w.nb, nb := w.nb + 8, pos := w.pos + 1 }
    else w

/-- Decode `count` frequencies from the region (R185); `none` is ERROR. -/
def decodeFreqs (m : Memory) (stop : Nat) : Nat → Window → Option (List Nat × Window)
  | 0, w => some ([], w)
  | count + 1, w =>
    let w1 := refill m stop 4 w
    let c := freqDecode w1.acc
    if w1.nb < c.2 then none
    else
      match decodeFreqs m stop count { w1 with acc := w1.acc / 2 ^ c.2, nb := w1.nb - c.2 } with
      | none => none
      | some (f, w2) => some (c.1 :: f, w2)

/-- The 360 frequencies of the region [src, stop) (R185, 30_encoding.md R102): an empty region is all 0; a region must end
at its boundary with fewer than 8 bits left. -/
def unpackFreqs (m : Memory) (src stop : Nat) : Option (List Nat) :=
  if src = stop then some (List.replicate 360 0)
  else
    match decodeFreqs m stop 360 { acc := 0, nb := 0, pos := src } with
    | none => none
    | some (f, w) => if 8 ≤ w.nb ∨ w.pos ≠ stop then none else some f

/-- The verbose header of the three packed words (R185, 30_encoding.md R97). -/
def unpackFields (nRaw w0 w1 w2 : Nat) : Hdr :=
  { magic := BitVec.ofNat 32 magicV1,
    nRawBytes := BitVec.ofNat 32 nRaw,
    nPayloadBytes := BitVec.ofNat 32 (field w0 20 20 + field w1 40 20),
    nLiterals := BitVec.ofNat 32 (field w0 0 20),
    nMatches := BitVec.ofNat 32 (field w0 40 20),
    nLiteralPayloadBytes := BitVec.ofNat 32 (field w0 20 20),
    nLmdPayloadBytes := BitVec.ofNat 32 (field w1 40 20),
    literalBits := BitVec.ofInt 32 ((field w0 60 3 : Nat) - 7),
    literalState0 := BitVec.ofNat 16 (field w1 0 10),
    literalState1 := BitVec.ofNat 16 (field w1 10 10),
    literalState2 := BitVec.ofNat 16 (field w1 20 10),
    literalState3 := BitVec.ofNat 16 (field w1 30 10),
    lmdBits := BitVec.ofInt 32 ((field w1 60 3 : Nat) - 7),
    lState := BitVec.ofNat 16 (field w2 32 10),
    mState := BitVec.ofNat 16 (field w2 42 10),
    dState := BitVec.ofNat 16 (field w2 52 10) }

/-- What the body of HDR_UNPACK answers (R185): a status, or the header, its frequencies and header_size. -/
inductive Unpacked where
  | srcEmpty
  | error
  | ok (h : Hdr) (f : List Nat) (hs : Nat)
  deriving DecidableEq, Repr, Inhabited

/-- The body of HDR_UNPACK at index p of a source that ends before `lim` (R185). -/
def unpackHeader (m : Memory) (p lim : Nat) : Unpacked :=
  if lim < p + 32 then .srcEmpty
  else
    let hs := field (memRead m (p + 24) 8) 0 32
    if lim < p + hs then .srcEmpty
    else if hs < 32 then .error
    else
      match unpackFreqs m (p + 32) (p + hs) with
      | none => .error
      | some f =>
        .ok (unpackFields (memRead m (p + 4) 4) (memRead m (p + 8) 8) (memRead m (p + 16) 8) (memRead m (p + 24) 8)) f hs

/-- HDR, FREQ and HDR_SIZE take a header that has been read (R185, R189). -/
def loadHeader (h : Hdr) (f : List Nat) (hs : Nat) (s : State) : State :=
  { s with hdr := h, freq := quadOfFreqs f, hdrSize := BitVec.ofNat 32 hs }

/-- `HDR_UNPACK` (R185). -/
def execHdrUnpack (s : State) : Host.Outcome State Fault Refusal :=
  command s <|
    raiseOpt (srcCursorFault s) <|
    match unpackHeader s.src s.cur.srcPos.toNat s.cur.srcEnd.toNat with
    | .srcEmpty => .ok (.srcEmpty, s)
    | .error => .ok (.error, s)
    | .ok h f hs => .ok (.ok, { loadHeader h f hs s with
        cur := { s.cur with srcPos := nat64 (s.cur.srcPos.toNat + hs) }, res0 := nat64 hs })

/-! ## Validation (R187) -/

/-- The checks of R187 in bit order: true where the check passes. -/
def headerChecks (h : Hdr) (q : Sel → List Nat) : List Bool :=
  [decide (h.magic.toNat = magicV1),
   decide (h.nLiterals.toNat ≤ literalsPerBlock),
   decide (h.nMatches.toNat ≤ matchesPerBlock),
   decide (h.literalState0.toNat < 1024),
   decide (h.literalState1.toNat < 1024),
   decide (h.literalState2.toNat < 1024),
   decide (h.literalState3.toNat < 1024),
   decide (h.lState.toNat < 64),
   decide (h.mState.toNat < 64),
   decide (h.dState.toNat < 256),
   freqOk .l (q .l),
   freqOk .m (q .m),
   freqOk .d (q .d),
   freqOk .lit (q .lit),
   decide (h.nLiterals.toNat % 4 = 0),
   bitsInRange h.literalBits,
   bitsInRange h.lmdBits]

/-- The failure mask: bit b is set when check b fails (R187). -/
def failureMask : List Bool → Nat
  | [] => 0
  | ok :: r => (if ok then 0 else 1) + 2 * failureMask r

/-- HDR_CHECK's mask of HDR and FREQ (R187). -/
def headerMask (s : State) : Nat := failureMask (headerChecks s.hdr s.freqList)

/-- `HDR_CHECK` (R187). -/
def execHdrCheck (s : State) : Host.Outcome State Fault Refusal :=
  command s <|
    let m := headerMask s
    .ok (if m = 0 then .ok else .error, s.withRes0 (nat64 m))

/-! ## Verbose header image (R189, R190, 30_encoding.md R96) -/

/-- The fields of the verbose image at index p (R96, R189). -/
def v1Fields (m : Memory) (p : Nat) : Hdr :=
  { magic := BitVec.ofNat 32 (memRead m p 4),
    nRawBytes := BitVec.ofNat 32 (memRead m (p + 4) 4),
    nPayloadBytes := BitVec.ofNat 32 (memRead m (p + 8) 4),
    nLiterals := BitVec.ofNat 32 (memRead m (p + 12) 4),
    nMatches := BitVec.ofNat 32 (memRead m (p + 16) 4),
    nLiteralPayloadBytes := BitVec.ofNat 32 (memRead m (p + 20) 4),
    nLmdPayloadBytes := BitVec.ofNat 32 (memRead m (p + 24) 4),
    literalBits := BitVec.ofNat 32 (memRead m (p + 28) 4),
    literalState0 := BitVec.ofNat 16 (memRead m (p + 32) 2),
    literalState1 := BitVec.ofNat 16 (memRead m (p + 34) 2),
    literalState2 := BitVec.ofNat 16 (memRead m (p + 36) 2),
    literalState3 := BitVec.ofNat 16 (memRead m (p + 38) 2),
    lmdBits := BitVec.ofNat 32 (memRead m (p + 40) 4),
    lState := BitVec.ofNat 16 (memRead m (p + 44) 2),
    mState := BitVec.ofNat 16 (memRead m (p + 46) 2),
    dState := BitVec.ofNat 16 (memRead m (p + 48) 2) }

/-- The 360 u16 frequencies of the verbose image at index p, from offset 50 on (R96). -/
def v1Freqs (m : Memory) (p : Nat) : List Nat := (List.range 360).map fun i => memRead m (p + 50 + 2 * i) 2

/-- `V1_LOAD` (R189). -/
def execV1Load (s : State) : Host.Outcome State Fault Refusal :=
  command s <|
    raiseOpt (srcCursorFault s) <|
    let p := s.cur.srcPos.toNat
    if s.cur.srcEnd.toNat < p + v1HeaderSize then .ok (.srcEmpty, s)
    else .ok (.ok, { loadHeader (v1Fields s.src p) (v1Freqs s.src p) v1HeaderSize s with
      cur := { s.cur with srcPos := nat64 (p + v1HeaderSize) }, res0 := nat64 v1HeaderSize })

/-- The 772 bytes of the verbose image of HDR and the frequencies (R96, R190): the magic is MAGIC_V1, the padding 0. -/
def v1Image (h : Hdr) (f : List Nat) : List U8 :=
  leBytes 4 magicV1 ++ leBytes 4 h.nRawBytes.toNat ++ leBytes 4 h.nPayloadBytes.toNat ++ leBytes 4 h.nLiterals.toNat
    ++ leBytes 4 h.nMatches.toNat ++ leBytes 4 h.nLiteralPayloadBytes.toNat ++ leBytes 4 h.nLmdPayloadBytes.toNat
    ++ leBytes 4 h.literalBits.toNat ++ leBytes 2 h.literalState0.toNat ++ leBytes 2 h.literalState1.toNat
    ++ leBytes 2 h.literalState2.toNat ++ leBytes 2 h.literalState3.toNat ++ leBytes 4 h.lmdBits.toNat
    ++ leBytes 2 h.lState.toNat ++ leBytes 2 h.mState.toNat ++ leBytes 2 h.dState.toNat
    ++ f.flatMap (leBytes 2) ++ [0, 0]

/-- `V1_STORE` (R190). Its FIELD_OVERFLOW cannot occur: every field of HDR fits its width (R190, log entry 20). -/
def execV1Store (s : State) : Host.Outcome State Fault Refusal :=
  command s <|
    raiseOpt (dstCursorFault s) <|
    if s.cur.dstEnd.toNat < s.cur.dstPos.toNat + v1HeaderSize then .ok (.dstFull, s)
    else .ok (.ok, (storeAtDstPos (v1Image s.hdr s.allFreqs) s).withRes0 (nat64 v1HeaderSize))

end Sys2Proof.Machine
end

