-- ==== Sys2Proof/Machine/Decoder.lean ====
section
/-! DEFINITION. The decoder engine (44_decoder_engine.md). -/

namespace Sys2Proof.Machine

/-- What one BLOCK_STEP answers (R202): CONTINUE, or a status that ends DEC_STEP. -/
inductive BlockStep where
  | cont (s : State)
  | stop (st : Status) (s : State)
  deriving Repr

/-- DEC.src_pos ← p. -/
def setDecSrcPos (p : Nat) (s : State) : State :=
  { s with dec := { s.dec with cur := { s.dec.cur with srcPos := nat64 p } } }

/-- DEC.block_magic ← b. -/
def setDecBlock (b : Block) (s : State) : State := { s with dec := { s.dec with block := b } }

/-! ## Opening a compressed block (R206 to R208) -/

/-- The four literal states of a block being opened (R207). -/
structure LitStates where
  s0 : Nat
  s1 : Nat
  s2 : Nat
  s3 : Nat
  deriving DecidableEq, Repr, Inhabited

/-- One literal of R207: the symbol, the next state and IN[0]; `none` is ERROR (92_eei_decisions.md D13). -/
def decodeLiteral (tab : Sparse DecEntry) (st : InAcc) (x : Nat) : Option (Nat × Nat × InAcc) :=
  match fseDecode tab st x with
  | .error _ => none
  | .ok (next, symbol, st') => some (symbol, next.toNat, st')

/-- Store literal `i` in DEC.lits. -/
def putDecLit (i symbol : Nat) (s : State) : State :=
  { s with dec := { s.dec with lits := arrSet 0 s.dec.lits i (BitVec.ofNat 8 symbol) } }

/-- One literal of a group (R207): DEC.lits[i] and the next state of the stream; `none` is ERROR. -/
def literalStep (i x : Nat) (s : State) : Option (Nat × State) :=
  match decodeLiteral s.decTab s.in0 x with
  | none => none
  | some (symbol, next, st) => some (next, putDecLit i symbol { s with in0 := st })

/-- One group of R207: IN_FLUSH, then literals 4g, …, 4g + 3 with states 0, …, 3. The Bool says the group is whole; on
ERROR the state is the one where it was found (60_exceptions.md R297). -/
def literalGroup (g : Nat) (x : LitStates) (s : State) : Bool × LitStates × State :=
  match inFlush s.src s.in0 with
  | none => (false, x, s)
  | some st =>
    let sF : State := { s with in0 := st }
    match literalStep (4 * g) x.s0 sF with
    | none => (false, x, sF)
    | some (y0, sA) =>
      match literalStep (4 * g + 1) x.s1 sA with
      | none => (false, x, sA)
      | some (y1, sB) =>
        match literalStep (4 * g + 2) x.s2 sB with
        | none => (false, x, sB)
        | some (y2, sC) =>
          match literalStep (4 * g + 3) x.s3 sC with
          | none => (false, x, sC)
          | some (y3, sD) => (true, { s0 := y0, s1 := y1, s2 := y2, s3 := y3 }, sD)

/-- The groups from g on, `count` of them (R207). -/
def literalGroups : Nat → Nat → LitStates → State → Bool × State
  | 0, _, _, s => (true, s)
  | count + 1, g, x, s =>
    match literalGroup g x s with
    | (false, _, s') => (false, s')
    | (true, x', s') => literalGroups count (g + 1) x' s'

/-- DECODE_LITERALS(q) (R207): the Bool says OK. The lower bound of IN[0] is DEC.src_begin. -/
def decodeLiterals (q : Nat) (s : State) : Bool × State :=
  let h := s.hdr
  match inInit s.src s.in0 h.literalBits.toInt (q + h.nLiteralPayloadBytes.toNat) s.dec.cur.srcBegin.toNat with
  | (false, x) => (false, { s with in0 := x })
  | (true, x) =>
    match literalGroups (h.nLiterals.toNat / 4) 0
        { s0 := h.literalState0.toNat, s1 := h.literalState1.toNat, s2 := h.literalState2.toNat,
          s3 := h.literalState3.toNat } { s with in0 := x } with
    | (false, s') => (false, s')
    | (true, s') => (true, { s' with dec := { s'.dec with nLits := h.nLiterals, litPos := 0 } })

/-- INIT_LMD(q) (R208): the Bool says OK. -/
def initLmd (q : Nat) (s : State) : Bool × State :=
  match inInit s.src s.in1 s.hdr.lmdBits.toInt (q + s.hdr.nLmdPayloadBytes.toNat) q with
  | (false, x) => (false, { s with in1 := x })
  | (true, x) => (true, { s with in1 := x, dec := { s.dec with lmdLo := nat64 q } })

/-- BUILD_DEC.LIT and BUILD_VDEC.L, .M, .D of FREQ (R206: after HDR_CHECK they cannot fail). -/
def buildBlockTables (s : State) : State :=
  { s with
    decTab := (decTable (s.freqList .lit)).getD [],
    vdecTab := { l := (vdecTable .l (s.freqList .l)).getD [], m := (vdecTable .m (s.freqList .m)).getD [],
                 d := (vdecTable .d (s.freqList .d)).getD [] } }

/-- The LMD part of a block whose literals are decoded: the last lines of R206. -/
def openLmd (block : Block) (q : Nat) (s : State) : BlockStep :=
  match initLmd q s with
  | (false, s') => .stop .error s'
  | (true, s') =>
    let h := s'.hdr
    .cont { s' with dec := { s'.dec with
      lState := h.lState, mState := h.mState, dState := h.dState,
      nMatches := h.nMatches, nLmdPayloadBytes := h.nLmdPayloadBytes,
      pendL := 0, pendM := 0, curD := BitVec.ofInt 32 (-1),
      cur := { s'.dec.cur with srcPos := nat64 q }, block := block } }

/-- OPEN_COMPRESSED (R206) once the header at p has been read as h, f, hs. -/
def openWith (block : Block) (p : Nat) (h : Hdr) (f : List Nat) (hs : Nat) (s : State) : BlockStep :=
  if s.dec.cur.srcEnd.toNat < p + hs + h.nLiteralPayloadBytes.toNat + h.nLmdPayloadBytes.toNat then .stop .srcEmpty s
  else
    let sH := loadHeader h f hs s
    if headerMask sH ≠ 0 then .stop .error sH
    else
      match decodeLiterals (p + hs) (buildBlockTables sH) with
      | (false, s') => .stop .error s'
      | (true, s') => openLmd block (p + hs + h.nLiteralPayloadBytes.toNat) s'

/-- OPEN_COMPRESSED(MAGIC_V2) at p = DEC.src_pos (R206). -/
def openV2 (s : State) : BlockStep :=
  let p := s.dec.cur.srcPos.toNat
  match unpackHeader s.src p s.dec.cur.srcEnd.toNat with
  | .srcEmpty => .stop .srcEmpty s
  | .error => .stop .error s
  | .ok h f hs => openWith .v2 p h f hs s

/-- OPEN_COMPRESSED(MAGIC_V1) at p = DEC.src_pos (R206). -/
def openV1 (s : State) : BlockStep :=
  let p := s.dec.cur.srcPos.toNat
  if s.dec.cur.srcEnd.toNat < p + v1HeaderSize then .stop .srcEmpty s
  else openWith .v1 p (v1Fields s.src p) (v1Freqs s.src p) v1HeaderSize s

/-! ## Between blocks (R203, R204) -/

/-- R203 and R204: read the magic at DEC.src_pos and dispatch on it. -/
def betweenBlocks (s : State) : BlockStep :=
  let p := s.dec.cur.srcPos.toNat
  let lim := s.dec.cur.srcEnd.toNat
  if lim < p + 4 then .stop .srcEmpty s
  else
    let magic := memRead s.src p 4
    if magic = magicEos then
      .stop .ok { s with dec := { s.dec with cur := { s.dec.cur with srcPos := nat64 (p + 4) }, endOfStream := true } }
    else if magic = magicRaw then
      if lim < p + 8 then .stop .srcEmpty s
      else .cont { s with dec := { s.dec with
        rawRemaining := BitVec.ofNat 32 (memRead s.src (p + 4) 4),
        cur := { s.dec.cur with srcPos := nat64 (p + 8) }, block := .raw } }
    else if magic = magicVn then
      if lim < p + 12 then .stop .srcEmpty s
      else .cont { s with dec := { s.dec with
        vnRaw := BitVec.ofNat 32 (memRead s.src (p + 4) 4), vnPayload := BitVec.ofNat 32 (memRead s.src (p + 8) 4),
        vnDprev := 0, cur := { s.dec.cur with srcPos := nat64 (p + 12) }, block := .vn } }
    else if magic = magicV1 then openV1 s
    else if magic = magicV2 then openV2 s
    else .stop .error s

/-! ## Uncompressed block (R205) -/

/-- Copy n bytes of SRC at DEC.src_pos to DST at DEC.dst_pos and advance both (R205). -/
def copyRaw (n : Nat) (s : State) : State :=
  let c := s.dec.cur
  { s with
    dst := writeBytes s.dst c.dstPos.toNat (readBytes s.src c.srcPos.toNat n),
    dec := { s.dec with
      cur := { c with srcPos := nat64 (c.srcPos.toNat + n), dstPos := nat64 (c.dstPos.toNat + n) },
      rawRemaining := BitVec.ofNat 32 (s.dec.rawRemaining.toNat - n) } }

/-- R205: the source test comes before the destination test. -/
def rawBlock (s : State) : BlockStep :=
  let c := s.dec.cur
  let n := s.dec.rawRemaining.toNat
  if n = 0 then .cont (setDecBlock .noBlock s)
  else if c.srcEnd.toNat ≤ c.srcPos.toNat then .stop .srcEmpty s
  else if c.dstEnd.toNat ≤ c.dstPos.toNat then .stop .dstFull s
  else .cont (copyRaw (min (min n (c.srcEnd.toNat - c.srcPos.toNat)) (c.dstEnd.toNat - c.dstPos.toNat)) s)

/-! ## Compressed block (R209 to R211) -/

/-- Store one byte at DEC.dst_pos and advance it (R211). -/
def putDstByte (b : U8) (s : State) : State :=
  let p := s.dec.cur.dstPos.toNat
  { s with dst := writeByte s.dst p b, dec := { s.dec with cur := { s.dec.cur with dstPos := nat64 (p + 1) } } }

/-- Copy n literals from DEC.lits at DEC.lit_pos (R211). -/
def copyLiterals : Nat → State → State
  | 0, s => s
  | n + 1, s =>
    let s1 := putDstByte (litAt s.dec.lits s.dec.litPos.toNat) s
    copyLiterals n { s1 with dec := { s1.dec with litPos := BitVec.ofNat 32 (s1.dec.litPos.toNat + 1) } }

/-- Copy n match bytes from distance D back, byte by byte and forward (R211). -/
def copyMatch (d : Nat) : Nat → State → State
  | 0, s => s
  | n + 1, s => copyMatch d n (putDstByte (readByte s.dst (s.dec.cur.dstPos.toNat - d)) s)

/-- DEC.L, DEC.M and DEC.D (R211). -/
def savePending (l m : Nat) (d : Int) (s : State) : State :=
  { s with dec := { s.dec with pendL := BitVec.ofNat 32 l, pendM := BitVec.ofNat 32 m, curD := BitVec.ofInt 32 d } }

/-- The bytes free at the destination (R211). -/
def dstRoom (s : State) : Nat := s.dec.cur.dstEnd.toNat - s.dec.cur.dstPos.toNat

/-- COPY_TRIPLET (R211), and the last line of R210's loop: the Bool says the triplet is done; else it is DST_FULL. -/
def copyTriplet (l m : Nat) (d : Int) (s : State) : Bool × State :=
  let nl := min l (dstRoom s)
  let s1 := copyLiterals nl s
  if 0 < l - nl then (false, savePending (l - nl) m d s1)
  else
    let nm := min m (dstRoom s1)
    let s2 := copyMatch d.toNat nm s1
    if 0 < m - nm then (false, savePending 0 (m - nm) d s2) else (true, savePending 0 0 d s2)

/-- How a stretch of LMD_LOOP ends. -/
inductive LmdStep where
  | done (s : State)
  | dstFull (s : State)
  | error (s : State)
  deriving Repr

/-- The distance check of R210, then COPY_TRIPLET. -/
def runTriplet (l m : Nat) (d : Int) (s : State) : LmdStep :=
  if d < 0 ∨ (s.dec.cur.dstPos.toNat + l : Int) - s.dec.cur.dstBegin.toNat < d then .error s
  else
    match copyTriplet l m d s with
    | (true, s') => .done s'
    | (false, s') => .dstFull s'

/-- FSE_VDECODE's body inside DEC_STEP on IN[1] (R210): the value and the next state, with IN[1] advanced; `none` is
ERROR (92_eei_decisions.md D13). -/
def pullValue (sel : VSel) (x : U16) (s : State) : Option (Int × U16 × State) :=
  match fseVdecode (s.vdecTab.get sel) s.in1 x.toNat with
  | .error _ => none
  | .ok (next, v, st) => some (v, BitVec.ofInt 16 next, { s with in1 := st })

/-- A triplet pulled from the LMD stream, or ERROR in the state where it was found (R297). -/
inductive Pulled where
  | triplet (l m : Nat) (d : Int) (s : State)
  | error (s : State)
  deriving Repr

/-- Pull the next triplet (R210): IN_FLUSH, L, the literal check of D14, M, D, and DEC.n_matches − 1. -/
def pullTriplet (s : State) : Pulled :=
  match inFlush s.src { s.in1 with lo := s.dec.lmdLo } with
  | none => .error s
  | some st =>
    let sF : State := { s with in1 := st }
    match pullValue .l sF.dec.lState sF with
    | none => .error sF
    | some (l, xl, sL0) =>
      let sL : State := { sL0 with dec := { sL0.dec with lState := xl } }
      if (sL.dec.nLits.toNat : Int) < sL.dec.litPos.toNat + l then .error sL
      else
        match pullValue .m sL.dec.mState sL with
        | none => .error sL
        | some (m, xm, sM0) =>
          let sM : State := { sM0 with dec := { sM0.dec with mState := xm } }
          match pullValue .d sM.dec.dState sM with
          | none => .error sM
          | some (newD, xd, sD0) =>
            .triplet l.toNat m.toNat (if newD ≠ 0 then newD else s.dec.curD.toInt)
              { sD0 with dec := { sD0.dec with dState := xd,
                                               nMatches := BitVec.ofNat 32 (sD0.dec.nMatches.toNat - 1) } }

/-- LMD_LOOP (R210) with no triplet pending and `count` = DEC.n_matches triplets to pull. -/
def lmdTriplets : Nat → State → LmdStep
  | 0, s => .done s
  | count + 1, s =>
    match pullTriplet s with
    | .error s' => .error s'
    | .triplet l m d s' =>
      match runTriplet l m d s' with
      | .done s'' => lmdTriplets count s''
      | .dstFull s'' => .dstFull s''
      | .error s'' => .error s''

/-- LMD_LOOP (R210): first the pending triplet, if any. -/
def lmdLoop (s : State) : LmdStep :=
  if s.dec.pendL = 0 ∧ s.dec.pendM = 0 then lmdTriplets s.dec.nMatches.toNat s
  else
    match runTriplet s.dec.pendL.toNat s.dec.pendM.toNat s.dec.curD.toInt s with
    | .done s' => lmdTriplets s'.dec.nMatches.toNat s'
    | .dstFull s' => .dstFull s'
    | .error s' => .error s'

/-- R209: an open compressed block. -/
def compressedBlock (s : State) : BlockStep :=
  let c := s.dec.cur
  if c.srcEnd.toNat ≤ c.srcPos.toNat ∨ c.srcEnd.toNat - c.srcPos.toNat < s.dec.nLmdPayloadBytes.toNat then
    .stop .srcEmpty s
  else
    match lmdLoop s with
    | .error s' => .stop .error s'
    | .dstFull s' => .stop .dstFull s'
    | .done s' =>
      .cont (setDecSrcPos (s'.dec.cur.srcPos.toNat + s'.dec.nLmdPayloadBytes.toNat) (setDecBlock .noBlock s'))

/-! ## Secondary block (R214) -/

/-- The call of SECONDARY_DECODE of R214. The agent sees the SRC bytes P1 lets it read, and of DST the bytes produced before the call.
DESIGN CHOICE (log entry 6): P1 also lets it read [dst_pos, dst_pos'), and the spec leaves open whether what stood there before
the call may show in the answer; in the model it does not. -/
def secondaryCall (s : State) : SecondaryCall :=
  let c := s.dec.cur
  let srcLim := min c.srcEnd.toNat (c.srcPos.toNat + s.dec.vnPayload.toNat)
  let dstLim := min c.dstEnd.toNat (c.dstPos.toNat + s.dec.vnRaw.toNat)
  { srcBytes := readBytes s.src c.srcPos.toNat (srcLim - c.srcPos.toNat),
    srcPos := c.srcPos.toNat, srcLim := srcLim,
    dstBytes := readBytes s.dst c.dstBegin.toNat (c.dstPos.toNat - c.dstBegin.toNat),
    dstBegin := c.dstBegin.toNat, dstPos := c.dstPos.toNat, dstLim := dstLim, dprev := s.dec.vnDprev }

/-- The state after the agent's answer (R214): its bytes at DEC.dst_pos, the counts lowered, DEC.vn_dprev. -/
def secondaryApply (r : SecondaryResult) (out : List U8) (s : State) : State :=
  let c := s.dec.cur
  { s with
    dst := writeBytes s.dst c.dstPos.toNat out,
    dec := { s.dec with
      cur := { c with srcPos := nat64 (c.srcPos.toNat + r.consumed), dstPos := nat64 (c.dstPos.toNat + out.length) },
      vnPayload := BitVec.ofNat 32 (s.dec.vnPayload.toNat - r.consumed),
      vnRaw := BitVec.ofNat 32 (s.dec.vnRaw.toNat - out.length), vnDprev := r.dprev } }

/-- R214 on an answer of the agent. The contract DEC.dst_pos ≤ dp ≤ dst_lim, which the core assumes, is kept by taking
no more bytes than fit below dst_lim (log entry 6). -/
def secondaryAnswer (r : SecondaryResult) (s : State) : BlockStep :=
  if s.dec.vnPayload.toNat < r.consumed ∨ s.dec.vnRaw.toNat < r.produced.length then .stop .error s
  else
    let s' := secondaryApply r (r.produced.take ((secondaryCall s).dstLim - s.dec.cur.dstPos.toNat)) s
    if s'.dec.vnPayload = 0 ∧ s'.dec.vnRaw = 0 ∧ r.eos then .cont (setDecBlock .noBlock s')
    else if s'.dec.vnPayload = 0 ∨ s'.dec.vnRaw = 0 ∨ r.eos then .stop .error s'
    else .stop .dstFull s'

/-- R214. -/
def secondaryBlock (s : State) : BlockStep :=
  if (s.dec.cur.srcEnd.toNat : Int) - s.dec.cur.srcPos.toNat < s.dec.vnPayload.toNat then .stop .srcEmpty s
  else secondaryAnswer (Config.secondaryDecode (secondaryCall s)) s

/-! ## The step (R201, R202) -/

/-- BLOCK_STEP (R202). -/
def blockStep (s : State) : BlockStep :=
  match s.dec.block with
  | .noBlock => betweenBlocks s
  | .raw => rawBlock s
  | .v1 => compressedBlock s
  | .v2 => compressedBlock s
  | .vn => secondaryBlock s

/-- The loop of R201, at most `fuel` block steps. -/
def blockLoop : Nat → State → Option (Status × State)
  | 0, _ => none
  | fuel + 1, s =>
    match blockStep s with
    | .stop st s' => some (st, s')
    | .cont s' => blockLoop fuel s'

/-- A bound on the block steps of one DEC_STEP: each CONTINUE advances DEC.src_pos or closes a block (R201, log entry 18). -/
def blockBound (s : State) : Nat := 2 * (s.dec.cur.srcEnd.toNat - s.dec.cur.srcPos.toNat) + 2

/-- What a DEC_STEP that ran leaves unspecified: the DST bytes from DEC.dst_pos to DEC.dst_end (20_memory.md R79) and the
DEC.lits entries from DEC.n_lits on (93_implementation_defined.md U3). -/
def releaseDec (s : State) : State :=
  releaseDecLits (releaseDst s.dec.cur.dstPos.toNat s.dec.cur.dstEnd.toNat s)

/-- The body of DEC_STEP (R201) on a context that is not poisoned, up to its results. `none`: the step bound was not
enough. -/
def decRun (s : State) : Option (Status × State) :=
  if s.dec.endOfStream then some (.ok, writeBackDec s)
  else
    match blockLoop (blockBound s) s with
    | none => none
    | some (st, s1) =>
      some (st, writeBackDec (releaseDec (poisonDecOnError st s1)))

/-- DEC.dst_pos − DEC.dst_begin (R201). -/
def decWritten (s : State) : Int := (s.dec.cur.dstPos.toNat : Int) - s.dec.cur.dstBegin.toNat

/-- DEC.src_pos − DEC.src_begin (R201). -/
def decConsumed (s : State) : Int := (s.dec.cur.srcPos.toNat : Int) - s.dec.cur.srcBegin.toNat

/-- The body of DEC_INIT (R200) on checked cursors: every field of 10_state.md R51 at its reset value, IN[1] INVALID. -/
def decInit (s : State) : State :=
  writeBackDec { s with
    dec := { DecCtx.reset with
      cur := { s.cur with srcBegin := s.cur.srcPos, dstBegin := s.cur.dstPos }, feedLo := s.cur.srcEnd },
    in1 := InAcc.zero }

/-- `DEC_INIT` (R200). -/
def execDecInit (s : State) : Host.Outcome State Fault Refusal :=
  command s <|
    raiseOpt (cursorFault s) <|
    .ok (.ok, (decInit s).withRes 0 0)

/-- `DEC_STEP` (R201). -/
def execDecStep (s : State) : Host.Outcome State Fault Refusal :=
  if s.fault.isSome ∨ s.dec.poisoned then
    command s (.error { cause := .contextPoisoned, info := 0 })
  else
    match decRun s with
    | none => .fault .stepBound
    | some (st, s') => command s (.ok (st, s'.withRes (word64 (decWritten s')) (word64 (decConsumed s'))))

/-- `DEC_FEED` (R216). SRC_END is the one register read; it must lie in the SRC space (10_state.md R32, log entry 8). -/
def execDecFeed (s : State) : Host.Outcome State Fault Refusal :=
  command s <|
    raiseDecPoisoned s <|
    raiseIf (decide (s.cur.srcEnd.toNat < s.dec.cur.srcEnd.toNat ∨ s.srcSize.toNat < s.cur.srcEnd.toNat)) .badCursor 2 <|
    .ok (.ok, writeBackDec { s with dec := { s.dec with cur := { s.dec.cur with srcEnd := s.cur.srcEnd } } })

/-- `DEC_GROW` (R217). DST_END is the one register read; it must lie in the DST space (R32, log entry 8). -/
def execDecGrow (s : State) : Host.Outcome State Fault Refusal :=
  command s <|
    raiseDecPoisoned s <|
    raiseIf (decide (s.cur.dstEnd.toNat < s.dec.cur.dstEnd.toNat ∨ s.dstSize.toNat < s.cur.dstEnd.toNat)) .badCursor 5 <|
    .ok (.ok, writeBackDec { s with dec := { s.dec with cur := { s.dec.cur with dstEnd := s.cur.dstEnd } } })

/-- RES0 of DEC_BUFFER (R218): the capacity where the output is truncated, 0 on failure, else the bytes written. -/
def decBufferCount (st : Status) (s : State) : Int :=
  match st with
  | .dstFull => (s.dec.cur.dstEnd.toNat : Int) - s.dec.cur.dstBegin.toNat
  | .ok => decWritten s
  | .srcEmpty => 0
  | .error => 0
  | .stateFull => 0
  | .faulted => 0

/-- `DEC_BUFFER` (R218): DEC_INIT with its results, then DEC_STEP. -/
def execDecBuffer (s : State) : Host.Outcome State Fault Refusal :=
  if s.fault.isSome then .next s
  else
    match cursorFault s with
    | some t => command s (.error t)
    | none =>
      match decRun { (decInit s).withRes 0 0 with status := .ok } with
      | none => .fault .stepBound
      | some (st, s') => command s (.ok (st, s'.withRes (word64 (decBufferCount st s')) (word64 (decConsumed s'))))

end Sys2Proof.Machine
end

