-- ==== Sys2Proof/Machine/BackEnd.lean ====
section
/-! DEFINITION. The encoder back end (46_encoder_backend.md): the triplet arrays, EMIT_BLOCK, ENC_FINISH and STORE_RAW. A
body that can end with a status other than OK answers a Bool, true for OK. -/

namespace Sys2Proof.Machine

/-! ## Reading the source (20_memory.md R71, 10_state.md R53) -/

/-- The SRC index one past the encoder's region. -/
def encRegionEnd (s : State) : Nat := min (s.enc.srcBegin.toNat + s.enc.srcLimit.toNat) s.srcSize.toNat

/-- src(i): the SRC byte at ENC.src_begin + i. Outside [ENC.src_lo, ENC.src_begin + ENC.src_limit) it faults BUFFER_BOUNDS
with FAULT_INFO = the index (R71), a free value where the index does not fit FAULT_INFO (log entry 25). -/
def encSrcByte (s : State) (i : Int) : Except Trap U8 :=
  let a : Int := s.enc.srcBegin.toNat + i
  raiseIf (decide (a < s.enc.srcLo.toNat ∨ (encRegionEnd s : Int) ≤ a)) .bufferBounds (fitU64 a) <|
  .ok (readByte s.src a.toNat)

/-- src(i), …, src(i + n − 1). -/
def encSrcBytes (s : State) : Int → Nat → Except Trap (List U8)
  | _, 0 => .ok []
  | i, n + 1 =>
    match encSrcByte s i with
    | .error t => .error t
    | .ok b =>
      match encSrcBytes s (i + 1) n with
      | .error t => .error t
      | .ok r => .ok (b :: r)

/-! ## Accumulating triplets (R250, R252) -/

/-- The margins of R250: there is no room for one more triplet with l literals. -/
def stateFull (s : State) (l : Nat) : Bool :=
  decide (matchesPerBlock < s.enc.nMatches.toNat + 1 + matchMargin ∨
    literalsPerBlock < s.enc.nLits.toNat + l + literalMargin)

/-- Append the triplet (l, m, d) and its literals, the room being there (R250). ENC.src_literal is a free value where the sum does not
fit it (log entry 25). -/
def appendTriplet (l m d : Nat) (lits : List U8) (s : State) : State :=
  let n := s.enc.nMatches.toNat
  { s with enc := { s.enc with
      lValues := arrSet 0 s.enc.lValues n (BitVec.ofNat 32 l),
      mValues := arrSet 0 s.enc.mValues n (BitVec.ofNat 32 m),
      dValues := arrSet 0 s.enc.dValues n (BitVec.ofNat 32 d),
      lits := arrSetAll 0 s.enc.lits s.enc.nLits.toNat lits,
      nMatches := BitVec.ofNat 32 (n + 1),
      nLits := BitVec.ofNat 32 (s.enc.nLits.toNat + l),
      srcLiteral := fitS64 (s.enc.srcLiteral.toInt + l + m) } }

/-- The body of PUSH_LMD on operands in range (R250); false is STATE_FULL, nothing changed. -/
def pushLmd (l m d : Nat) (s : State) : Except Trap (Bool × State) :=
  if stateFull s l then .ok (false, s)
  else
    match encSrcBytes s s.enc.srcLiteral.toInt l with
    | .error t => .error t
    | .ok lits => .ok (true, appendTriplet l m d lits s)

/-- Push q literal-only triplets (315, 0, 1) (R252). -/
def pushRuns : Nat → State → Except Trap (Bool × State)
  | 0, s => .ok (true, s)
  | q + 1, s =>
    match pushLmd maxLValue 0 1 s with
    | .error t => .error t
    | .ok (false, s') => .ok (false, s')
    | .ok (true, s') => pushRuns q s'

/-- Push q triplets of match length 2359, the first with l literals, then the last triplet (l or 0, m, d) unless it is empty
(R252). -/
def pushPieces (d m : Nat) : Nat → Nat → State → Except Trap (Bool × State)
  | 0, l, s => if 0 < l ∨ 0 < m then pushLmd l m d s else .ok (true, s)
  | q + 1, l, s =>
    match pushLmd l maxMValue d s with
    | .error t => .error t
    | .ok (false, s') => .ok (false, s')
    | .ok (true, s') => pushPieces d m q 0 s'

/-- How many full pieces of size `size` the loops of R252 take off v: they run while v > size. -/
def fullPieces (v size : Nat) : Nat := (v - 1) / size

/-- The two loops and the last push of R252 for L, M and D. -/
def pushSplit (l m d : Nat) (s : State) : Except Trap (Bool × State) :=
  let ql := fullPieces l maxLValue
  let qm := fullPieces m maxMValue
  match pushRuns ql s with
  | .error t => .error t
  | .ok (false, s') => .ok (false, s')
  | .ok (true, s') => pushPieces d (m - maxMValue * qm) qm (l - maxLValue * ql) s'

/-- FULL of R252: the lengths and ENC.src_literal as in `s`; the entries beyond them are unspecified (U3). -/
def undoPush (s s' : State) : State :=
  releaseEncArrays s.enc.nMatches.toNat s.enc.nLits.toNat
    { s' with enc := { s'.enc with
        nMatches := s.enc.nMatches, nLits := s.enc.nLits, srcLiteral := s.enc.srcLiteral } }

/-- The body of PUSH_MATCH (R252) on a context that is not poisoned; false is STATE_FULL. -/
def pushMatch (pos ref : Int) (length : Nat) (s : State) : Except Trap (Bool × State) :=
  raiseIf (decide (pos < s.enc.srcLiteral.toInt)) .badOperand 0 <|
  raiseIf (decide (pos ≤ ref ∨ (maxDValue : Int) < pos - ref)) .badOperand 1 <|
  raiseIf (decide ((s.enc.srcLimit.toNat : Int) < pos + length)) .badOperand 2 <|
  match pushSplit (pos - s.enc.srcLiteral.toInt).toNat length (pos - ref).toNat s with
  | .error t => .error t
  | .ok (true, s') => .ok (true, s')
  | .ok (false, s') => .ok (false, undoPush s s')

/-- RES0 and RES1 of a push (R250, R252). -/
def withPushRes (s : State) : State := s.withRes (nat64 s.enc.nMatches.toNat) (nat64 s.enc.nLits.toNat)

/-- The end of a push command: OK with its results, or STATE_FULL; the ENC cursors are written back (10_state.md R33). -/
def endPush : Bool × State → Status × State
  | (true, s) => (.ok, writeBackEnc (withPushRes s))
  | (false, s) => (.stateFull, writeBackEnc s)

/-- `PUSH_LMD` (R250). -/
def execPushLmd (s : State) : Host.Outcome State Fault Refusal :=
  command s <|
    raiseEncPoisoned s <|
    raiseIf (decide (maxLValue < argNat s.arg0)) .badOperand 0 <|
    raiseIf (decide (maxMValue < argNat s.arg1)) .badOperand 1 <|
    raiseIf (decide (argNat s.arg2 < 1 ∨ maxDValue < argNat s.arg2)) .badOperand 2 <|
    (pushLmd (argNat s.arg0) (argNat s.arg1) (argNat s.arg2) s).map endPush

/-- `PUSH_MATCH` (R252). -/
def execPushMatch (s : State) : Host.Outcome State Fault Refusal :=
  command s <|
    raiseEncPoisoned s <|
    (pushMatch (argNat s.arg0) (argNat s.arg1) (argNat s.arg2) s).map endPush

/-! ## Preparing a block (R259 to R262) -/

/-- ENC.l_values, m_values or d_values up to ENC.n_matches. -/
def valueList (sel : VSel) (s : State) : List Nat := (List.range s.enc.nMatches.toNat).map (valueAt sel s)

/-- ENC.lits up to ENC.n_lits. -/
def encLitList (s : State) : List Nat := (List.range s.enc.nLits.toNat).map fun i => (litAt s.enc.lits i).toNat

/-- The number of padding literals (R259). -/
def padCount (n : Nat) : Nat := (4 - n % 4) % 4

/-- PAD_LITERALS (R259). -/
def padLiterals (s : State) : State :=
  let n := s.enc.nLits.toNat
  { s with enc := { s.enc with
      lits := arrSetAll 0 s.enc.lits n (List.replicate (padCount n) 0), nLits := BitVec.ofNat 32 (n + padCount n) } }

/-- SUBSTITUTE_REPEATS on a list, after distance dprev (R260). -/
def substituteRepeats : Nat → List Nat → List Nat
  | _, [] => []
  | dprev, d :: r => if d = dprev then 0 :: substituteRepeats dprev r else d :: substituteRepeats d r

/-- SUBSTITUTE_REPEATS (R260). -/
def substituteDistances (s : State) : State :=
  { s with enc := { s.enc with
      dValues := arrSetAll 0 s.enc.dValues 0 ((substituteRepeats 0 (valueList .d s)).map (BitVec.ofNat 32)) } }

/-- The symbols and extra-bit values of a list of values (R261, R264: SYMBOL_OF_VALUE's body). -/
def valueSymbols (sel : VSel) : List Nat → Except Trap (List (Nat × Nat))
  | [] => .ok []
  | v :: r =>
    match symbolOfValue sel v with
    | .error t => .error t
    | .ok x =>
      match valueSymbols sel r with
      | .error t => .error t
      | .ok xs => .ok (x :: xs)

/-- How often each of the symbols 0, …, n − 1 stands in a list (R261). -/
def countSymbols (n : Nat) (xs : List Nat) : List Nat := (List.range n).map fun i => xs.count i

/-- The block's triplets as symbols with extra-bit values, in the order of the arrays. -/
structure BlockSymbols where
  l : List (Nat × Nat)
  m : List (Nat × Nat)
  d : List (Nat × Nat)
  lits : List Nat
  deriving DecidableEq, Repr, Inhabited

/-- The symbols of the block in ENC's arrays (R261). -/
def blockSymbols (s : State) : Except Trap BlockSymbols :=
  match valueSymbols .l (valueList .l s) with
  | .error t => .error t
  | .ok l =>
    match valueSymbols .m (valueList .m s) with
    | .error t => .error t
    | .ok m =>
      match valueSymbols .d (valueList .d s) with
      | .error t => .error t
      | .ok d => .ok { l := l, m := m, d := d, lits := encLitList s }

/-- HISTOGRAMS (R261). -/
def histograms (b : BlockSymbols) (s : State) : State :=
  { s with occ := { l := occOfList (countSymbols 20 (b.l.map Prod.fst)), m := occOfList (countSymbols 20 (b.m.map Prod.fst)),
                    d := occOfList (countSymbols 64 (b.d.map Prod.fst)), lit := occOfList (countSymbols 256 b.lits) } }

/-- FREQ[SEL] as NORMALIZE makes it from OCC[SEL] (R150). -/
def normalized (s : State) (sel : Sel) : Except Trap (List Nat) :=
  match normalizeCounts (nstates sel) (s.occList sel) with
  | .error t => .error t
  | .ok (f, _) => .ok f

/-- TABLES (R262): FREQ, HDR_SIZE and ENC from the four normalised tables. -/
def setTables (l m d lit : List Nat) (s : State) : State :=
  { s with
    freq := { l := freqOfList l, m := freqOfList m, d := freqOfList d, lit := freqOfList lit },
    hdrSize := BitVec.ofNat 32 (v2FixedSize + freqRegionLength (l ++ m ++ d ++ lit)),
    encTab := { l := encTable 64 l, m := encTable 64 m, d := encTable 256 d, lit := encTable 1024 lit } }

/-- TABLES (R262). -/
def buildTables (s : State) : Except Trap State :=
  match normalized s .l with
  | .error t => .error t
  | .ok l =>
    match normalized s .m with
    | .error t => .error t
    | .ok m =>
      match normalized s .d with
      | .error t => .error t
      | .ok d =>
        match normalized s .lit with
        | .error t => .error t
        | .ok lit => .ok (setTables l m d lit s)

/-! ## Encoding the payloads (R263, R264) -/

/-- The payload written so far: the bytes, and OUT. -/
structure Payload where
  bytes : List U8
  out : OutAcc
  deriving DecidableEq, Repr, Inhabited

/-- OUT_FLUSH's body on the payload (R263, R264). -/
def flushPayload (p : Payload) : Payload :=
  { bytes := p.bytes ++ outFlushBytes p.out, out := outFlushed p.out }

/-- OUT_FINISH's body on the payload (R263, R264). -/
def finishPayload (p : Payload) : Payload :=
  { bytes := p.bytes ++ outFinishBytes p.out, out := outFinished p.out }

/-- FSE_ENCODE's body on one stream state (R170): OUT and the next state. -/
def encodeSymbol (tab : Sparse EncEntry) (o : OutAcc) (st sym : Nat) : Except Trap (OutAcc × Nat) :=
  match fseEncode tab o st sym with
  | .error t => .error t
  | .ok (o', next, _) => .ok (o', next.toNat)

/-- A value of a triplet (R264): its extra bits, then its symbol. -/
def encodeValue (sel : VSel) (tab : Sparse EncEntry) (o : OutAcc) (st : Nat) (x : Nat × Nat) : Except Trap (OutAcc × Nat) :=
  match outPush o ((vbits sel).getD x.1 0) x.2 with
  | .error t => .error t
  | .ok o' => encodeSymbol tab o' st x.1

/-- One group of four literals, in the order j = 3, 2, 1, 0 (R263). -/
def encodeGroup (tab : Sparse EncEntry) (x : LitStates) (o : OutAcc) (b0 b1 b2 b3 : Nat) : Except Trap (LitStates × OutAcc) :=
  match encodeSymbol tab o x.s3 b3 with
  | .error t => .error t
  | .ok (o3, y3) =>
    match encodeSymbol tab o3 x.s2 b2 with
    | .error t => .error t
    | .ok (o2, y2) =>
      match encodeSymbol tab o2 x.s1 b1 with
      | .error t => .error t
      | .ok (o1, y1) =>
        match encodeSymbol tab o1 x.s0 b0 with
        | .error t => .error t
        | .ok (o0, y0) => .ok ({ s0 := y0, s1 := y1, s2 := y2, s3 := y3 }, o0)

/-- The loop of R263 on the literals from the last to the first, `room` bytes being free from the payload's start: the Bool is
false where a group finds fewer than 16 bytes. -/
def encodeGroups (tab : Sparse EncEntry) (room : Nat) : List Nat → LitStates → Payload → Except Trap (Bool × LitStates × Payload)
  | b3 :: b2 :: b1 :: b0 :: r, x, p =>
    if room < p.bytes.length + 16 then .ok (false, x, p)
    else
      match encodeGroup tab x p.out b0 b1 b2 b3 with
      | .error t => .error t
      | .ok (x', o) => encodeGroups tab room r x' (flushPayload { p with out := o })
  | _, x, p => .ok (true, x, p)

/-- The three states of ENCODE_LMD (R264). -/
structure LmdStates where
  l : Nat
  m : Nat
  d : Nat
  deriving DecidableEq, Repr, Inhabited

/-- One triplet in the order D, M, L (R264). -/
def encodeTriplet (q : Quad (Sparse EncEntry)) (x : LmdStates) (o : OutAcc) (l m d : Nat × Nat) : Except Trap (LmdStates × OutAcc) :=
  match encodeValue .d q.d o x.d d with
  | .error t => .error t
  | .ok (oD, yd) =>
    match encodeValue .m q.m oD x.m m with
    | .error t => .error t
    | .ok (oM, ym) =>
      match encodeValue .l q.l oM x.l l with
      | .error t => .error t
      | .ok (oL, yl) => .ok ({ l := yl, m := ym, d := yd }, oL)

/-- The loop of R264 on the triplets from the last to the first, as `encodeGroups`. -/
def encodeTriplets (q : Quad (Sparse EncEntry)) (room : Nat) :
    List ((Nat × Nat) × (Nat × Nat) × (Nat × Nat)) → LmdStates → Payload → Except Trap (Bool × LmdStates × Payload)
  | [], x, p => .ok (true, x, p)
  | (l, m, d) :: r, x, p =>
    if room < p.bytes.length + 16 then .ok (false, x, p)
    else
      match encodeTriplet q x p.out l m d with
      | .error t => .error t
      | .ok (x', o) => encodeTriplets q room r x' (flushPayload { p with out := o })

/-- What a payload stage of EMIT_BLOCK answers: the bytes it wrote and the state with OUT and HDR updated, or FULL with OUT as
the failed check found it (R266). -/
inductive Stage where
  | done (bytes : List U8) (s : State)
  | full (s : State)
  deriving Repr

/-- ENCODE_LITERALS(q) (R263). -/
def encodeLiterals (q : Nat) (b : BlockSymbols) (s : State) : Except Trap Stage :=
  match encodeGroups s.encTab.lit (s.enc.dstEnd.toNat - q) b.lits.reverse { s0 := 0, s1 := 0, s2 := 0, s3 := 0 }
      { bytes := [], out := OutAcc.zero } with
  | .error t => .error t
  | .ok (false, _, p) => .ok (.full { s with out := p.out })
  | .ok (true, x, p) =>
    let f := finishPayload p
    .ok (.done f.bytes { s with
      out := f.out,
      hdr := { s.hdr with
        literalBits := BitVec.ofInt 32 f.out.nbits,
        literalState0 := BitVec.ofNat 16 x.s0, literalState1 := BitVec.ofNat 16 x.s1,
        literalState2 := BitVec.ofNat 16 x.s2, literalState3 := BitVec.ofNat 16 x.s3,
        nLiteralPayloadBytes := BitVec.ofNat 32 f.bytes.length } })

/-- ENCODE_LMD(q) (R264): the payload starts with 8 zero bytes. -/
def encodeLmd (q : Nat) (b : BlockSymbols) (s : State) : Except Trap Stage :=
  if s.enc.dstEnd.toNat < q + 8 then .ok (.full s)
  else
    match encodeTriplets s.encTab (s.enc.dstEnd.toNat - q) (b.l.zip (b.m.zip b.d)).reverse { l := 0, m := 0, d := 0 }
        { bytes := List.replicate 8 0, out := OutAcc.zero } with
    | .error t => .error t
    | .ok (false, _, p) => .ok (.full { s with out := p.out })
    | .ok (true, x, p) =>
      let f := finishPayload p
      .ok (.done f.bytes { s with
        out := f.out,
        hdr := { s.hdr with
          lmdBits := BitVec.ofInt 32 f.out.nbits, lState := BitVec.ofNat 16 x.l, mState := BitVec.ofNat 16 x.m,
          dState := BitVec.ofNat 16 x.d, nLmdPayloadBytes := BitVec.ofNat 32 f.bytes.length } })

/-! ## EMIT_BLOCK (R258) -/

/-- The header fields WRITE_HEADER sets (R265). -/
def finalHeader (s : State) : Hdr :=
  { s.hdr with
    magic := BitVec.ofNat 32 magicV2,
    nRawBytes := BitVec.ofNat 32 ((valueList .l s).sum + (valueList .m s).sum),
    nLiterals := s.enc.nLits, nMatches := s.enc.nMatches,
    nPayloadBytes := BitVec.ofNat 32 (s.hdr.nLiteralPayloadBytes.toNat + s.hdr.nLmdPayloadBytes.toNat) }

/-- The end of a block that fits: header and payloads at ENC.dst_pos, the arrays empty (R258, R265). The ENC.lits entries from
`lits0` on, and the DST bytes from the new ENC.dst_pos on, are unspecified (U2, U3). -/
def closeBlock (lits0 : Nat) (payload : List U8) (s : State) : Except Trap State :=
  let h := finalHeader s
  raiseOpt (fieldOverflow h s.allFreqs) <|
  let bytes := packedHeader h s.allFreqs ++ payload
  let buf := s.enc.dstPos.toNat + bytes.length
  .ok (releaseEncLits lits0 (releaseDst buf s.enc.dstEnd.toNat { s with
    hdr := h, dst := writeBytes s.dst s.enc.dstPos.toNat bytes,
    enc := { s.enc with dstPos := nat64 buf, nMatches := 0, nLits := 0 } }))

/-- ROLLBACK (R266), from the state `s` at the failure to that of the entry `s0`, but for OCC, FREQ, ENC, HDR, HDR_SIZE and OUT. -/
def rollback (s0 s : State) : State :=
  releaseDst s0.enc.dstPos.toNat s0.enc.dstEnd.toNat
    (releaseEncArrays s0.enc.nMatches.toNat s0.enc.nLits.toNat
      { s with enc := { s.enc with nLits := s0.enc.nLits, dValues := s0.enc.dValues } })

/-- The payload stages and the header, once the tables are built (R258). -/
def emitPayload (s0 : State) (b : BlockSymbols) (s : State) : Except Trap (Bool × State) :=
  let q := s.enc.dstPos.toNat + s.hdrSize.toNat
  match encodeLiterals q b s with
  | .error t => .error t
  | .ok (.full s1) => .ok (false, rollback s0 s1)
  | .ok (.done lits s1) =>
    match encodeLmd (q + lits.length) b s1 with
    | .error t => .error t
    | .ok (.full s2) => .ok (false, rollback s0 s2)
    | .ok (.done lmd s2) => (closeBlock s0.enc.nLits.toNat (lits ++ lmd) s2).map fun s3 => (true, s3)

/-- EMIT_BLOCK with something to emit (R258); false is DST_FULL. -/
def emitFilled (s : State) : Except Trap (Bool × State) :=
  let sD := substituteDistances (padLiterals s)
  match blockSymbols sD with
  | .error t => .error t
  | .ok b =>
    let sH := histograms b sD
    if s.enc.dstEnd.toNat < s.enc.dstPos.toNat + encHeaderRoom then .ok (false, rollback s sH)
    else
      match buildTables sH with
      | .error t => .error t
      | .ok sT => emitPayload s b sT

/-- There is nothing to emit (R258). -/
def nothingToEmit (s : State) : Bool := decide (s.enc.nLits = 0 ∧ s.enc.nMatches = 0)

/-- The body of EMIT_BLOCK (R258) on a context that is not poisoned; false is DST_FULL. -/
def emitBlock (s : State) : Except Trap (Bool × State) :=
  if nothingToEmit s then .ok (true, s) else emitFilled s

/-- The end of EMIT_BLOCK, entered in `s0` (R258): RES0 the block's length, RES1 HDR_SIZE, both 0 where nothing was emitted. -/
def endEmit (s0 : State) : Bool × State → Status × State
  | (true, s) =>
    (.ok, writeBackEnc (if nothingToEmit s0 then s.withRes 0 0
      else s.withRes (nat64 (s.enc.dstPos.toNat - s0.enc.dstPos.toNat)) (nat64 s.hdrSize.toNat)))
  | (false, s) => (.dstFull, writeBackEnc s)

/-- `EMIT_BLOCK` (R258). -/
def execEmitBlock (s : State) : Host.Outcome State Fault Refusal :=
  command s <| raiseEncPoisoned s <| (emitBlock s).map (endEmit s)

/-! ## Pushing with an emission where the block is full (R254, R256) -/

/-- The body of BACKEND_MATCH (R254) on a context that is not poisoned; false is ERROR, the context poisoned. -/
def backendMatch (pos ref : Int) (length : Nat) (s : State) : Except Trap (Bool × State) :=
  match pushMatch pos ref length s with
  | .error t => .error t
  | .ok (true, s1) => .ok (true, s1)
  | .ok (false, s1) =>
    match emitBlock s1 with
    | .error t => .error t
    | .ok (false, s2) => .ok (false, poisonEnc s2)
    | .ok (true, s2) =>
      match pushMatch pos ref length s2 with
      | .error t => .error t
      | .ok (true, s3) => .ok (true, s3)
      | .ok (false, s3) => .ok (false, poisonEnc s3)

/-- The body of BACKEND_LITERALS (R256) for L > 0. -/
def backendLiterals (l : Nat) (s : State) : Except Trap (Bool × State) :=
  let p := s.enc.srcLiteral.toInt + l
  backendMatch p (p - 1) 0 s

/-- The end of BACKEND_MATCH and BACKEND_LITERALS (R254). -/
def endBackend : Bool × State → Status × State
  | (true, s) => (.ok, writeBackEnc (withPushRes s))
  | (false, s) => (.error, writeBackEnc s)

/-- `BACKEND_MATCH` (R254). -/
def execBackendMatch (s : State) : Host.Outcome State Fault Refusal :=
  command s <|
    raiseEncPoisoned s <|
    (backendMatch (argNat s.arg0) (argNat s.arg1) (argNat s.arg2) s).map endBackend

/-- `BACKEND_LITERALS` (R256). -/
def execBackendLiterals (s : State) : Host.Outcome State Fault Refusal :=
  command s <|
    raiseEncPoisoned s <|
    if argNat s.arg0 = 0 then .ok (.ok, writeBackEnc s)
    else (backendLiterals (argNat s.arg0) s).map endBackend

/-! ## ENC_FINISH (R268) -/

/-- ENC.pending.length ← 0. -/
def dropPending (s : State) : State :=
  { s with enc := { s.enc with pending := { s.enc.pending with length := 0 } } }

/-- BACKEND_MATCH(ENC.pending), then ENC.pending.length ← 0 (R237, R268). -/
def sendPending (s : State) : Except Trap (Bool × State) :=
  match backendMatch s.enc.pending.pos.toInt s.enc.pending.ref.toInt s.enc.pending.length.toNat s with
  | .error t => .error t
  | .ok (true, s') => .ok (true, dropPending s')
  | .ok (false, s') => .ok (false, s')

/-- The pending match of R268, if there is one. -/
def finishPending (s : State) : Except Trap (Bool × State) :=
  if s.enc.pending.length = 0 then .ok (true, s) else sendPending s

/-- The last literals of R268: L = ENC.src_end − ENC.src_literal. -/
def finishLiterals (s : State) : Except Trap (Bool × State) :=
  let l : Int := (s.enc.srcEnd.toNat : Int) - s.enc.srcLiteral.toInt
  if 0 < l then backendLiterals l.toNat s else .ok (true, s)

/-- The end-of-stream block of R268: the encode is over (log entry 16). -/
def putEos (s : State) : State :=
  let p := s.enc.dstPos.toNat + 4
  releaseDst p s.enc.dstEnd.toNat { s with
    dst := memWrite s.dst s.enc.dstPos.toNat 4 magicEos, enc := { s.enc with dstPos := nat64 p, active := false } }

/-- ENC.dst_pos − ENC.dst_begin (R268). -/
def encWritten (s : State) : Int := (s.enc.dstPos.toNat : Int) - s.enc.dstBegin.toNat

/-- The body of ENC_FINISH (R268) on a context that is not poisoned, its results included. -/
def encFinish (s : State) : Except Trap (Status × State) :=
  match finishPending s with
  | .error t => .error t
  | .ok (false, s1) => .ok (.error, writeBackEnc s1)
  | .ok (true, s1) =>
    match finishLiterals s1 with
    | .error t => .error t
    | .ok (false, s2) => .ok (.error, writeBackEnc s2)
    | .ok (true, s2) =>
      match emitBlock s2 with
      | .error t => .error t
      | .ok (false, s3) => .ok (.error, writeBackEnc (poisonEnc s3))
      | .ok (true, s3) =>
        if s3.enc.dstEnd.toNat < s3.enc.dstPos.toNat + 4 then .ok (.dstFull, writeBackEnc s3)
        else
          let s4 := putEos s3
          .ok (.ok, (writeBackEnc s4).withRes0 (word64 (encWritten s4)))

/-- `ENC_FINISH` (R268). -/
def execEncFinish (s : State) : Host.Outcome State Fault Refusal :=
  command s <| raiseEncPoisoned s <| encFinish s

/-! ## STORE_RAW (R270) -/

/-- The bytes of the raw block of n source bytes at SRC_POS, and the end-of-stream block (R270). -/
def rawStream (s : State) (n : Nat) : List U8 :=
  leBytes 4 magicRaw ++ leBytes 4 n ++ readBytes s.src s.cur.srcPos.toNat n ++ leBytes 4 magicEos

/-- The body of STORE_RAW (R270) on checked cursors; false is ERROR. -/
def storeRaw (s : State) : Bool × State :=
  let n := s.cur.srcEnd.toNat - s.cur.srcPos.toNat
  if srcMax < n ∨ s.cur.dstEnd.toNat < s.cur.dstPos.toNat + n + 12 then (false, s.withRes0 0)
  else
    let s' := storeAtDstPos (rawStream s n) s
    (true, { s' with cur := { s'.cur with srcPos := s.cur.srcEnd } }.withRes0 (nat64 (n + 12)))

/-- OK or ERROR. -/
def okOrError (ok : Bool) : Status := if ok then .ok else .error

/-- `STORE_RAW` (R270). -/
def execStoreRaw (s : State) : Host.Outcome State Fault Refusal :=
  command s <| raiseOpt (cursorFault s) <| .ok (okOrError (storeRaw s).1, (storeRaw s).2)

end Sys2Proof.Machine
end

