-- ==== Sys2Proof/Machine/FrontEnd.lean ====
section
/-! DEFINITION. The encoder front end (45_encoder_frontend.md): HASH, ENC_INIT, the match finder ENC_BASE and ENC_TRANSLATE. -/

namespace Sys2Proof.Machine

/-! ## Hash and history (R230, R231, 10_state.md R56) -/

/-- HASH(x) (R230). -/
def hashOf (x : Nat) : Nat := x * hashMultiplier % 2 ^ 32 / 2 ^ (32 - hashBits)

/-- `HASH` (R230). -/
def execHash (s : State) : Host.Outcome State Fault Refusal :=
  command s <|
    raiseArgWidth 0 32 s.arg0 <|
    .ok (.ok, s.withRes0 (nat64 (hashOf (argNat s.arg0))))

/-- The invalid history pair (R56). -/
def invalidEntry : HistEntry := { pos := BitVec.ofInt 32 invalidPos, value := 0 }

/-- A bucket after ENC_INIT and at reset (R56); what an unlisted bucket of ENC.hist is. -/
def emptyBucket : Bucket := { e0 := invalidEntry, e1 := invalidEntry, e2 := invalidEntry, e3 := invalidEntry }

/-- Bucket update (R231): the newest pair first, the oldest lost. -/
def pushBucket (e : HistEntry) (b : Bucket) : Bucket := { e0 := e, e1 := b.e0, e2 := b.e1, e3 := b.e2 }

/-- The pairs of a bucket, the most recent first. -/
def bucketList (b : Bucket) : List HistEntry := [b.e0, b.e1, b.e2, b.e3]

/-! ## Context (R232) -/

/-- ENC_INIT on checked cursors (R232). -/
def encInit (s : State) : State :=
  let c := s.cur
  let limit := nat64 (c.srcEnd.toNat - c.srcPos.toNat)
  writeBackEnc { s with enc := { s.enc with
    srcLo := c.srcBegin, srcBegin := c.srcPos, srcLimit := limit, srcEnd := limit,
    dstBegin := c.dstPos, dstPos := c.dstPos, dstEnd := c.dstEnd,
    srcEncodeI := 0, srcLiteral := 0, pending := { pos := 0, ref := 0, length := 0 }, hist := [],
    nMatches := 0, nLits := 0, poisoned := false, active := true } }

/-- `ENC_INIT` (R232). -/
def execEncInit (s : State) : Host.Outcome State Fault Refusal :=
  command s <|
    raiseOpt (cursorFault s) <|
    .ok (.ok, (encInit s).withRes 0 0)

/-! ## The search (R236, R238) -/

/-- A match (pos, ref, length) being looked for. -/
structure Match where
  pos : Int
  ref : Int
  length : Nat
  deriving DecidableEq, Repr, Inhabited

/-- The n source bytes at offset i as a little-endian number: src4 and src8. -/
def encSrcValue (s : State) (i : Int) (n : Nat) : Except Trap Nat :=
  match encSrcBytes s i n with
  | .error t => .error t
  | .ok b => .ok (leValue b)

/-- The comparison of R236 by 8-byte windows, from `len` equal bytes on. -/
def extendMatch (s : State) (ref pos : Int) (maxlen : Nat) : Nat → Nat → Except Trap Nat
  | 0, len => .ok len
  | fuel + 1, len =>
    if maxlen ≤ len then .ok len
    else
      match encSrcValue s (ref + len) 8 with
      | .error t => .error t
      | .ok a =>
        match encSrcValue s (pos + len) 8 with
        | .error t => .error t
        | .ok b =>
          if a = b then extendMatch s ref pos maxlen fuel (len + 8) else .ok (len + ctz64 (a ^^^ b) / 8)

/-- maxlen of R236; a negative one stops the comparison at 4 bytes, as 0 does. -/
def maxMatch (s : State) (pos : Int) : Nat := ((s.enc.srcEnd.toNat : Int) - pos - 8).toNat

/-- One candidate of R236: a strictly longer match replaces the best. -/
def tryCandidate (s : State) (pos : Int) (x : Nat) (best : Match) (e : HistEntry) : Except Trap Match :=
  let ref := e.pos.toInt
  if e.value.toNat ≠ x ∨ ref + maxDValue < pos then .ok best
  else
    match extendMatch s ref pos (maxMatch s pos) (maxMatch s pos / 8 + 1) 4 with
    | .error t => .error t
    | .ok len => .ok (if best.length < len then { best with ref := ref, length := len } else best)

/-- The candidates of a bucket in order (R236). -/
def tryCandidates (s : State) (pos : Int) (x : Nat) : List HistEntry → Match → Except Trap Match
  | [], best => .ok best
  | e :: r, best =>
    match tryCandidate s pos x best e with
    | .error t => .error t
    | .ok best' => tryCandidates s pos x r best'

/-- The backward expansion of R238, at most `fuel` bytes. -/
def expandBack (s : State) : Nat → Int → Int → Except Trap (Int × Int)
  | 0, pos, ref => .ok (pos, ref)
  | fuel + 1, pos, ref =>
    if pos ≤ s.enc.srcLiteral.toInt ∨ ref ≤ 0 then .ok (pos, ref)
    else
      match encSrcByte s (ref - 1) with
      | .error t => .error t
      | .ok a =>
        match encSrcByte s (pos - 1) with
        | .error t => .error t
        | .ok b => if a = b then expandBack s fuel (pos - 1) (ref - 1) else .ok (pos, ref)

/-- R238: cap and backward expansion of the best candidate. -/
def expandMatch (s : State) (best : Match) : Except Trap Match :=
  match expandBack s (best.pos - s.enc.srcLiteral.toInt).toNat best.pos best.ref with
  | .error t => .error t
  | .ok (p, r) => .ok { pos := p, ref := r, length := min best.length maxMatchLength + (best.pos - p).toNat }

/-! ## The pending match (R237, R239) -/

/-- R237: no candidate was found. -/
def noCandidate (pos : Int) (s : State) : Except Trap (Bool × State) :=
  if pos - s.enc.srcLiteral.toInt ≤ literalFlushLimit then .ok (true, s)
  else if s.enc.pending.length = 0 then backendLiterals maxLValue s
  else sendPending s

/-- ENC.pending ← inc. -/
def setPending (inc : Match) (s : State) : State :=
  { s with enc := { s.enc with
      pending := { pos := word64 inc.pos, ref := word64 inc.ref, length := BitVec.ofNat 32 inc.length } } }

/-- BACKEND_MATCH(m), then `after` where it ends OK (R239). -/
def sendMatch (m : Match) (after : State → State) (s : State) : Except Trap (Bool × State) :=
  match backendMatch m.pos m.ref m.length s with
  | .error t => .error t
  | .ok (true, s') => .ok (true, after s')
  | .ok (false, s') => .ok (false, s')

/-- ENC.pending as a match. -/
def pendingMatch (s : State) : Match :=
  { pos := s.enc.pending.pos.toInt, ref := s.enc.pending.ref.toInt, length := s.enc.pending.length.toNat }

/-- R239: the pending-match heuristic. -/
def chooseMatch (inc : Match) (s : State) : Except Trap (Bool × State) :=
  let p := pendingMatch s
  if goodMatch ≤ inc.length then sendMatch inc dropPending s
  else if p.length = 0 then .ok (true, setPending inc s)
  else if p.pos + p.length ≤ inc.pos then sendMatch p (setPending inc) s
  else sendMatch (if p.length < inc.length then inc else p) dropPending s

/-- POSITION_STEP(pos, x, old) (R235 to R239); false is ERROR. -/
def positionStep (pos : Int) (x : Nat) (old : Bucket) (s : State) : Except Trap (Bool × State) :=
  if pos < s.enc.srcLiteral.toInt then .ok (true, s)
  else
    match tryCandidates s pos x (bucketList old) { pos := pos, ref := 0, length := 0 } with
    | .error t => .error t
    | .ok best =>
      if best.length = 0 then noCandidate pos s
      else
        match expandMatch s best with
        | .error t => .error t
        | .ok inc => chooseMatch inc s

/-! ## The loop (R234) -/

/-- Insert (pos, x) in its bucket and pass to the next position (R231, R234). -/
def recordPosition (pos : Int) (x h : Nat) (old : Bucket) (s : State) : State :=
  { s with enc := { s.enc with
      hist := sparseSet emptyBucket s.enc.hist h
        (pushBucket { pos := BitVec.ofInt 32 pos, value := BitVec.ofNat 32 x } old),
      srcEncodeI := word64 (pos + 1) } }

/-- An ERROR of ENC_BASE leaves the state `s` as it was before the failing position's step, POISONED set (R234, log entry 13);
what that step wrote beyond ENC.dst_pos and the arrays' lengths is unspecified (U2, U3). -/
def failPosition (s : State) : State :=
  poisonEnc (releaseDst s.enc.dstPos.toNat s.enc.dstEnd.toNat
    (releaseEncArrays s.enc.nMatches.toNat s.enc.nLits.toNat s))

/-- One position of ENC_BASE (R234); false is ERROR. -/
def basePosition (s : State) : Except Trap (Bool × State) :=
  let pos := s.enc.srcEncodeI.toInt
  match encSrcValue s pos 4 with
  | .error t => .error t
  | .ok x =>
    let h := hashOf x
    let old := sparseGet emptyBucket s.enc.hist h
    match positionStep pos x old s with
    | .error t => .error t
    | .ok (false, _) => .ok (false, failPosition s)
    | .ok (true, s') => .ok (true, recordPosition pos x h old s')

/-- The loop of R234 over `count` positions; false is ERROR. -/
def baseLoop : Nat → State → Except Trap (Bool × State)
  | 0, s => .ok (true, s)
  | count + 1, s =>
    match basePosition s with
    | .error t => .error t
    | .ok (false, s') => .ok (false, s')
    | .ok (true, s') => baseLoop count s'

/-- ENC.src_end ← e. -/
def setEncSrcEnd (e : Nat) (s : State) : State := { s with enc := { s.enc with srcEnd := nat64 e } }

/-- The body of ENC_BASE (R234) on a context that is not poisoned, its results left out; false is ERROR. -/
def encBase (e : Nat) (s : State) : Except Trap (Bool × State) :=
  raiseIf (decide (s.enc.srcLimit.toNat < e ∨ 2 ^ 31 - 2 < e)) .badOperand 0 <|
  baseLoop ((e : Int) - 8 - s.enc.srcEncodeI.toInt).toNat (setEncSrcEnd e s)

/-- The end of ENC_BASE (R234). -/
def endBase : Bool × State → Status × State
  | (true, s) => (.ok, (writeBackEnc s).withRes s.enc.srcEncodeI s.enc.srcLiteral)
  | (false, s) => (.error, writeBackEnc s)

/-- `ENC_BASE` (R234). -/
def execEncBase (s : State) : Host.Outcome State Fault Refusal :=
  command s <| raiseEncPoisoned s <| (encBase (argNat s.arg0) s).map endBase

/-! ## Translation (R242) -/

/-- A history position moved back by delta and clamped (R242). -/
def shiftEntry (delta : Nat) (e : HistEntry) : HistEntry :=
  { e with pos := BitVec.ofInt 32 (max (e.pos.toInt - delta) invalidPos) }

/-- A bucket moved back by delta (R242). -/
def shiftBucket (delta : Nat) (b : Bucket) : Bucket :=
  { e0 := shiftEntry delta b.e0, e1 := shiftEntry delta b.e1, e2 := shiftEntry delta b.e2, e3 := shiftEntry delta b.e3 }

/-- The history moved back by delta, in canonical form; an unlisted bucket stays as it is (R242). -/
def shiftHistory (delta : Nat) : Sparse Bucket → Sparse Bucket
  | [] => []
  | (h, b) :: r =>
    let b' := shiftBucket delta b
    if b' = emptyBucket then shiftHistory delta r else (h, b') :: shiftHistory delta r

/-- A u64 field less delta; where the difference does not fit, a free value (log entry 15). -/
def lessDelta (v : U64) (delta tag : Nat) : U64 :=
  if delta ≤ v.toNat then nat64 (v.toNat - delta) else Config.freeWord64 tag

/-- The body of ENC_TRANSLATE for delta > 0 (R242). The position or reference of ENC.pending is a free value where the difference does
not fit it (log entry 25). -/
def encTranslate (delta : Nat) (s : State) : State :=
  let c := s.enc
  { s with
    enc := { c with
      srcBegin := nat64 (c.srcBegin.toNat + delta),
      srcLimit := lessDelta c.srcLimit delta s.freeTag,
      srcEnd := lessDelta c.srcEnd delta (s.freeTag + 1),
      srcEncodeI := word64 (c.srcEncodeI.toInt - delta),
      srcLiteral := word64 (c.srcLiteral.toInt - delta),
      pending := { c.pending with
        pos := fitS64 (c.pending.pos.toInt - delta), ref := fitS64 (c.pending.ref.toInt - delta) },
      hist := shiftHistory delta c.hist },
    freeTag := s.freeTag + 2 }

/-- `ENC_TRANSLATE` (R242). -/
def execEncTranslate (s : State) : Host.Outcome State Fault Refusal :=
  command s <|
    raiseEncPoisoned s <|
    let delta := argNat s.arg0
    raiseIf (decide (s.enc.srcLiteral.toInt < delta ∨ s.enc.srcEncodeI.toInt < delta)) .badOperand 0 <|
    if delta = 0 then .ok (.ok, writeBackEnc s) else .ok (.ok, writeBackEnc (encTranslate delta s))

end Sys2Proof.Machine
end

