-- ==== Sys2Proof/Machine/Public.lean ====
section
/-! DEFINITION. The public encode, ENC_BUFFER (46_encoder_backend.md R272, R274). -/

namespace Sys2Proof.Machine

/-- The bytes of the secondary block with payload r, and the end-of-stream block (R274). -/
def secondaryStream (n : Nat) (r : List U8) : List U8 :=
  leBytes 4 magicVn ++ leBytes 4 n ++ leBytes 4 r.length ++ r ++ leBytes 4 magicEos

/-- SECONDARY_PATH for n source bytes at SRC_POS (R274); `none` is FAIL. A payload that does not fit, which the agent's contract
excludes, faults BUFFER_BOUNDS at DST_END (20_memory.md R71, log entry 6). -/
def secondaryPath (n : Nat) (s : State) : Except Trap (Option State) :=
  let c := s.cur.dstEnd.toNat - s.cur.dstPos.toNat
  if c ≤ 16 then .ok none
  else
    match Config.secondaryEncode (readBytes s.src s.cur.srcPos.toNat n) (c - 16) with
    | none => .ok none
    | some r =>
      if r.length = 0 ∨ n ≤ r.length then .ok none
      else
        raiseIf (decide (c < r.length + 16)) .bufferBounds (nat64 s.cur.dstEnd.toNat) <|
        let s' := storeAtDstPos (secondaryStream n r) s
        .ok (some ({ s' with cur := { s'.cur with srcPos := s.cur.srcEnd } }.withRes0 (nat64 (r.length + 16))))

/-- ENC_INIT; ENC_BASE with ARG0 = n; ENC_FINISH (R272), as commands with their results. The Bool says both ended OK. -/
def fsePath (n : Nat) (s : State) : Except Trap (Bool × State) :=
  match encBase n ((encInit s).withRes 0 0) with
  | .error t => .error t
  | .ok (false, s1) => .ok (false, writeBackEnc s1)
  | .ok (true, s1) =>
    match encFinish ((writeBackEnc s1).withRes s1.enc.srcEncodeI s1.enc.srcLiteral) with
    | .error t => .error t
    | .ok (st, s2) => .ok (decide (st = .ok), s2)

/-- ENC.POISONED at the end of ENC_BUFFER says whether it ended with ERROR (R272, 60_exceptions.md R296). The rest of the ENC context
is as the path left it, so that an encode which ENC_BUFFER has not touched goes on (log entry 16). -/
def endEncode (poisoned : Bool) (s : State) : State := { s with enc := { s.enc with poisoned := poisoned } }

/-- The encode that the FSE path started is over (R272, log entry 16). -/
def leaveEncode (s : State) : State := { s with enc := { s.enc with active := false } }

/-- The fallback of R272: DST_POS and SRC_POS as in `s0`, then STORE_RAW. -/
def rawFallback (s0 s : State) : Status × State :=
  match storeRaw { s with cur := { s.cur with dstPos := s0.cur.dstPos, srcPos := s0.cur.srcPos } } with
  | (true, s') => (.ok, endEncode false s')
  | (false, s') => (.error, endEncode true (s'.withRes0 0))

/-- The body of ENC_BUFFER (R272) on checked cursors, the source being n bytes long. What a failed FSE path wrote is
unspecified (20_memory.md R79). -/
def encBuffer (n : Nat) (s : State) : Except Trap (Status × State) :=
  if n < minSrcSize then .ok (rawFallback s s)
  else if n < secondaryThreshold then
    match secondaryPath n s with
    | .error t => .error t
    | .ok (some s') => .ok (.ok, endEncode false s')
    | .ok none => .ok (rawFallback s s)
  else
    match fsePath n s with
    | .error t => .error t
    | .ok (true, s') => .ok (.ok, endEncode false s')
    | .ok (false, s') => .ok (rawFallback s (leaveEncode (releaseDst s.cur.dstPos.toNat s.cur.dstEnd.toNat s')))

/-- `ENC_BUFFER` (R272). -/
def execEncBuffer (s : State) : Host.Outcome State Fault Refusal :=
  command s <|
    raiseOpt (cursorFault s) <|
    let n := s.cur.srcEnd.toNat - s.cur.srcPos.toNat
    raiseIf (decide (srcMax < n)) .badCursor 2 <|
    encBuffer n s

end Sys2Proof.Machine
end

