-- ==== Sys2Proof/Machine/System.lean ====
section
/-! DEFINITION. RESET (70_reset_and_hazards.md R311) and the array commands (60_exceptions.md R298, R299). -/

namespace Sys2Proof.Machine

/-- RESET with ARG0 = 0 (70_reset_and_hazards.md R310): everything at its reset value but the SRC and DST spaces, their sizes,
and the model's own freeTag and script. -/
def fullReset (s : State) : State :=
  { State.reset with
    src := s.src, dst := s.dst, srcSize := s.srcSize, dstSize := s.dstSize, freeTag := s.freeTag, script := s.script }

/-- `RESET` (R311), the one command that runs while a fault is held (60_exceptions.md R291, R292). -/
def execReset (s : State) : Host.Outcome State Fault Refusal :=
  if argNat s.arg0 = 0 then .next (fullReset s)
  else if argNat s.arg0 = 1 then .next (clearFault s)
  else .next (takeFault { cause := .badOperand, info := 0 } s)

/-- DEC.lits and DEC.n_lits belong to an open compressed block (60_exceptions.md R298). -/
def blockArray : ArrayId → Bool
  | .decLits => true
  | .decNLits => true
  | .occ _ => false
  | .freq _ => false
  | .encLits => false
  | .lValues => false
  | .mValues => false
  | .dValues => false
  | .nMatches => false
  | .nLits => false

/-- `STORE_ARRAY` (R298). -/
def execStoreArray (s : State) : Host.Outcome State Fault Refusal :=
  command s <|
    match arrayOfId (argNat s.arg0) with
    | none => .error { cause := .badOperand, info := 0 }
    | some id =>
      raiseIf (blockArray id && compressedOpen s) .resourceBusy 0x02 <|
      raiseIf (decide (arrayLength id ≤ argNat s.arg1)) .badOperand 1 <|
      raiseIf (!arrayLegal id (argNat s.arg2)) .badOperand 2 <|
      .ok (.ok, storeElement s id (argNat s.arg1) (argNat s.arg2))

/-- `LOAD_ARRAY` (R299). -/
def execLoadArray (s : State) : Host.Outcome State Fault Refusal :=
  command s <|
    match arrayOfId (argNat s.arg0) with
    | none => .error { cause := .badOperand, info := 0 }
    | some id =>
      raiseIf (decide (arrayLength id ≤ argNat s.arg1)) .badOperand 1 <|
      .ok (.ok, s.withRes0 (nat64 (loadElement s id (argNat s.arg1))))

end Sys2Proof.Machine
end

