-- ==== Sys2Proof/Machine/Dispatch.lean ====
section
/-! DEFINITION. Which meaning each command has: one arm per constructor of Instr. -/

namespace Sys2Proof.Machine

/-- The meaning of a command (30_encoding.md R93). -/
def exec (i : Instr) (s : State) : Host.Outcome State Fault Refusal :=
  match i with
  | .reset => Sys2Proof.Machine.execReset s
  | .storeArray => Sys2Proof.Machine.execStoreArray s
  | .loadArray => Sys2Proof.Machine.execLoadArray s
  | .outInit => Sys2Proof.Machine.execOutInit s
  | .outPush n => Sys2Proof.Machine.execOutPush n s
  | .outFlush => Sys2Proof.Machine.execOutFlush s
  | .outFinish => Sys2Proof.Machine.execOutFinish s
  | .inInit sel => Sys2Proof.Machine.execInInit sel s
  | .inFlush sel => Sys2Proof.Machine.execInFlush sel s
  | .inPull sel n => Sys2Proof.Machine.execInPull sel n s
  | .normalize sel => Sys2Proof.Machine.execNormalize sel s
  | .checkFreq sel => Sys2Proof.Machine.execCheckFreq sel s
  | .buildEnc sel => Sys2Proof.Machine.execBuildEnc sel s
  | .buildDec => Sys2Proof.Machine.execBuildDec s
  | .buildVdec sel => Sys2Proof.Machine.execBuildVdec sel s
  | .symbolOfValue sel => Sys2Proof.Machine.execSymbolOfValue sel s
  | .fseEncode sel => Sys2Proof.Machine.execFseEncode sel s
  | .fseDecode => Sys2Proof.Machine.execFseDecode s
  | .fseVdecode sel => Sys2Proof.Machine.execFseVdecode sel s
  | .freqEnc => Sys2Proof.Machine.execFreqEnc s
  | .freqDec => Sys2Proof.Machine.execFreqDec s
  | .hdrPack => Sys2Proof.Machine.execHdrPack s
  | .hdrUnpack => Sys2Proof.Machine.execHdrUnpack s
  | .hdrCheck => Sys2Proof.Machine.execHdrCheck s
  | .v1Load => Sys2Proof.Machine.execV1Load s
  | .v1Store => Sys2Proof.Machine.execV1Store s
  | .decInit => Sys2Proof.Machine.execDecInit s
  | .decStep => Sys2Proof.Machine.execDecStep s
  | .decFeed => Sys2Proof.Machine.execDecFeed s
  | .decGrow => Sys2Proof.Machine.execDecGrow s
  | .decBuffer => Sys2Proof.Machine.execDecBuffer s
  | .encInit => Sys2Proof.Machine.execEncInit s
  | .hash => Sys2Proof.Machine.execHash s
  | .encBase => Sys2Proof.Machine.execEncBase s
  | .encTranslate => Sys2Proof.Machine.execEncTranslate s
  | .pushLmd => Sys2Proof.Machine.execPushLmd s
  | .pushMatch => Sys2Proof.Machine.execPushMatch s
  | .backendMatch => Sys2Proof.Machine.execBackendMatch s
  | .backendLiterals => Sys2Proof.Machine.execBackendLiterals s
  | .emitBlock => Sys2Proof.Machine.execEmitBlock s
  | .encFinish => Sys2Proof.Machine.execEncFinish s
  | .storeRaw => Sys2Proof.Machine.execStoreRaw s
  | .encBuffer => Sys2Proof.Machine.execEncBuffer s

end Sys2Proof.Machine
end

