-- ==== Sys2Proof/Machine/Port.lean ====
section
/-! DEFINITION. The command port as the host sees it (10_state.md R31, R32, R36): a command word, a register write, a register
read, a byte placed in SRC or DST between commands (20_memory.md R83), and the host duties of 70_reset_and_hazards.md R317. -/

namespace Sys2Proof.Machine

/-! ## A command word (30_encoding.md R95, 60_exceptions.md R291, R293) -/

/-- The fault of a word that is no command (R95): FAULT_INFO is the word. -/
def rejectTrap (e : Reject) (w : U32) : Trap :=
  match e with
  | .illegalCommand => { cause := .illegalCommand, info := nat64 w.toNat }
  | .badOperand => { cause := .badOperand, info := nat64 w.toNat }

/-- A word is ignored while a fault is held, unless its OPC is RESET's (R291; log entry 9). -/
def ignored (w : U32) (s : State) : Bool := s.fault.isSome && decide (opcOf w ≠ 0x01)

/-- What the core does with the word the host wrote to CMD. -/
def runWord (w : U32) (s : State) : Host.Outcome State Fault Refusal :=
  if ignored w s then .next s
  else
    match decode w with
    | .error e => .next (takeFault (rejectTrap e w) s)
    | .ok i => exec i s

/-! ## The registers (R31, R32) -/

/-- The host reads a register: what was last written or produced (R31). -/
def readReg (r : PortReg) (s : State) : U64 :=
  match r with
  | .arg0 => s.arg0
  | .arg1 => s.arg1
  | .arg2 => s.arg2
  | .arg3 => s.arg3
  | .res0 => s.res0
  | .res1 => s.res1
  | .status => nat64 s.status.code.toNat
  | .fault => (s.fault.map fun c => nat64 c.code.toNat).getD 0
  | .faultInfo => s.faultInfo
  | .srcBegin => s.cur.srcBegin
  | .srcPos => s.cur.srcPos
  | .srcEnd => s.cur.srcEnd
  | .dstBegin => s.cur.dstBegin
  | .dstPos => s.cur.dstPos
  | .dstEnd => s.cur.dstEnd

/-- The host writes a register; a write of a read-only register is ignored (R31). -/
def writeReg (r : PortReg) (v : U64) (s : State) : State :=
  match r with
  | .arg0 => { s with arg0 := v }
  | .arg1 => { s with arg1 := v }
  | .arg2 => { s with arg2 := v }
  | .arg3 => { s with arg3 := v }
  | .res0 => s
  | .res1 => s
  | .status => s
  | .fault => s
  | .faultInfo => s
  | .srcBegin => { s with cur := { s.cur with srcBegin := v } }
  | .srcPos => { s with cur := { s.cur with srcPos := v } }
  | .srcEnd => { s with cur := { s.cur with srcEnd := v } }
  | .dstBegin => { s with cur := { s.cur with dstBegin := v } }
  | .dstPos => { s with cur := { s.cur with dstPos := v } }
  | .dstEnd => { s with cur := { s.cur with dstEnd := v } }

/-! ## The byte spaces between commands (20_memory.md R83, 70_reset_and_hazards.md R317, log entry 16) -/

/-- A decode is in progress: neither ended nor failed. -/
def decoding (s : State) : Bool := !s.dec.endOfStream && !s.dec.poisoned

/-- An encode is in progress: begun, neither finished nor failed. -/
def encoding (s : State) : Bool := s.enc.active && !s.enc.poisoned

/-- The duty that a change of SRC byte `a` would break (R317, duties 1, 3, 4 and 5). A byte that DEC_FEED raised the end over and
that changes afterwards was not in place before (duty 3). DESIGN CHOICE (log entry 16): duty 4 speaks of bytes below DEC.src_pos and
names no lower bound for them; here they start at DEC.src_begin, below which the decoder reads nothing. -/
def srcDuty (a : Nat) (s : State) : Option Duty :=
  let p := s.dec.cur.srcPos.toNat
  if compressedOpen s && decide (p ≤ a ∧ a < p + s.dec.nLmdPayloadBytes.toNat) then some .openPayload
  else if decoding s && decide (s.dec.cur.srcBegin.toNat ≤ a ∧ a < p) then some .consumedBytes
  else if decoding s && decide (max p s.dec.feedLo.toNat ≤ a ∧ a < s.dec.cur.srcEnd.toNat) then some .fedBytes
  else if encoding s && decide (s.enc.srcLo.toNat ≤ a ∧ a < s.enc.srcBegin.toNat + s.enc.srcLimit.toNat) then
    some .encodedSource
  else none

/-- The duty that a change of DST byte `a` would break (R317, duty 2). -/
def dstDuty (a : Nat) (s : State) : Option Duty :=
  if decoding s && decide (s.dec.cur.dstBegin.toNat ≤ a ∧ a < s.dec.cur.dstPos.toNat) then some .producedBytes else none

/-- The host places a byte in SRC. A byte that is there already changes nothing. -/
def placeSrc (a : Nat) (b : U8) (s : State) : Host.Outcome State Fault Refusal :=
  if s.srcSize.toNat ≤ a then .fault .noSuchSrcByte
  else if readByte s.src a = b then .next s
  else
    match srcDuty a s with
    | some d => .refused (.hostDuty d)
    | none => .next { s with src := writeByte s.src a b }

/-- The host places a byte in DST. -/
def placeDst (a : Nat) (b : U8) (s : State) : Host.Outcome State Fault Refusal :=
  if s.dstSize.toNat ≤ a then .fault .noSuchDstByte
  else if readByte s.dst a = b then .next s
  else
    match dstDuty a s with
    | some d => .refused (.hostDuty d)
    | none => .next { s with dst := writeByte s.dst a b }

/-- The DST indices a command may write: from its position to its end, of the cursor registers or of the context it uses
(20_memory.md R71). A command that writes no DST byte has an empty region. -/
def dstRegion (i : Instr) (s : State) : Nat × Nat :=
  match i with
  | .outFlush | .outFinish | .hdrPack | .v1Store | .storeRaw | .encBuffer | .decBuffer =>
    (s.cur.dstPos.toNat, s.cur.dstEnd.toNat)
  | .decStep => (s.dec.cur.dstPos.toNat, s.dec.cur.dstEnd.toNat)
  | .encBase | .backendMatch | .backendLiterals | .emitBlock | .encFinish => (s.enc.dstPos.toNat, s.enc.dstEnd.toNat)
  | .reset | .storeArray | .loadArray | .outInit | .outPush _ | .inInit _ | .inFlush _ | .inPull _ _ | .normalize _
  | .checkFreq _ | .buildEnc _ | .buildDec | .buildVdec _ | .symbolOfValue _ | .fseEncode _ | .fseDecode | .fseVdecode _
  | .freqEnc | .freqDec | .hdrUnpack | .hdrCheck | .v1Load | .decInit | .decFeed | .decGrow | .encInit | .hash
  | .encTranslate | .pushLmd | .pushMatch => (0, 0)

/-- Command `i`, which takes `s` to `t`, has overwritten DST bytes that a decode in progress has produced (R317, duty 2): its region
meets [DEC.dst_begin, DEC.dst_pos), and DST has changed (from the first byte stored on, the region is unspecified: 20_memory.md
R79). DEC_BUFFER starts a new stream. -/
def overwritesProduced (i : Instr) (s t : State) : Bool :=
  decoding s && decide (i ≠ .decBuffer) &&
    decide (max (dstRegion i s).1 s.dec.cur.dstBegin.toNat < min (dstRegion i s).2 s.dec.cur.dstPos.toNat) &&
    decide (t.dst ≠ s.dst)

/-- The outcome `t` of a command word in `s`, unless the host breaks duty 2 by giving it. -/
def keepDuty (w : U32) (s t : State) : Host.Outcome State Fault Refusal :=
  match decode w with
  | .error _ => .next t
  | .ok i => if overwritesProduced i s t then .refused (.hostDuty .producedBytes) else .next t

/-- The host writes CMD (R31): the register holds the word, and the command runs to completion (R36). -/
def issue (w : U32) (s : State) : Host.Outcome State Fault Refusal :=
  let s' := { s with cmd := w }
  match runWord w s' with
  | .next t => keepDuty w s' t
  | .fault f => .fault f
  | .refused r => .refused r

/-- One move of the host. -/
def hostMove (m : HostMove) (s : State) : Host.Outcome State Fault Refusal :=
  match m with
  | .cmd w => issue w s
  | .reg r v => .next (writeReg r v s)
  | .srcByte a b => placeSrc a.toNat b s
  | .dstByte a b => placeDst a.toNat b s

end Sys2Proof.Machine
end

