-- ==== Sys2Proof/Machine/Step.lean ====
section
/-! DEFINITION. One step of the machine, and how the host lays a command before it. -/

namespace Sys2Proof.Machine

/-- One step: the next move of the host, a command running to completion (10_state.md R35, R36). With no move waiting nothing
happens: nothing in the core advances on its own (log entry 1). -/
def step (s : State) : Host.Outcome State Fault Refusal :=
  match s.script with
  | [] => .next s
  | m :: r => hostMove m { s with script := r }

/-- `s` with a command word of `nbits` bits as the host's next move. -/
def State.withFetchWord (s : State) (nbits w : Nat) : State :=
  { s with script := .cmd (BitVec.ofNat 32 (w % 2 ^ nbits)) :: s.script }

end Sys2Proof.Machine
end

