-- ==== Sys2Proof/Safety.lean ====
section
/-! DEFINITION. The terms the statements use: what a sound state is, which bytes a command may write, and the spec's own
tables and loops written a second time, apart from the machine's. -/

namespace Sys2Proof.Machine

/-! ## Commands -/

/-- No fault is held, so that a command runs (60_exceptions.md R291). -/
abbrev ready (s : State) : Prop := s.fault = none

/-- The state after a command that faults with this cause and FAULT_INFO (60_exceptions.md R290). -/
def faulted (c : Cause) (info : Nat) (s : State) : State :=
  { s with fault := some c, faultInfo := BitVec.ofNat 64 info, status := .faulted }

/-- The opcodes that 30_encoding.md R93 assigns. -/
def assignedOpcodes : List Nat :=
  [0x01, 0x02, 0x03, 0x10, 0x11, 0x12, 0x13, 0x18, 0x19, 0x1A, 0x20, 0x21, 0x22, 0x23, 0x24, 0x25, 0x28, 0x29, 0x2A]
    ++ [0x30, 0x31, 0x32, 0x33, 0x34, 0x35, 0x36, 0x40, 0x41, 0x42, 0x43, 0x44]
    ++ [0x50, 0x51, 0x52, 0x53, 0x58, 0x59, 0x5A, 0x5B, 0x5C, 0x5D, 0x5E, 0x5F]

/-- The SEL column of R93. -/
def selLegal (opc sel : Nat) : Prop :=
  if opc ∈ [0x18, 0x19, 0x1A] then sel ≤ 1
  else if opc ∈ [0x20, 0x21, 0x22, 0x28] then sel ≤ 3
  else if opc ∈ [0x24, 0x25, 0x2A] then sel ≤ 2
  else if opc ∈ [0x23, 0x29] then sel = 3
  else sel = 0

/-- The N column of R93. -/
def nLegal (opc n : Nat) : Prop := if opc = 0x11 then n ≤ 64 else if opc = 0x1A then n ≤ 63 else n = 0

/-- HASH, STORE_RAW, the primitive commands and the array commands, which ignore the POISONED bits (60_exceptions.md R296). -/
def ignoresPoison : Instr → Bool
  | .storeArray | .loadArray | .outInit | .outPush _ | .outFlush | .outFinish | .inInit _ | .inFlush _ | .inPull _ _
  | .normalize _ | .checkFreq _ | .buildEnc _ | .buildDec | .buildVdec _ | .symbolOfValue _ | .fseEncode _ | .fseDecode
  | .fseVdecode _ | .freqEnc | .freqDec | .hdrPack | .hdrUnpack | .hdrCheck | .v1Load | .v1Store | .hash | .storeRaw => true
  | .reset | .decInit | .decStep | .decFeed | .decGrow | .decBuffer | .encInit | .encBase | .encTranslate | .pushLmd
  | .pushMatch | .backendMatch | .backendLiterals | .emitBlock | .encFinish | .encBuffer => false

/-- The state with the two POISONED bits as given. -/
def withPoison (p q : Bool) (s : State) : State :=
  { s with dec := { s.dec with poisoned := p }, enc := { s.enc with poisoned := q } }

/-! ## Cursors and bytes -/

/-- begin ≤ pos ≤ end ≤ size (10_state.md R32). -/
abbrev trioOk (b p e size : U64) : Prop := b.toNat ≤ p.toNat ∧ p.toNat ≤ e.toNat ∧ e.toNat ≤ size.toNat

/-- The SRC cursor registers are legal (R32). -/
abbrev srcOk (s : State) : Prop := trioOk s.cur.srcBegin s.cur.srcPos s.cur.srcEnd s.srcSize

/-- The DST cursor registers are legal (R32). -/
abbrev dstOk (s : State) : Prop := trioOk s.cur.dstBegin s.cur.dstPos s.cur.dstEnd s.dstSize

/-- The bytes of a list stand at index `a` and on. -/
def bytesAt (m : Memory) (a : Nat) (l : List U8) : Prop := ∀ i (h : i < l.length), readByte m (a + i) = l[i]

/-- Outside [lo, hi) every byte reads as before. -/
def sameOutside (lo hi : Nat) (m m' : Memory) : Prop := ∀ a, ¬(lo ≤ a ∧ a < hi) → readByte m' a = readByte m a

/-! ## Invariants -/

/-- STATUS is FAULTED exactly while a fault is held, and FAULT_INFO is 0 otherwise (60_exceptions.md R290, R292). -/
abbrev faultCoherent (s : State) : Prop := (s.fault ≠ none ↔ s.status = .faulted) ∧ (s.fault = none → s.faultInfo = 0)

/-- OUT as 10_state.md R38 bounds it. -/
abbrev outSound (o : OutAcc) : Prop :=
  (0 ≤ o.nbits ∧ o.nbits ≤ 64 ∧ o.accum.toNat < 2 ^ o.nbits.toNat) ∨ (-7 ≤ o.nbits ∧ o.nbits ≤ 0 ∧ o.accum = 0)

/-- An input accumulator as 40_bitstream.md R138 bounds it. -/
abbrev inSound (x : InAcc) : Prop := x.nbits ≤ 63 ∧ (x.valid = true → x.accum.toNat < 2 ^ x.nbits)

/-- The three accumulators (R38, R39, R138). -/
abbrev accumulatorsSound (s : State) : Prop := outSound s.out ∧ inSound s.in0 ∧ inSound s.in1

/-- The decoder context's SRC and DST cursors and the encoder context's DST cursors lie in their spaces, in order (R32, R33). The
encoder's source side is no trio of this kind: 46_encoder_backend.md R250 may carry ENC.src_literal past ENC.src_limit. -/
abbrev contextsOrdered (s : State) : Prop :=
  trioOk s.dec.cur.srcBegin s.dec.cur.srcPos s.dec.cur.srcEnd s.srcSize ∧
  trioOk s.dec.cur.dstBegin s.dec.cur.dstPos s.dec.cur.dstEnd s.dstSize ∧
  trioOk s.enc.dstBegin s.enc.dstPos s.enc.dstEnd s.dstSize

/-- SRC byte `a` is one that the host must leave as it is (70_reset_and_hazards.md R317, duties 1, 3, 4 and 5, as log entry 16 reads
them). -/
def srcGuarded (s : State) (a : Nat) : Prop :=
  (compressedOpen s = true ∧ s.dec.cur.srcPos.toNat ≤ a ∧ a < s.dec.cur.srcPos.toNat + s.dec.nLmdPayloadBytes.toNat) ∨
  (decoding s = true ∧ s.dec.cur.srcBegin.toNat ≤ a ∧ a < s.dec.cur.srcPos.toNat) ∨
  (decoding s = true ∧ s.dec.feedLo.toNat ≤ a ∧ a < s.dec.cur.srcEnd.toNat ∧ s.dec.cur.srcPos.toNat ≤ a) ∨
  (encoding s = true ∧ s.enc.srcLo.toNat ≤ a ∧ a < s.enc.srcBegin.toNat + s.enc.srcLimit.toNat)

/-- DST byte `a` is one that the host must leave as it is (R317, duty 2, as log entry 16 reads it). -/
def dstGuarded (s : State) (a : Nat) : Prop :=
  decoding s = true ∧ s.dec.cur.dstBegin.toNat ≤ a ∧ a < s.dec.cur.dstPos.toNat

/-- The lengths of the per-block arrays and the values of the triplet arrays (R51, R57, 30_encoding.md R105), at every index: for an
entry at or beyond the length, which may be a free value, the bound is that of log entry 5. -/
def arraysLegal (s : State) : Prop :=
  s.enc.nMatches.toNat ≤ 10000 ∧ s.enc.nLits.toNat ≤ 40000 ∧ s.dec.nLits.toNat ≤ 40000 ∧
  ∀ i, valueAt .l s i ≤ 315 ∧ valueAt .m s i ≤ 2359 ∧ valueAt .d s i ≤ 262139

/-- Indices strictly rising: the canonical form of a table whose unlisted entries are EMPTY (10_state.md R43 to R45). -/
def rising {α : Type} (m : Sparse α) : Prop := (m.map Prod.fst).Pairwise (· < ·)

/-- Equal contents are equal data: SRC, DST and every array of the core are in canonical form. -/
def canonical (s : State) : Prop :=
  s.src.wf = true ∧ s.dst.wf = true ∧ arrWf 0 s.dec.lits = true ∧ arrWf 0 s.enc.lits = true ∧
  (∀ sel, arrWf 0 (s.values sel) = true) ∧ sparseWf emptyBucket s.enc.hist = true ∧
  (∀ sel, sparseWf 0 (s.occ.get sel) = true ∧ sparseWf 0 (s.freq.get sel) = true ∧ rising (s.encTab.get sel)) ∧
  rising s.decTab ∧ ∀ sel, rising (s.vdecTab.get sel)

/-- A history pair the match finder may use: the invalid position, or a position already passed, in the source (10_state.md R56). -/
def historyPairSound (s : State) (e : HistEntry) : Prop :=
  e.pos.toInt = -1048556 ∨
    ((s.enc.srcLo.toNat : Int) ≤ s.enc.srcBegin.toNat + e.pos.toInt ∧ e.pos.toInt < s.enc.srcEncodeI.toInt)

/-- The source side of the encoder context, as ENC_INIT makes it and the encoder commands keep it (R53, R54). -/
abbrev encSourceSound (s : State) : Prop :=
  s.enc.srcLo.toNat ≤ s.enc.srcBegin.toNat ∧ s.enc.srcBegin.toNat + s.enc.srcLimit.toNat ≤ s.srcSize.toNat ∧
  s.enc.srcLimit.toNat ≤ 2 ^ 31 - 2 ∧ s.enc.srcEnd.toNat ≤ s.enc.srcLimit.toNat ∧ 0 ≤ s.enc.srcEncodeI.toInt ∧
  0 ≤ s.enc.srcLiteral.toInt ∧ s.enc.srcLiteral.toInt ≤ s.enc.srcLimit.toNat

/-- What the pushes need of the source side (46_encoder_backend.md R250, R252): the region lies in SRC, ENC.src_literal is no negative
offset, and offsets fit an s64. -/
abbrev encSourceOpen (s : State) : Prop :=
  s.enc.srcLo.toNat ≤ s.enc.srcBegin.toNat ∧ s.enc.srcBegin.toNat + s.enc.srcLimit.toNat ≤ s.srcSize.toNat ∧
  s.enc.srcLimit.toNat < 2 ^ 63 ∧ 0 ≤ s.enc.srcLiteral.toInt

/-- The pending match can be sent as it stands (45_encoder_frontend.md R240). -/
abbrev pendingSound (s : State) : Prop :=
  s.enc.pending.length = 0 ∨
    (s.enc.srcLiteral.toInt ≤ s.enc.pending.pos.toInt ∧ s.enc.pending.ref.toInt < s.enc.pending.pos.toInt ∧
      s.enc.pending.pos.toInt - s.enc.pending.ref.toInt ≤ 262139 ∧
      s.enc.pending.pos.toInt + s.enc.pending.length.toNat ≤ s.enc.srcLimit.toNat)

/-- The encoder context as ENC_INIT makes it and the encoder commands keep it. -/
def encSound (s : State) : Prop :=
  s.enc.poisoned = false ∧ encSourceSound s ∧ pendingSound s ∧ arraysLegal s ∧
  ∀ h, ∀ e ∈ bucketList (sparseGet emptyBucket s.enc.hist h), historyPairSound s e

/-! ## What the encoder holds stands in the source (45_encoder_frontend.md R240) -/

/-- src(i): the SRC byte at offset i of the encoder (45_encoder_frontend.md). -/
def srcByteAt (s : State) (i : Int) : U8 := readByte s.src (s.enc.srcBegin.toNat + i).toNat

/-- A match of R240: the distance is legal, and the `len` bytes at ref equal those at pos. -/
def matchReal (s : State) (pos ref : Int) (len : Nat) : Prop :=
  ref < pos ∧ pos - ref ≤ 262139 ∧ (s.enc.srcLo.toNat : Int) ≤ s.enc.srcBegin.toNat + ref ∧
  ∀ i : Nat, i < len → srcByteAt s (ref + i) = srcByteAt s (pos + i)

/-- Every history pair but the invalid ones holds the 4 source bytes at its position (10_state.md R56). -/
def historyReal (s : State) : Prop :=
  ∀ h, ∀ e ∈ bucketList (sparseGet emptyBucket s.enc.hist h), e.pos.toInt ≠ -1048556 →
    e.value.toNat = memRead s.src (s.enc.srcBegin.toNat + e.pos.toInt).toNat 4

/-- The pending match, if any, is a match. -/
def pendingReal (s : State) : Prop :=
  s.enc.pending.length = 0 ∨ matchReal s s.enc.pending.pos.toInt s.enc.pending.ref.toInt s.enc.pending.length.toNat

/-- The triplets of the block being filled. -/
def blockTriplets (s : State) : List (Nat × Nat × Nat) :=
  (List.range s.enc.nMatches.toNat).map fun i => (valueAt .l s i, valueAt .m s i, valueAt .d s i)

/-- Triplets, whose literals stand from entry q of ENC.lits on, replay the source from offset o up to ENC.src_literal: each copies
L literals, then M bytes from distance D back (44_decoder_engine.md R211). -/
def replays (s : State) : Int → Nat → List (Nat × Nat × Nat) → Prop
  | o, q, [] => o = s.enc.srcLiteral.toInt ∧ q = s.enc.nLits.toNat
  | o, q, (l, m, d) :: r =>
    (∀ i : Nat, i < l → litAt s.enc.lits (q + i) = srcByteAt s (o + i)) ∧
    (∀ i : Nat, i < m → srcByteAt s (o + l + i) = srcByteAt s (o + l + i - d)) ∧
    replays s (o + l + m) (q + l) r

/-- The block being filled replays a stretch of the source that ends at ENC.src_literal. -/
def blockReal (s : State) : Prop := ∃ o, replays s o 0 (blockTriplets s)

/-- The history, the pending match and the block all stand in the source. -/
def encReal (s : State) : Prop := historyReal s ∧ pendingReal s ∧ blockReal s

/-- Every piece of state at the value of 70_reset_and_hazards.md R310. -/
def resetValues (t : State) : Prop :=
  (t.cmd = 0 ∧ t.arg0 = 0 ∧ t.arg1 = 0 ∧ t.arg2 = 0 ∧ t.arg3 = 0 ∧ t.res0 = 0 ∧ t.res1 = 0) ∧
  (t.status = .ok ∧ t.fault = none ∧ t.faultInfo = 0) ∧
  t.cur = ⟨0, 0, 0, 0, 0, 0⟩ ∧ t.out = ⟨0, 0⟩ ∧ t.in0 = ⟨0, 0, 0, 0, false⟩ ∧ t.in1 = ⟨0, 0, 0, 0, false⟩ ∧
  (∀ sel i, sparseGet 0 (t.occ.get sel) i = 0 ∧ sparseGet 0 (t.freq.get sel) i = 0 ∧
    sparseFind (t.encTab.get sel) i = none) ∧
  (∀ i, sparseFind t.decTab i = none) ∧ (∀ sel i, sparseFind (t.vdecTab.get sel) i = none) ∧
  t.hdr = ⟨0, 0, 0, 0, 0, 0, 0, 0, 0, 0, 0, 0, 0, 0, 0, 0⟩ ∧ t.hdrSize = 0 ∧
  (t.dec.block = .noBlock ∧ t.dec.cur = ⟨0, 0, 0, 0, 0, 0⟩ ∧ t.dec.rawRemaining = 0 ∧ t.dec.vnRaw = 0 ∧
    t.dec.vnPayload = 0 ∧ t.dec.vnDprev = 0 ∧ t.dec.nMatches = 0 ∧ t.dec.nLmdPayloadBytes = 0 ∧
    (∀ i, litAt t.dec.lits i = 0) ∧ t.dec.nLits = 0 ∧ t.dec.litPos = 0 ∧ t.dec.pendL = 0 ∧ t.dec.pendM = 0 ∧
    t.dec.curD.toInt = -1 ∧ t.dec.lState = 0 ∧ t.dec.mState = 0 ∧ t.dec.dState = 0 ∧ t.dec.lmdLo = 0 ∧
    t.dec.endOfStream = false ∧ t.dec.poisoned = false) ∧
  (t.enc.srcLo = 0 ∧ t.enc.srcBegin = 0 ∧ t.enc.srcLimit = 0 ∧ t.enc.srcEnd = 0 ∧ t.enc.dstBegin = 0 ∧
    t.enc.dstPos = 0 ∧ t.enc.dstEnd = 0 ∧ t.enc.srcEncodeI = 0 ∧ t.enc.srcLiteral = 0 ∧ t.enc.pending = ⟨0, 0, 0⟩ ∧
    (∀ h, ∀ e ∈ bucketList (sparseGet emptyBucket t.enc.hist h), e.pos.toInt = -1048556 ∧ e.value = 0) ∧
    (∀ sel i, valueAt sel t i = 0) ∧ t.enc.nMatches = 0 ∧ (∀ i, litAt t.enc.lits i = 0) ∧ t.enc.nLits = 0 ∧
    t.enc.poisoned = false)

/-! ## Tables -/

/-- FREQ[SEL][i]. -/
def freqAt (s : State) (sel : Sel) (i : Nat) : Nat := (sparseGet 0 (s.freq.get sel) i).toNat

/-- Σ FREQ[SEL][j] over j < i. -/
def freqBefore (s : State) (sel : Sel) : Nat → Nat
  | 0 => 0
  | i + 1 => freqBefore s sel i + freqAt s sel i

/-- Σ FREQ[SEL]. -/
def freqTotal (s : State) (sel : Sel) : Nat := freqBefore s sel (nsym sel)

/-- OCC[SEL][i]. -/
def occAt (s : State) (sel : Sel) (i : Nat) : Nat := (sparseGet 0 (s.occ.get sel) i).toNat

/-- Σ OCC[SEL][j] over j < i. -/
def occBefore (s : State) (sel : Sel) : Nat → Nat
  | 0 => 0
  | i + 1 => occBefore s sel i + occAt s sel i

/-- Σ OCC[SEL]. -/
def occTotal (s : State) (sel : Sel) : Nat := occBefore s sel (nsym sel)

/-- The state bits a decoder entry pulls and its delta, for state j of a symbol of frequency f among n states with k as in
41_fse_tables.md R157. -/
def stateForm (n f k j : Nat) : Nat × Nat :=
  if j < 2 * n / 2 ^ k - f then (k, (f + j) * 2 ^ k - n) else (k - 1, (j - (2 * n / 2 ^ k - f)) * 2 ^ (k - 1))

/-! ## Streams of fields (40_bitstream.md R131) -/

/-- Push (width, value) fields in order, the whole bytes flushed after each. -/
def writeFields : List (Nat × Nat) → Payload → Except Trap Payload
  | [], p => .ok p
  | (n, b) :: r, p =>
    match outPush p.out n b with
    | .error t => .error t
    | .ok o => writeFields r (flushPayload { p with out := o })

/-- Pull fields of the given widths in order, a refill before each. -/
def readFields (m : Memory) : List Nat → InAcc → Option (List Nat)
  | [], _ => some []
  | n :: r, x =>
    match inFlush m x with
    | none => none
    | some y =>
      match inPull y n with
      | .error _ => none
      | .ok (b, z) =>
        match readFields m r z with
        | none => none
        | some bs => some (b :: bs)

/-! ## Splitting a match (46_encoder_backend.md R252) -/

/-- The loop of R252 on M, then its last push. -/
def splitMatch (d : Nat) : Nat → Nat → Nat → List (Nat × Nat × Nat)
  | 0, l, m => if 0 < l ∨ 0 < m then [(l, m, d)] else []
  | fuel + 1, l, m =>
    if 2359 < m then (l, 2359, d) :: splitMatch d fuel 0 (m - 2359)
    else if 0 < l ∨ 0 < m then [(l, m, d)] else []

/-- The loop of R252 on L, then the loop on M. -/
def splitTriplets (d m : Nat) : Nat → Nat → List (Nat × Nat × Nat)
  | 0, l => splitMatch d m l m
  | fuel + 1, l => if 315 < l then (315, 0, 1) :: splitTriplets d m fuel (l - 315) else splitMatch d m l m

/-- The triplets of PUSH_MATCH for L, M and D (R252). -/
def tripletsOf (l m d : Nat) : List (Nat × Nat × Nat) := splitTriplets d m l l

/-- The triplets of a list stand in ENC's arrays from entry `n` on. -/
def tripletsAt (s : State) (n : Nat) (ts : List (Nat × Nat × Nat)) : Prop :=
  ∀ i (h : i < ts.length), valueAt .l s (n + i) = ts[i].1 ∧ valueAt .m s (n + i) = ts[i].2.1 ∧
    valueAt .d s (n + i) = ts[i].2.2

/-- The state after a push of the triplets of L, M and D with their L literals (R250, R252): the arrays and their lengths,
ENC.src_literal, the cursor registers, RES0 and RES1. -/
def pushedRun (s t : State) (l m d : Nat) : Prop :=
  t = { s with
    enc := { s.enc with
      lValues := t.enc.lValues, mValues := t.enc.mValues, dValues := t.enc.dValues, lits := t.enc.lits,
      nMatches := s.enc.nMatches + BitVec.ofNat 32 (tripletsOf l m d).length,
      nLits := s.enc.nLits + BitVec.ofNat 32 l, srcLiteral := s.enc.srcLiteral + BitVec.ofNat 64 (l + m) },
    cur := encCursors t.enc, res0 := nat64 t.enc.nMatches.toNat, res1 := nat64 t.enc.nLits.toNat, status := .ok } ∧
  tripletsAt t s.enc.nMatches.toNat (tripletsOf l m d) ∧
  (∀ i, i < s.enc.nMatches.toNat → ∀ sel, valueAt sel t i = valueAt sel s i) ∧
  (∀ i, i < s.enc.nLits.toNat → litAt t.enc.lits i = litAt s.enc.lits i) ∧
  ∀ i, i < l → litAt t.enc.lits (s.enc.nLits.toNat + i) =
    readByte s.src (s.enc.srcBegin.toNat + s.enc.srcLiteral.toInt.toNat + i)

/-! ## Headers (43_header_codec.md) -/

/-- The code word and the length of a frequency v ≤ 1047 (30_encoding.md R101). -/
def codeOf (v : Nat) : Nat × Nat :=
  if v = 0 then (0, 2)
  else if v = 1 then (2, 2)
  else if v = 2 then (1, 3)
  else if v = 3 then (5, 3)
  else if v = 4 then (3, 5)
  else if v = 5 then (11, 5)
  else if v = 6 then (19, 5)
  else if v = 7 then (27, 5)
  else if v ≤ 23 then (7 + 16 * (v - 8), 8)
  else (15 + 16 * (v - 24), 14)

/-- The code words of a list of frequencies one after another, bit 0 first, and their length in bits (R102). -/
def regionOf : List Nat → Nat × Nat
  | [] => (0, 0)
  | v :: r => ((codeOf v).1 + 2 ^ (codeOf v).2 * (regionOf r).1, (codeOf v).2 + (regionOf r).2)

/-- Frequency i of the concatenated order l, m, d, literal (R102). -/
def concatFreq (s : State) (i : Nat) : Nat :=
  if i < 20 then freqAt s .l i
  else if i < 40 then freqAt s .m (i - 20)
  else if i < 104 then freqAt s .d (i - 40)
  else freqAt s .lit (i - 104)

/-- The 360 frequencies in that order. -/
def concatFreqs (s : State) : List Nat := (List.range 360).map (concatFreq s)

/-- The frequency region of FREQ[0..3] (R102). -/
def freqRegionOf (s : State) : Nat × Nat := regionOf (concatFreqs s)

/-- header_size of FREQ[0..3] (R102). -/
def headerSizeOf (s : State) : Nat := 32 + ((freqRegionOf s).2 + 7) / 8

/-- The field of FIELD_OVERFLOW id `id` lies in its packed range (43_header_codec.md R184). -/
def fieldFits (s : State) (id : Nat) : Prop :=
  match id with
  | 1 => s.hdr.nLiterals.toNat < 2 ^ 20
  | 2 => s.hdr.nLiteralPayloadBytes.toNat < 2 ^ 20
  | 3 => s.hdr.nMatches.toNat < 2 ^ 20
  | 4 => -7 ≤ s.hdr.literalBits.toInt ∧ s.hdr.literalBits.toInt ≤ 0
  | 5 => s.hdr.literalState0.toNat < 2 ^ 10
  | 6 => s.hdr.literalState1.toNat < 2 ^ 10
  | 7 => s.hdr.literalState2.toNat < 2 ^ 10
  | 8 => s.hdr.literalState3.toNat < 2 ^ 10
  | 9 => s.hdr.nLmdPayloadBytes.toNat < 2 ^ 20
  | 10 => -7 ≤ s.hdr.lmdBits.toInt ∧ s.hdr.lmdBits.toInt ≤ 0
  | 11 => s.hdr.lState.toNat < 2 ^ 10
  | 12 => s.hdr.mState.toNat < 2 ^ 10
  | 13 => s.hdr.dState.toNat < 2 ^ 10
  | n => 16 ≤ n → n < 376 → concatFreq s (n - 16) ≤ 1047

/-- Check b of HDR_CHECK passes (43_header_codec.md R187). -/
def headerPasses (s : State) (b : Nat) : Prop :=
  match b with
  | 0 => s.hdr.magic.toNat = 0x31787662
  | 1 => s.hdr.nLiterals.toNat ≤ 40000
  | 2 => s.hdr.nMatches.toNat ≤ 10000
  | 3 => s.hdr.literalState0.toNat < 1024
  | 4 => s.hdr.literalState1.toNat < 1024
  | 5 => s.hdr.literalState2.toNat < 1024
  | 6 => s.hdr.literalState3.toNat < 1024
  | 7 => s.hdr.lState.toNat < 64
  | 8 => s.hdr.mState.toNat < 64
  | 9 => s.hdr.dState.toNat < 256
  | 10 => freqTotal s .l ≤ 64
  | 11 => freqTotal s .m ≤ 64
  | 12 => freqTotal s .d ≤ 256
  | 13 => freqTotal s .lit ≤ 1024
  | 14 => s.hdr.nLiterals.toNat % 4 = 0
  | 15 => -7 ≤ s.hdr.literalBits.toInt ∧ s.hdr.literalBits.toInt ≤ 0
  | 16 => -7 ≤ s.hdr.lmdBits.toInt ∧ s.hdr.lmdBits.toInt ≤ 0
  | _ => True

/-- The packed words of a header that fits stand in their bit fields (30_encoding.md R97). -/
def packedAt (m : Memory) (p : Nat) (h : Hdr) (hs : Nat) : Prop :=
  memRead m p 4 = 0x32787662 ∧ memRead m (p + 4) 4 = h.nRawBytes.toNat ∧
  field (memRead m (p + 8) 8) 0 20 = h.nLiterals.toNat ∧
  field (memRead m (p + 8) 8) 20 20 = h.nLiteralPayloadBytes.toNat ∧
  field (memRead m (p + 8) 8) 40 20 = h.nMatches.toNat ∧
  (field (memRead m (p + 8) 8) 60 3 : Int) = h.literalBits.toInt + 7 ∧ field (memRead m (p + 8) 8) 63 1 = 0 ∧
  field (memRead m (p + 16) 8) 0 10 = h.literalState0.toNat ∧
  field (memRead m (p + 16) 8) 10 10 = h.literalState1.toNat ∧
  field (memRead m (p + 16) 8) 20 10 = h.literalState2.toNat ∧
  field (memRead m (p + 16) 8) 30 10 = h.literalState3.toNat ∧
  field (memRead m (p + 16) 8) 40 20 = h.nLmdPayloadBytes.toNat ∧
  (field (memRead m (p + 16) 8) 60 3 : Int) = h.lmdBits.toInt + 7 ∧ field (memRead m (p + 16) 8) 63 1 = 0 ∧
  field (memRead m (p + 24) 8) 0 32 = hs ∧ field (memRead m (p + 24) 8) 32 10 = h.lState.toNat ∧
  field (memRead m (p + 24) 8) 42 10 = h.mState.toNat ∧ field (memRead m (p + 24) 8) 52 10 = h.dState.toNat ∧
  field (memRead m (p + 24) 8) 62 2 = 0

/-- The header HDR_UNPACK reads from the fixed part at index p (43_header_codec.md R185). -/
def unpackedAt (m : Memory) (p : Nat) (h : Hdr) : Prop :=
  h.magic.toNat = 0x31787662 ∧ h.nRawBytes.toNat = memRead m (p + 4) 4 ∧
  h.nLiterals.toNat = field (memRead m (p + 8) 8) 0 20 ∧
  h.nLiteralPayloadBytes.toNat = field (memRead m (p + 8) 8) 20 20 ∧
  h.nMatches.toNat = field (memRead m (p + 8) 8) 40 20 ∧
  h.literalBits.toInt = (field (memRead m (p + 8) 8) 60 3 : Int) - 7 ∧
  h.literalState0.toNat = field (memRead m (p + 16) 8) 0 10 ∧
  h.literalState1.toNat = field (memRead m (p + 16) 8) 10 10 ∧
  h.literalState2.toNat = field (memRead m (p + 16) 8) 20 10 ∧
  h.literalState3.toNat = field (memRead m (p + 16) 8) 30 10 ∧
  h.nLmdPayloadBytes.toNat = field (memRead m (p + 16) 8) 40 20 ∧
  h.lmdBits.toInt = (field (memRead m (p + 16) 8) 60 3 : Int) - 7 ∧
  h.lState.toNat = field (memRead m (p + 24) 8) 32 10 ∧ h.mState.toNat = field (memRead m (p + 24) 8) 42 10 ∧
  h.dState.toNat = field (memRead m (p + 24) 8) 52 10 ∧
  h.nPayloadBytes.toNat = h.nLiteralPayloadBytes.toNat + h.nLmdPayloadBytes.toNat

/-- The bytes [p + 32, p + hs) are a whole frequency region that codes the list f of 360 frequencies, or the region is empty
and f is all zero (R185, 30_encoding.md R102). -/
def regionCodes (m : Memory) (p hs : Nat) (f : List Nat) : Prop :=
  f.length = 360 ∧
  ((hs = 32 ∧ f = List.replicate 360 0) ∨
    ((∀ v ∈ f, v ≤ 1047) ∧ hs = 32 + ((regionOf f).2 + 7) / 8 ∧
      leValue (readBytes m (p + 32) (hs - 32)) % 2 ^ (regionOf f).2 = (regionOf f).1))

/-- The verbose image of a header and its frequencies stands at index p, the padding left out (30_encoding.md R96). -/
def verboseAt (m : Memory) (p : Nat) (h : Hdr) (f : Nat → Nat) : Prop :=
  memRead m p 4 = h.magic.toNat ∧ memRead m (p + 4) 4 = h.nRawBytes.toNat ∧
  memRead m (p + 8) 4 = h.nPayloadBytes.toNat ∧ memRead m (p + 12) 4 = h.nLiterals.toNat ∧
  memRead m (p + 16) 4 = h.nMatches.toNat ∧ memRead m (p + 20) 4 = h.nLiteralPayloadBytes.toNat ∧
  memRead m (p + 24) 4 = h.nLmdPayloadBytes.toNat ∧ memRead m (p + 28) 4 = h.literalBits.toNat ∧
  memRead m (p + 32) 2 = h.literalState0.toNat ∧ memRead m (p + 34) 2 = h.literalState1.toNat ∧
  memRead m (p + 36) 2 = h.literalState2.toNat ∧ memRead m (p + 38) 2 = h.literalState3.toNat ∧
  memRead m (p + 40) 4 = h.lmdBits.toNat ∧ memRead m (p + 44) 2 = h.lState.toNat ∧
  memRead m (p + 46) 2 = h.mState.toNat ∧ memRead m (p + 48) 2 = h.dState.toNat ∧
  ∀ i, i < 360 → memRead m (p + 50 + 2 * i) 2 = f i

/-! ## Compressed blocks (44_decoder_engine.md R206 to R213) -/

/-- The literals of `groups` groups of four, from the four states and IN[0] on (R207); `none` is ERROR. -/
def literalRun (tab : Sparse DecEntry) (m : Memory) : Nat → LitStates → InAcc → Option (List Nat × InAcc)
  | 0, _, x => some ([], x)
  | groups + 1, st, x =>
    match inFlush m x with
    | none => none
    | some x0 =>
      match fseDecode tab x0 st.s0 with
      | .error _ => none
      | .ok (n0, b0, x1) =>
        match fseDecode tab x1 st.s1 with
        | .error _ => none
        | .ok (n1, b1, x2) =>
          match fseDecode tab x2 st.s2 with
          | .error _ => none
          | .ok (n2, b2, x3) =>
            match fseDecode tab x3 st.s3 with
            | .error _ => none
            | .ok (n3, b3, x4) =>
              match literalRun tab m groups { s0 := n0.toNat, s1 := n1.toNat, s2 := n2.toNat, s3 := n3.toNat } x4 with
              | none => none
              | some (r, y) => some (b0 :: b1 :: b2 :: b3 :: r, y)

/-- What one pull of LMD_LOOP reads (R210): L, M and the new D, 0 meaning the old one; the next states; IN[1]. -/
structure LmdPull where
  l : Int
  m : Int
  d : Int
  lNext : Int
  mNext : Int
  dNext : Int
  acc : InAcc
  deriving DecidableEq, Repr

/-- IN_FLUSH and three FSE_VDECODE bodies on IN[1] (R210); `none` where one of them is ERROR. -/
def lmdPull (s : State) : Option LmdPull :=
  match inFlush s.src { s.in1 with lo := s.dec.lmdLo } with
  | none => none
  | some x0 =>
    match fseVdecode s.vdecTab.l x0 s.dec.lState.toNat with
    | .error _ => none
    | .ok (ln, l, x1) =>
      match fseVdecode s.vdecTab.m x1 s.dec.mState.toNat with
      | .error _ => none
      | .ok (mn, m, x2) =>
        match fseVdecode s.vdecTab.d x2 s.dec.dState.toNat with
        | .error _ => none
        | .ok (dn, d, x3) => some { l := l, m := m, d := d, lNext := ln, mNext := mn, dNext := dn, acc := x3 }

/-- What `count` rounds of LMD_LOOP's pulls read (R210): L, M and the new D of each, 0 meaning the old one; `none` where a pull is
ERROR. -/
def lmdRun : Nat → State → Option (List (Int × Int × Int))
  | 0, _ => some []
  | count + 1, s =>
    match lmdPull s with
    | none => none
    | some v =>
      match lmdRun count { s with
          in1 := v.acc,
          dec := { s.dec with
            lState := BitVec.ofInt 16 v.lNext, mState := BitVec.ofInt 16 v.mNext, dState := BitVec.ofInt 16 v.dNext } } with
      | none => none
      | some r => some ((v.l, v.m, v.d) :: r)

/-- The first n literals of the block in ENC.lits, zeros beyond ENC.n_lits (46_encoder_backend.md R259). -/
def paddedLits (s : State) (n : Nat) : List Nat :=
  (List.range n).map fun i => if i < s.enc.nLits.toNat then (litAt s.enc.lits i).toNat else 0

/-- The distance of triplet i as the block codes it (46_encoder_backend.md R260): 0 where it is the distance before it, which is 0 at
the start. -/
def codedDistance (s : State) (i : Nat) : Nat :=
  if valueAt .d s i = (if i = 0 then 0 else valueAt .d s (i - 1)) then 0 else valueAt .d s i

/-- The triplets as the block codes them (46_encoder_backend.md R264). -/
def codedTriplets (s : State) : List (Int × Int × Int) :=
  (List.range s.enc.nMatches.toNat).map fun i => (valueAt .l s i, valueAt .m s i, codedDistance s i)

/-- The payloads of a block at SRC index p whose header is h, with header_size hs, decode to these literals and triplets with the
tables that BUILD_DEC and BUILD_VDEC make of FREQ in `r`, whatever the lower bound of the literal stream (44_decoder_engine.md
R206 to R208, R210); the LMD payload starts with 8 zero bytes (46_encoder_backend.md R264). -/
def payloadsDecode (h : Hdr) (hs p : Nat) (lits : List Nat) (triplets : List (Int × Int × Int)) (r : State) : Prop :=
  let q := p + hs + h.nLiteralPayloadBytes.toNat
  let lmd := inInit r.src r.in1 h.lmdBits.toInt (q + h.nLmdPayloadBytes.toNat) q
  ∃ td tl tm tv, (exec .buildDec r = .next td ∧ td.status = .ok) ∧ (exec (.buildVdec .l) r = .next tl ∧ tl.status = .ok) ∧
    (exec (.buildVdec .m) r = .next tm ∧ tm.status = .ok) ∧ (exec (.buildVdec .d) r = .next tv ∧ tv.status = .ok) ∧
    (∀ lo, lo ≤ p → (inInit r.src r.in0 h.literalBits.toInt q lo).1 = true ∧
      ∃ x, literalRun td.decTab r.src (h.nLiterals.toNat / 4)
        { s0 := h.literalState0.toNat, s1 := h.literalState1.toNat, s2 := h.literalState2.toNat, s3 := h.literalState3.toNat }
        (inInit r.src r.in0 h.literalBits.toInt q lo).2 = some (lits, x)) ∧
    memRead r.src q 8 = 0 ∧ lmd.1 = true ∧
    lmdRun h.nMatches.toNat { r with
      in1 := lmd.2, vdecTab := { l := tl.vdecTab.l, m := tm.vdecTab.m, d := tv.vdecTab.d },
      dec := { r.dec with lmdLo := BitVec.ofNat 64 q, lState := h.lState, mState := h.mState, dState := h.dState } } =
        some triplets

/-- The distance check of R210. -/
def distanceOk (s : State) (l : Nat) (d : Int) : Prop :=
  0 ≤ d ∧ d ≤ (s.dec.cur.dstPos.toNat + l : Int) - s.dec.cur.dstBegin.toNat

/-- DEC_STEP in `s` ends with this status, the decoder context being `c` but for the DEC.lits entries it leaves unspecified
(93_implementation_defined.md U3). -/
def decEnds (s : State) (st : Status) (c : DecCtx) : Prop :=
  ∃ t, exec .decStep s = .next t ∧ t.status = st ∧ t.dec = { c with lits := t.dec.lits }

/-- DEC_STEP in `s` ends with ERROR at the cursors it has (44_decoder_engine.md R215). -/
def decFails (s : State) : Prop :=
  ∃ t, exec .decStep s = .next t ∧ t.status = .error ∧ t.dec.poisoned = true ∧ t.dec.cur = s.dec.cur

/-- What DEC_STEP in `s` does once it has a triplet to copy, in `s'` (R210, R211): ERROR where the distance is bad, DST_FULL where
the room is short, else it goes on from where the copy ends. -/
def runsTriplet (l m : Nat) (d : Int) (s s' : State) : Prop :=
  (¬distanceOk s' l d → decFails s) ∧
  (distanceOk s' l d →
    ((copyTriplet l m d s').1 = false → decEnds s .dstFull (copyTriplet l m d s').2.dec) ∧
    ((copyTriplet l m d s').1 = true → exec .decStep s = exec .decStep (copyTriplet l m d s').2))

/-- What DEC_STEP does in an open compressed block (R209, R210): SRC_EMPTY where the payload is not whole; the pending triplet;
the end of the block; or the next triplet. -/
def runsOpenBlock (s : State) : Prop :=
  let c := s.dec.cur
  let n := s.dec.nLmdPayloadBytes.toNat
  (c.srcEnd.toNat ≤ c.srcPos.toNat ∨ c.srcEnd.toNat < c.srcPos.toNat + n → decEnds s .srcEmpty s.dec) ∧
  (c.srcPos.toNat < c.srcEnd.toNat → c.srcPos.toNat + n ≤ c.srcEnd.toNat →
    (s.dec.pendL ≠ 0 ∨ s.dec.pendM ≠ 0 → runsTriplet s.dec.pendL.toNat s.dec.pendM.toNat s.dec.curD.toInt s s) ∧
    (s.dec.pendL = 0 → s.dec.pendM = 0 → s.dec.nMatches = 0 → exec .decStep s = exec .decStep { s with
      dec := { s.dec with block := .noBlock, cur := { c with srcPos := BitVec.ofNat 64 (c.srcPos.toNat + n) } } }) ∧
    (s.dec.pendL = 0 → s.dec.pendM = 0 → s.dec.nMatches ≠ 0 →
      (lmdPull s = none → decFails s) ∧
      ∀ v, lmdPull s = some v →
        ((s.dec.nLits.toNat : Int) < s.dec.litPos.toNat + v.l → decFails s) ∧
        ((s.dec.litPos.toNat : Int) + v.l ≤ s.dec.nLits.toNat →
          runsTriplet v.l.toNat v.m.toNat (if v.d ≠ 0 then v.d else s.dec.curD.toInt) s { s with
            in1 := v.acc,
            dec := { s.dec with
              lState := BitVec.ofInt 16 v.lNext, mState := BitVec.ofInt 16 v.mNext, dState := BitVec.ofInt 16 v.dNext,
              nMatches := s.dec.nMatches - 1 } })))

/-- What DEC_STEP does in `s` with a whole compressed block at DEC.src_pos whose header is h, f, hs (R206 to R208): HDR, FREQ and
HDR_SIZE take the header; ERROR where HDR_CHECK or a stream fails; else it goes on in the open block, with the tables that
BUILD_DEC and BUILD_VDEC make, the literals decoded and IN[1] at the LMD payload. -/
def opensWhole (block : Block) (h : Hdr) (f : List Nat) (hs : Nat) (s : State) : Prop :=
  let p := s.dec.cur.srcPos.toNat
  let q := p + hs + h.nLiteralPayloadBytes.toNat
  let sH := loadHeader h f hs s
  ((∃ b, b < 17 ∧ ¬headerPasses sH b) → ∃ t, exec .decStep s = .next t ∧ t.status = .error ∧
    t.dec = { s.dec with lits := t.dec.lits, poisoned := true } ∧
    t.hdr = sH.hdr ∧ t.freq = sH.freq ∧ t.hdrSize = sH.hdrSize) ∧
  ((∀ b, b < 17 → headerPasses sH b) →
    ∃ td tl tm tv, (exec .buildDec sH = .next td ∧ td.status = .ok) ∧ (exec (.buildVdec .l) sH = .next tl ∧ tl.status = .ok) ∧
      (exec (.buildVdec .m) sH = .next tm ∧ tm.status = .ok) ∧ (exec (.buildVdec .d) sH = .next tv ∧ tv.status = .ok) ∧
      (let lit := inInit s.src s.in0 h.literalBits.toInt q s.dec.cur.srcBegin.toNat
       let run := literalRun td.decTab s.src (h.nLiterals.toNat / 4)
         { s0 := h.literalState0.toNat, s1 := h.literalState1.toNat, s2 := h.literalState2.toNat, s3 := h.literalState3.toNat } lit.2
       let lmd := inInit s.src s.in1 h.lmdBits.toInt (q + h.nLmdPayloadBytes.toNat) q
       (lit.1 = false ∨ run = none ∨ lmd.1 = false → decFails s) ∧
       ∀ symbols x, lit.1 = true → run = some (symbols, x) → lmd.1 = true → ∃ u : State,
         u = { sH with
           in0 := x, in1 := lmd.2, decTab := td.decTab,
           vdecTab := { l := tl.vdecTab.l, m := tm.vdecTab.m, d := tv.vdecTab.d },
           dec := { s.dec with
             block := block, lits := u.dec.lits, nLits := h.nLiterals, litPos := 0, lmdLo := BitVec.ofNat 64 q,
             lState := h.lState, mState := h.mState, dState := h.dState, nMatches := h.nMatches,
             nLmdPayloadBytes := h.nLmdPayloadBytes, pendL := 0, pendM := 0, curD := BitVec.ofInt 32 (-1),
             cur := { s.dec.cur with srcPos := BitVec.ofNat 64 q } } } ∧
         (∀ i (hi : i < symbols.length), (litAt u.dec.lits i).toNat = symbols[i] % 256) ∧
         exec .decStep s = exec .decStep u))

/-- What DEC_STEP does in `s` with a compressed block at DEC.src_pos, its header read as `head` (R206). -/
def opensBlock (block : Block) (head : Unpacked) (s : State) : Prop :=
  (head = .srcEmpty → decEnds s .srcEmpty s.dec) ∧
  (head = .error → decEnds s .error { s.dec with poisoned := true }) ∧
  ∀ h f hs, head = .ok h f hs →
    let stop := s.dec.cur.srcPos.toNat + hs + h.nLiteralPayloadBytes.toNat + h.nLmdPayloadBytes.toNat
    (s.dec.cur.srcEnd.toNat < stop → decEnds s .srcEmpty s.dec) ∧
    (stop ≤ s.dec.cur.srcEnd.toNat → opensWhole block h f hs s)

/-- What DEC_STEP does in a secondary block (R214), the agent's answer being that of 92_eei_decisions.md P1 as log entry 6 reads it.
`out` is what it writes at DEC.dst_pos. -/
def runsSecondary (s : State) : Prop :=
  let c := s.dec.cur
  let srcLim := min c.srcEnd.toNat (c.srcPos.toNat + s.dec.vnPayload.toNat)
  let dstLim := min c.dstEnd.toNat (c.dstPos.toNat + s.dec.vnRaw.toNat)
  let r := Config.secondaryDecode
    { srcBytes := readBytes s.src c.srcPos.toNat (srcLim - c.srcPos.toNat), srcPos := c.srcPos.toNat, srcLim := srcLim,
      dstBytes := readBytes s.dst c.dstBegin.toNat (c.dstPos.toNat - c.dstBegin.toNat), dstBegin := c.dstBegin.toNat,
      dstPos := c.dstPos.toNat, dstLim := dstLim, dprev := s.dec.vnDprev }
  let out := r.produced.take (dstLim - c.dstPos.toNat)
  (c.srcEnd.toNat < c.srcPos.toNat + s.dec.vnPayload.toNat → decEnds s .srcEmpty s.dec) ∧
  (c.srcPos.toNat + s.dec.vnPayload.toNat ≤ c.srcEnd.toNat →
    (s.dec.vnPayload.toNat < r.consumed ∨ s.dec.vnRaw.toNat < r.produced.length →
      decEnds s .error { s.dec with poisoned := true }) ∧
    (r.consumed ≤ s.dec.vnPayload.toNat → r.produced.length ≤ s.dec.vnRaw.toNat → ∃ u : State,
      u = { s with
        dst := u.dst,
        dec := { s.dec with
          vnPayload := BitVec.ofNat 32 (s.dec.vnPayload.toNat - r.consumed),
          vnRaw := BitVec.ofNat 32 (s.dec.vnRaw.toNat - out.length), vnDprev := r.dprev,
          cur := { c with srcPos := BitVec.ofNat 64 (c.srcPos.toNat + r.consumed),
                          dstPos := BitVec.ofNat 64 (c.dstPos.toNat + out.length) } } } ∧
      bytesAt u.dst c.dstPos.toNat out ∧ sameOutside c.dstPos.toNat (c.dstPos.toNat + out.length) s.dst u.dst ∧
      (u.dec.vnPayload = 0 → u.dec.vnRaw = 0 → r.eos = true →
        exec .decStep s = exec .decStep { u with dec := { u.dec with block := .noBlock } }) ∧
      (¬(u.dec.vnPayload = 0 ∧ u.dec.vnRaw = 0 ∧ r.eos = true) → u.dec.vnPayload = 0 ∨ u.dec.vnRaw = 0 ∨ r.eos = true →
        decEnds s .error { u.dec with poisoned := true }) ∧
      (u.dec.vnPayload ≠ 0 → u.dec.vnRaw ≠ 0 → r.eos = false → ∃ t, exec .decStep s = .next t ∧ t.status = .dstFull ∧
        t.dec = { u.dec with lits := t.dec.lits } ∧ bytesAt t.dst c.dstPos.toNat out)))

/-- What the decoder keeps so that a later DEC_STEP can go on (R210, R211): DEC.dst_pos is not past DEC.dst_end; and in an open
compressed block the pending literals are there, and every entry of the value tables gives a value below 2^20 (30_encoding.md
R104). -/
def resumable (s : State) : Prop :=
  s.dec.cur.dstPos.toNat ≤ s.dec.cur.dstEnd.toNat ∧
  (compressedOpen s = true →
    s.dec.litPos.toNat + s.dec.pendL.toNat ≤ s.dec.nLits.toNat ∧
    ∀ sel j e, sparseFind (s.vdecTab.get sel) j = some e →
      0 ≤ e.valueBase.toInt ∧ e.valueBase.toInt + 2 ^ e.valueBits.toNat ≤ 2 ^ 20)

/-! ## Normalisation (41_fse_tables.md R150) -/

/-- The first rounding of a count c of a total, for N states: shift = clz32(N) − 1 (R150). -/
def roundedFreq (n total c : Nat) : Nat :=
  let f := (c * (2 ^ 31 / total) / 2 ^ (30 - Nat.log2 n) + 1) / 2
  if f = 0 ∧ c ≠ 0 then 1 else f

/-- The sum of the rounded counts of the symbols below i. -/
def roundedBefore (s : State) (sel : Sel) : Nat → Nat
  | 0 => 0
  | i + 1 => roundedBefore s sel i + roundedFreq (nstates sel) (occTotal s sel) (occAt s sel i)

end Sys2Proof.Machine
end

