-- ==== Sys2Proof/Certificates/Slice0/Obligations.lean ====
section
/-! DEFINITION. The statements for the provers. Each docstring names the rules of spec/ it formalises; OBLIGATIONS.json lists
them with their bases. -/

open Sys2Proof Sys2Proof.Machine

/-! ## The port: reset, faults, command words -/

/-- R310, R311: RESET by the value of ARG0, whatever fault is held; and the machine at power-on. -/
def Obligations.ResetByKind : Prop :=
  resetValues State.reset ∧
  ∀ s : State,
    (s.arg0 = 0 → ∃ t, exec .reset s = .next t ∧ resetValues t ∧ t.src = s.src ∧ t.dst = s.dst ∧
      t.srcSize = s.srcSize ∧ t.dstSize = s.dstSize) ∧
    (s.arg0 = 1 → exec .reset s = .next { s with fault := none, faultInfo := 0, status := .ok }) ∧
    (s.arg0 ≠ 0 → s.arg0 ≠ 1 → exec .reset s = .next (faulted .badOperand 0 s))

/-- R291: while a fault is held, a command word other than RESET changes nothing. -/
def Obligations.StickyFault : Prop :=
  (∀ (w : U32) (s : State), s.fault ≠ none → opcOf w ≠ 1 → runWord w s = .next s) ∧
  ∀ (i : Instr) (s : State), s.fault ≠ none → i ≠ .reset → exec i s = .next s

/-- R290, R295: a command that faults has no effect but on STATUS, FAULT and FAULT_INFO. -/
def Obligations.PreciseFault : Prop :=
  ∀ (i : Instr) (s t : State), ready s → exec i s = .next t → t.fault ≠ none →
    ∃ c v, t = { s with fault := some c, faultInfo := v, status := .faulted }

/-- R280, R290, R292: every step keeps STATUS = FAULTED exactly while a fault is held. -/
def Obligations.FaultStatusAgree : Prop :=
  ∀ s t : State, faultCoherent s → step s = .next t → faultCoherent t

/-- Every step keeps SRC, DST and every array of the core (OCC, FREQ, ENC, DEC, VDEC, the literals, the triplet arrays and the history)
in canonical form (the model's own convention, so that equal contents are equal data). -/
def Obligations.CanonicalFormKept : Prop :=
  ∀ s t : State, canonical s → step s = .next t → canonical t

/-- R38, R39, R133, R138: every step keeps the three accumulators within their bounds. -/
def Obligations.AccumulatorsKept : Prop :=
  ∀ s t : State, accumulatorsSound s → step s = .next t → accumulatorsSound t

/-- R32, R33, R71: every step keeps the decoder context's SRC and DST cursors and the encoder context's DST cursors ordered and
inside their spaces. That the decoder's ends stay inside rests on DEC_FEED and DEC_GROW faulting beyond SRC_SIZE and DST_SIZE, as log
entry 8 reads R216 and R217, and, in a secondary block, on log entry 6. Of the encoder's source cursors it says nothing: PUSH_LMD and
ENC_TRANSLATE (log entry 15) do not keep them ordered. -/
def Obligations.ContextCursorsKept : Prop :=
  ∀ s t : State, contextsOrdered s → step s = .next t → contextsOrdered t

/-- R51, R57, R298: every step keeps the lengths and the values of the per-block arrays legal. That the entries at or beyond the
lengths are legal too rests on log entry 5 (a DESIGN CHOICE: where U3 lets such an entry hold any value, the model draws it from
the range of R298). -/
def Obligations.ArraysKeptLegal : Prop :=
  ∀ s t : State, arraysLegal s → step s = .next t → arraysLegal t

/-- The state after reset meets the five invariants above. -/
def Obligations.ResetIsSound : Prop :=
  faultCoherent State.reset ∧ canonical State.reset ∧ accumulatorsSound State.reset ∧ contextsOrdered State.reset ∧
    arraysLegal State.reset

/-- R60, R70, R31: no command writes SRC, the sizes of the spaces or (but for RESET) an argument register. R83, R317: no step at all
changes an SRC byte that a decode or an encode in progress relies on. When one is in progress, that a byte below DEC.src_end which
changes after a DEC_FEED breaks duty 3, and that duty 4 covers no byte below DEC.src_begin, are the model's reading (log entry 16). -/
def Obligations.SourceNeverWritten : Prop :=
  (∀ (i : Instr) (s t : State), exec i s = .next t →
    t.src = s.src ∧ t.srcSize = s.srcSize ∧ t.dstSize = s.dstSize ∧ t.script = s.script ∧
    (i ≠ .reset → t.cmd = s.cmd ∧ t.arg0 = s.arg0 ∧ t.arg1 = s.arg1 ∧ t.arg2 = s.arg2 ∧ t.arg3 = s.arg3)) ∧
  ∀ (s t : State) (a : Nat), step s = .next t →
    (compressedOpen s = true ∧ s.dec.cur.srcPos.toNat ≤ a ∧ a < s.dec.cur.srcPos.toNat + s.dec.nLmdPayloadBytes.toNat) ∨
    (decoding s = true ∧ s.dec.cur.srcBegin.toNat ≤ a ∧ a < s.dec.cur.srcPos.toNat) ∨
    (decoding s = true ∧ s.dec.feedLo.toNat ≤ a ∧ a < s.dec.cur.srcEnd.toNat ∧ s.dec.cur.srcPos.toNat ≤ a) ∨
    (encoding s = true ∧ s.enc.srcLo.toNat ≤ a ∧ a < s.enc.srcBegin.toNat + s.enc.srcLimit.toNat) →
    readByte t.src a = readByte s.src a

/-- R71: a command changes DST only from the position to the end of the region it uses. R83, R317: while a decode is in progress no
step but a DEC_BUFFER, which starts another, changes the bytes it has produced (log entry 16). -/
def Obligations.DstWrittenOnlyInRegion : Prop :=
  (∀ (i : Instr) (s t : State), exec i s = .next t → sameOutside (dstRegion i s).1 (dstRegion i s).2 s.dst t.dst) ∧
  ∀ (s t : State) (a : Nat), step s = .next t → decoding s = true →
    (∀ w r, s.script = .cmd w :: r → decode w ≠ .ok .decBuffer) →
    s.dec.cur.dstBegin.toNat ≤ a → a < s.dec.cur.dstPos.toNat → readByte t.dst a = readByte s.dst a

/-- R64: while a compressed block is open, the commands that would touch its tables and its stream fault RESOURCE_BUSY, no
other command but the decoder's and RESET changes them, and DEC_INIT, DEC_BUFFER's DEC_INIT and RESET release the block. -/
def Obligations.InterlockGuardsOpenBlock : Prop :=
  (∀ s : State, ready s → compressedOpen s = true →
    exec (.inInit .lmd) s = .next (faulted .resourceBusy 0x18 s) ∧
    exec (.inFlush .lmd) s = .next (faulted .resourceBusy 0x19 s) ∧
    (∀ n, exec (.inPull .lmd n) s = .next (faulted .resourceBusy 0x1A s)) ∧
    (∀ sel, exec (.buildVdec sel) s = .next (faulted .resourceBusy 0x24 s)) ∧
    (∀ sel, exec (.fseVdecode sel) s = .next (faulted .resourceBusy 0x2A s)) ∧
    (s.arg0 = 8 ∨ s.arg0 = 18 → exec .storeArray s = .next (faulted .resourceBusy 0x02 s))) ∧
  (∀ (i : Instr) (s t : State), compressedOpen s = true → i ∉ [.decInit, .decStep, .decBuffer, .reset] →
    exec i s = .next t → t.in1 = s.in1 ∧ t.vdecTab = s.vdecTab ∧ t.dec.lits = s.dec.lits ∧ t.dec.nLits = s.dec.nLits ∧
      t.dec.block = s.dec.block) ∧
  (∀ s t : State, ready s → exec .decInit s = .next t → t.fault = none → compressedOpen t = false) ∧
  (∀ s : State, ready s → srcOk s → dstOk s → ∃ t, exec .decBuffer s = .next t ∧ t.fault = none) ∧
  ∀ s t : State, s.arg0 = 0 → exec .reset s = .next t → compressedOpen t = false

/-- R296: what sets, what clears and what heeds the two POISONED bits. -/
def Obligations.PoisonBits : Prop :=
  (∀ s : State, ready s → s.dec.poisoned = true → ∀ i ∈ [Instr.decStep, .decFeed, .decGrow],
    exec i s = .next (faulted .contextPoisoned 0 s)) ∧
  (∀ s : State, ready s → s.enc.poisoned = true →
    ∀ i ∈ [Instr.encBase, .encTranslate, .pushLmd, .pushMatch, .backendMatch, .backendLiterals, .emitBlock, .encFinish],
      exec i s = .next (faulted .contextPoisoned 0 s)) ∧
  (∀ s t : State, ready s → ∀ i ∈ [Instr.decStep, .decBuffer], exec i s = .next t → t.fault = none →
    (t.dec.poisoned = true ↔ t.status = .error)) ∧
  (∀ s t : State, ready s → ∀ i ∈ [Instr.encBase, .backendMatch, .backendLiterals, .encFinish], exec i s = .next t →
    t.status = .error → t.enc.poisoned = true) ∧
  (∀ s t : State, ready s → exec .encBuffer s = .next t → t.fault = none →
    (t.enc.poisoned = true ↔ t.status = .error)) ∧
  (∀ s t : State, ready s → exec .decInit s = .next t → t.fault = none → t.dec.poisoned = false) ∧
  (∀ s t : State, ready s → exec .encInit s = .next t → t.fault = none → t.enc.poisoned = false) ∧
  (∀ s t : State, s.arg0 = 0 → exec .reset s = .next t → t.dec.poisoned = false ∧ t.enc.poisoned = false) ∧
  ∀ (i : Instr) (p q : Bool) (s t : State), ignoresPoison i = true → exec i s = .next t →
    exec i (withPoison p q s) = .next (withPoison p q t)

/-- R33, R53: when a command of a context ends without a fault, the cursor registers are that context's cursors, whatever
STATUS says (ENC_BUFFER, STORE_RAW and HASH, which use no context of their own, left out: log entry 10). Of an encoder position that
does not fit its register nothing is said (log entry 25). -/
def Obligations.CursorsWrittenBack : Prop :=
  (∀ s t : State, ready s → ∀ i ∈ [Instr.decInit, .decStep, .decFeed, .decGrow, .decBuffer], exec i s = .next t →
    t.fault = none → t.cur = t.dec.cur) ∧
  ∀ s t : State, ready s →
    ∀ i ∈ [Instr.encInit, .encBase, .encTranslate, .pushLmd, .pushMatch, .backendMatch, .backendLiterals, .emitBlock,
      .encFinish], exec i s = .next t → t.fault = none →
      t.cur = { srcBegin := t.enc.srcLo, srcPos := t.cur.srcPos, srcEnd := t.cur.srcEnd,
                dstBegin := t.enc.dstBegin, dstPos := t.enc.dstPos, dstEnd := t.enc.dstEnd } ∧
      (∀ v : Nat, t.enc.srcBegin.toNat + t.enc.srcLiteral.toInt = v → v < 2 ^ 64 → t.cur.srcPos = BitVec.ofNat 64 v) ∧
      (t.enc.srcBegin.toNat + t.enc.srcLimit.toNat < 2 ^ 64 → t.cur.srcEnd = t.enc.srcBegin + t.enc.srcLimit)

/-- R35, R36, R31: a step takes the host's next move: a command word that decodes runs as that command, and the step is refused only
where the host breaks duty 2 of R317 by giving it (log entry 16); CMD holds the word, one that a held fault lets the core ignore too
(log entry 9); a register takes what is written to it and nothing else changes, a read-only one ignores it; with no move waiting
nothing happens (log entry 1). R70, R83: a byte placed where there is an index stands there and nothing else changes, unless it would
change one that a duty of R317 guards (log entry 16); beyond the space the step faults (log entry 17). -/
def Obligations.StepRunsDecoded : Prop :=
  (∀ (s : State) (w : U32) (r : List HostMove) (i : Instr), s.script = .cmd w :: r → decode w = .ok i →
    let s' := { s with script := r, cmd := w }
    (decoding s = false → step s = exec i s') ∧
    ((∀ t, exec i s' = .next t → overwritesProduced i s' t = false) → step s = exec i s') ∧
    ∀ t, exec i s' = .next t → overwritesProduced i s' t = true → step s = .refused (.hostDuty .producedBytes)) ∧
  (∀ (s : State) (w : U32) (i : Instr), decode w = .ok i →
    (∀ t, exec i { s with cmd := w } = .next t → overwritesProduced i { s with cmd := w } t = false) →
    step (s.withFetchWord 32 w.toNat) = exec i { s with cmd := w }) ∧
  (∀ s : State, s.script = [] → step s = .next s) ∧
  (∀ (s : State) (v : U64) (r : List HostMove), s.script = .reg .arg0 v :: r →
    step s = .next { s with script := r, arg0 := v }) ∧
  (∀ (s : State) (v : U64) (r : List HostMove) (p : PortReg), s.script = .reg p v :: r →
    p ∈ [.res0, .res1, .status, .fault, .faultInfo] → step s = .next { s with script := r }) ∧
  (∀ (s : State) (v : U64) (p : PortReg), p ∉ [.res0, .res1, .status, .fault, .faultInfo] → readReg p (writeReg p v s) = v) ∧
  (∀ (s : State) (v : U64) (r : List HostMove) (p : PortReg), s.script = .reg p v :: r →
    step s = .next (writeReg p v { s with script := r }) ∧
    (p ∉ [.res0, .res1, .status, .fault, .faultInfo] → ∃ t, step s = .next t ∧
      t = { s with script := r, arg0 := t.arg0, arg1 := t.arg1, arg2 := t.arg2, arg3 := t.arg3, cur := t.cur } ∧
      readReg p t = v ∧ ∀ q, q ≠ p → readReg q t = readReg q s)) ∧
  (∀ (s : State) (a : U64) (b : U8) (r : List HostMove), s.script = .srcByte a b :: r →
    (s.srcSize.toNat ≤ a.toNat → step s = .fault .noSuchSrcByte) ∧
    (a.toNat < s.srcSize.toNat → srcGuarded s a.toNat → readByte s.src a.toNat ≠ b → ∃ d, step s = .refused (.hostDuty d)) ∧
    (a.toNat < s.srcSize.toNat → ¬srcGuarded s a.toNat ∨ readByte s.src a.toNat = b → ∃ t, step s = .next t ∧
      t = { s with script := r, src := t.src } ∧ readByte t.src a.toNat = b ∧
      ∀ c, c ≠ a.toNat → readByte t.src c = readByte s.src c)) ∧
  ∀ (s : State) (a : U64) (b : U8) (r : List HostMove), s.script = .dstByte a b :: r →
    (s.dstSize.toNat ≤ a.toNat → step s = .fault .noSuchDstByte) ∧
    (a.toNat < s.dstSize.toNat → dstGuarded s a.toNat → readByte s.dst a.toNat ≠ b →
      step s = .refused (.hostDuty .producedBytes)) ∧
    (a.toNat < s.dstSize.toNat → ¬dstGuarded s a.toNat ∨ readByte s.dst a.toNat = b → ∃ t, step s = .next t ∧
      t = { s with script := r, dst := t.dst } ∧ readByte t.dst a.toNat = b ∧
      ∀ c, c ≠ a.toNat → readByte t.dst c = readByte s.dst c)

/-- R92, R93: words written out from the table: OUT_INIT, OUT_PUSH 3, IN_PULL.1 63, NORMALIZE.D, BUILD_DEC.LIT, FREQ_ENC,
DEC_STEP, ENC_BUFFER. -/
def Obligations.WordsFromTable : Prop :=
  decode 0b000000000000000_0000000_00_00010000 = .ok .outInit ∧
  decode 0b000000000000000_0000011_00_00010001 = .ok (.outPush 3) ∧
  decode 0b000000000000000_0111111_01_00011010 = .ok (.inPull .lmd 63) ∧
  decode 0b000000000000000_0000000_10_00100000 = .ok (.normalize .d) ∧
  decode 0b000000000000000_0000000_11_00100011 = .ok .buildDec ∧
  decode 0b000000000000000_0000000_00_00110000 = .ok .freqEnc ∧
  decode 0b000000000000000_0000000_00_01000001 = .ok .decStep ∧
  decode 0b000000000000000_0000000_00_01011111 = .ok .encBuffer

/-- R92, R93: decoding the word of a well-formed command gives the command, every operand at every value. -/
def Obligations.DecodeEncode : Prop := ∀ i : Instr, i.wf = true → decode (encode i) = .ok i

/-- R92, R93: a word that decodes is the word of the command it decodes to, and that command is well-formed. -/
def Obligations.EncodeDecode : Prop := ∀ (w : U32) (i : Instr), decode w = .ok i → encode i = w ∧ i.wf = true

/-- R95: the words that are no command, the array identifiers that name no array, and their faults; every other word is a
command. -/
def Obligations.RejectedWords : Prop :=
  (∀ (w : U32) (s : State), ready s → rsvOf w ≠ 0 ∨ opcOf w ∉ assignedOpcodes →
    runWord w s = .next (faulted .illegalCommand w.toNat s)) ∧
  (∀ (w : U32) (s : State), ready s → rsvOf w = 0 → opcOf w ∈ assignedOpcodes →
    ¬(selLegal (opcOf w) (selOf w) ∧ nLegal (opcOf w) (nOf w)) →
    runWord w s = .next (faulted .badOperand w.toNat s)) ∧
  (∀ s : State, ready s → (13 ≤ s.arg0.toNat ∧ s.arg0.toNat ≤ 15) ∨ 19 ≤ s.arg0.toNat →
    exec .storeArray s = .next (faulted .badOperand 0 s) ∧ exec .loadArray s = .next (faulted .badOperand 0 s)) ∧
  ∀ w : U32, rsvOf w = 0 → opcOf w ∈ assignedOpcodes → selLegal (opcOf w) (selOf w) → nLegal (opcOf w) (nOf w) →
    ∃ i, decode w = .ok i ∧ i.opcode = opcOf w

/-- R32, R283: a command that reads cursor registers which break the order faults BAD_CURSOR. Which register is the offending
one, and that a command checks only the trio it uses, is the model's reading (log entries 7 and 8). -/
def Obligations.CursorChecks : Prop :=
  ∀ s : State, ready s →
    (∀ i ∈ [Instr.outFlush, .outFinish], 0 ≤ s.out.nbits → ¬dstOk s →
      ∃ k ∈ [3, 4, 5], exec i s = .next (faulted .badCursor k s)) ∧
    (∀ i ∈ [Instr.hdrPack, .v1Store], ¬dstOk s → ∃ k ∈ [3, 4, 5], exec i s = .next (faulted .badCursor k s)) ∧
    (∀ i ∈ [Instr.hdrUnpack, .v1Load, .inInit .lit], ¬srcOk s →
      ∃ k ∈ [0, 1, 2], exec i s = .next (faulted .badCursor k s)) ∧
    (∀ i ∈ [Instr.decInit, .decBuffer, .encInit, .storeRaw, .encBuffer],
      (s.cur.srcPos.toNat < s.cur.srcBegin.toNat → exec i s = .next (faulted .badCursor 0 s)) ∧
      (s.cur.srcBegin.toNat ≤ s.cur.srcPos.toNat → s.cur.srcEnd.toNat < s.cur.srcPos.toNat →
        exec i s = .next (faulted .badCursor 1 s)) ∧
      (s.cur.srcBegin.toNat ≤ s.cur.srcPos.toNat → s.cur.srcPos.toNat ≤ s.cur.srcEnd.toNat →
        s.srcSize.toNat < s.cur.srcEnd.toNat → exec i s = .next (faulted .badCursor 2 s)) ∧
      (srcOk s → ¬dstOk s → ∃ k ∈ [3, 4, 5], exec i s = .next (faulted .badCursor k s)))

/-- R298, R299: STORE_ARRAY writes the one element it names and nothing else, and faults in the rule's order; LOAD_ARRAY reads
one element. -/
def Obligations.ArrayElementAccess : Prop :=
  ∀ s : State, ready s →
    (arrayOfId s.arg0.toNat = none →
      exec .storeArray s = .next (faulted .badOperand 0 s) ∧ exec .loadArray s = .next (faulted .badOperand 0 s)) ∧
    ∀ id, arrayOfId s.arg0.toNat = some id →
      (arrayLength id ≤ s.arg1.toNat → exec .loadArray s = .next (faulted .badOperand 1 s)) ∧
      (s.arg1.toNat < arrayLength id → exec .loadArray s =
        .next { s with res0 := BitVec.ofNat 64 (loadElement s id s.arg1.toNat), status := .ok }) ∧
      (compressedOpen s = true → (s.arg0 = 8 ∨ s.arg0 = 18) →
        exec .storeArray s = .next (faulted .resourceBusy 0x02 s)) ∧
      (¬(compressedOpen s = true ∧ (s.arg0 = 8 ∨ s.arg0 = 18)) →
        (arrayLength id ≤ s.arg1.toNat → exec .storeArray s = .next (faulted .badOperand 1 s)) ∧
        (s.arg1.toNat < arrayLength id → arrayLegal id s.arg2.toNat = false →
          exec .storeArray s = .next (faulted .badOperand 2 s)) ∧
        (s.arg1.toNat < arrayLength id → arrayLegal id s.arg2.toNat = true →
          ∃ t, exec .storeArray s = .next t ∧
            t = { s with
              occ := t.occ, freq := t.freq,
              dec := { s.dec with lits := t.dec.lits, nLits := t.dec.nLits },
              enc := { s.enc with lits := t.enc.lits, lValues := t.enc.lValues, mValues := t.enc.mValues,
                                  dValues := t.enc.dValues, nMatches := t.enc.nMatches, nLits := t.enc.nLits },
              status := .ok } ∧
            loadElement t id s.arg1.toNat = s.arg2.toNat ∧
            ∀ id' i, i < arrayLength id' → (id' ≠ id ∨ i ≠ s.arg1.toNat) → loadElement t id' i = loadElement s id' i))

/-! ## Bitstream accumulators -/

/-- R130, R132: OUT_INIT empties OUT; OUT_PUSH faults in the rule's order or appends its field above the bits held. -/
def Obligations.OutInitPushOutcomes : Prop :=
  ∀ s : State, ready s →
    exec .outInit s = .next { s with out := { accum := 0, nbits := 0 }, status := .ok } ∧
    ∀ n : Nat,
      (64 < n → exec (.outPush n) s = .next (faulted .badOperand s.cmd.toNat s)) ∧
      (n ≤ 64 → 2 ^ n ≤ s.arg0.toNat → exec (.outPush n) s = .next (faulted .badOperand 0 s)) ∧
      (n ≤ 64 → s.arg0.toNat < 2 ^ n → s.out.nbits < 0 → exec (.outPush n) s = .next (faulted .streamInvalid 0 s)) ∧
      (n ≤ 64 → s.arg0.toNat < 2 ^ n → 0 ≤ s.out.nbits → 64 < s.out.nbits + n →
        exec (.outPush n) s = .next (faulted .pushOverflow s.out.nbits.toNat s)) ∧
      (s.arg0.toNat < 2 ^ n → 0 ≤ s.out.nbits → s.out.nbits + n ≤ 64 → ∃ t,
        exec (.outPush n) s = .next t ∧
        t = { s with out := t.out, res0 := BitVec.ofInt 64 (s.out.nbits + n), status := .ok } ∧
        t.out.nbits = s.out.nbits + n ∧
        t.out.accum.toNat = s.out.accum.toNat ||| s.arg0.toNat * 2 ^ s.out.nbits.toNat)

/-- R134, R136: what OUT_FLUSH and OUT_FINISH write, and what they leave in OUT. -/
def Obligations.OutFlushFinishOutcomes : Prop :=
  ∀ s : State, ready s →
    (s.out.nbits < 0 → exec .outFlush s = .next (faulted .streamInvalid 0 s) ∧
      exec .outFinish s = .next (faulted .streamInvalid 0 s)) ∧
    (0 ≤ s.out.nbits → ¬dstOk s → (∃ k ∈ [3, 4, 5], exec .outFlush s = .next (faulted .badCursor k s)) ∧
      ∃ k ∈ [3, 4, 5], exec .outFinish s = .next (faulted .badCursor k s)) ∧
    (0 ≤ s.out.nbits → dstOk s →
      let p := s.cur.dstPos.toNat
      let n := s.out.nbits.toNat / 8
      let c := (s.out.nbits.toNat + 7) / 8
      (s.cur.dstEnd.toNat < p + n → exec .outFlush s = .next { s with status := .dstFull }) ∧
      (p + n ≤ s.cur.dstEnd.toNat → ∃ t, exec .outFlush s = .next t ∧
        t = { s with
          dst := t.dst, freeTag := t.freeTag, cur := { s.cur with dstPos := BitVec.ofNat 64 (p + n) },
          out := { accum := s.out.accum >>> (8 * n), nbits := s.out.nbits - 8 * n },
          res0 := BitVec.ofNat 64 n, status := .ok } ∧
        bytesAt t.dst p (leBytes n s.out.accum.toNat) ∧ sameOutside p s.cur.dstEnd.toNat s.dst t.dst) ∧
      (s.cur.dstEnd.toNat < p + c → exec .outFinish s = .next { s with status := .dstFull }) ∧
      (p + c ≤ s.cur.dstEnd.toNat → ∃ t, exec .outFinish s = .next t ∧
        t = { s with
          dst := t.dst, freeTag := t.freeTag, cur := { s.cur with dstPos := BitVec.ofNat 64 (p + c) },
          out := { accum := 0, nbits := s.out.nbits - 8 * c },
          res0 := BitVec.ofInt 64 (s.out.nbits - 8 * c), status := .ok } ∧
        bytesAt t.dst p (leBytes c s.out.accum.toNat) ∧ sameOutside p s.cur.dstEnd.toNat s.dst t.dst))

/-- R139: every outcome of IN_INIT. -/
def Obligations.InInitOutcomes : Prop :=
  ∀ (sel : InSel) (s : State), ready s →
    (sel = .lmd → compressedOpen s = true → exec (.inInit sel) s = .next (faulted .resourceBusy 0x18 s)) ∧
    (sel = .lit ∨ compressedOpen s = false →
      let n := s.arg0.toInt
      let stop := s.arg1.toNat
      let lo := s.arg2.toNat
      let c := if n = 0 then 7 else 8
      let b := if n = 0 then 56 else (64 + n).toNat
      let v := memRead s.src (stop - c) c
      let x := s.inAcc sel
      let inRegion := s.cur.srcBegin.toNat ≤ lo ∧ lo ≤ stop ∧ stop ≤ s.cur.srcEnd.toNat
      (¬srcOk s → ∃ k ∈ [0, 1, 2], exec (.inInit sel) s = .next (faulted .badCursor k s)) ∧
      (srcOk s → ¬inRegion → exec (.inInit sel) s = .next (faulted .badOperand 2 s)) ∧
      (srcOk s → inRegion → (n < -7 ∨ 0 < n ∨ stop < lo + c) →
        exec (.inInit sel) s = .next { s.withInAcc sel { x with valid := false } with status := .error }) ∧
      (srcOk s → inRegion → -7 ≤ n → n ≤ 0 → lo + c ≤ stop → 2 ^ b ≤ v →
        exec (.inInit sel) s = .next
          { s.withInAcc sel ⟨BitVec.ofNat 64 v, b, BitVec.ofNat 64 (stop - c), x.lo, false⟩ with status := .error }) ∧
      (srcOk s → inRegion → -7 ≤ n → n ≤ 0 → lo + c ≤ stop → v < 2 ^ b →
        exec (.inInit sel) s = .next
          { s.withInAcc sel ⟨BitVec.ofNat 64 v, b, BitVec.ofNat 64 (stop - c), s.arg2, true⟩ with
            res0 := BitVec.ofNat 64 b, status := .ok }))

/-- R141, R143: every outcome of IN_FLUSH and IN_PULL. That IN_FLUSH never faults BUFFER_BOUNDS, wherever the SRC cursor registers
stand, is the model's choice between R141 and R284 (log entry 26). -/
def Obligations.InFlushPullOutcomes : Prop :=
  ∀ (sel : InSel) (s : State), ready s →
    (sel = .lmd → compressedOpen s = true → exec (.inFlush sel) s = .next (faulted .resourceBusy 0x19 s) ∧
      ∀ n, exec (.inPull sel n) s = .next (faulted .resourceBusy 0x1A s)) ∧
    (sel = .lit ∨ compressedOpen s = false →
      let x := s.inAcc sel
      let c := (63 - x.nbits) / 8
      (x.valid = false → exec (.inFlush sel) s = .next (faulted .streamInvalid 0 s) ∧
        ∀ n, exec (.inPull sel n) s = .next (faulted .streamInvalid 0 s)) ∧
      (x.valid = true → x.pos.toNat < x.lo.toNat + c →
        exec (.inFlush sel) s = .next { s with status := .error }) ∧
      (x.valid = true → inSound x → x.lo.toNat + c ≤ x.pos.toNat → ∃ y, exec (.inFlush sel) s =
          .next { s.withInAcc sel y with res0 := BitVec.ofNat 64 y.nbits, status := .ok } ∧
        y.nbits = x.nbits + 8 * c ∧ 56 ≤ y.nbits ∧ y.nbits ≤ 63 ∧ y.pos.toNat = x.pos.toNat - c ∧ y.lo = x.lo ∧
        y.valid = true ∧
        y.accum.toNat = x.accum.toNat * 2 ^ (8 * c) + memRead s.src (x.pos.toNat - c) c) ∧
      ∀ n, (x.valid = true → x.nbits < n → exec (.inPull sel n) s = .next (faulted .pullUnderflow x.nbits s)) ∧
        (x.valid = true → n ≤ x.nbits → exec (.inPull sel n) s =
          .next { s.withInAcc sel { x with nbits := x.nbits - n, accum := x.accum &&& BitVec.ofNat 64 (2 ^ (x.nbits - n) - 1) }
            with res0 := x.accum >>> (x.nbits - n), status := .ok }))

/-- R131, R144: fields of at most 56 bits pushed in order, flushed and finished, are pulled back in the reverse order from
the bytes written, wherever they stand in SRC behind at least 8 readable bytes. -/
def Obligations.BitstreamRoundTrip : Prop :=
  ∀ fs : List (Nat × Nat), (∀ f ∈ fs, f.1 ≤ 56 ∧ f.2 < 2 ^ f.1) →
    ∃ p, writeFields fs { bytes := [], out := { accum := 0, nbits := 0 } } = .ok p ∧
      ∀ (m : Memory) (x : InAcc) (a lo : Nat), lo + 8 ≤ a → a + (finishPayload p).bytes.length < 2 ^ 64 →
        bytesAt m a (finishPayload p).bytes →
        ∃ y, inInit m x (finishPayload p).out.nbits (a + (finishPayload p).bytes.length) lo = (true, y) ∧
          readFields m (fs.reverse.map Prod.fst) y = some (fs.reverse.map Prod.snd)

/-! ## Tables -/

/-- R153, and R150's rounding where no REDUCE is needed: NORMALIZE gives frequencies that sum to the state count, at least 1
for every used symbol and 0 for every other; a total of 2^32 or more faults. -/
def Obligations.NormalizeSumsToStates : Prop :=
  ∀ (sel : Sel) (s : State), ready s →
    (2 ^ 32 ≤ occTotal s sel → exec (.normalize sel) s = .next (faulted .normalizeInput (occTotal s sel) s)) ∧
    (occTotal s sel < 2 ^ 32 → ∃ t, exec (.normalize sel) s = .next t ∧
      t = { s with freq := s.freq.put sel (t.freq.get sel), res0 := t.res0, status := .ok } ∧
      freqTotal t sel = nstates sel ∧
      (∀ i, i < nsym sel → (occAt s sel i ≠ 0 → 1 ≤ freqAt t sel i) ∧
        (occAt s sel i = 0 → freqAt t sel i ≠ 0 → occTotal s sel = 0 ∧ i = 0)) ∧
      ∀ k, k < nsym sel →
        let f := fun i => roundedFreq (nstates sel) (occTotal s sel) (occAt s sel i)
        (∀ i, i < nsym sel → f i ≤ f k) → (∀ i, i < k → f i < f k) →
          t.res0 = BitVec.ofNat 64 k ∧
          (roundedBefore s sel (nsym sel) < nstates sel + f k / 4 →
            freqAt t sel k + roundedBefore s sel (nsym sel) = f k + nstates sel ∧
            ∀ i, i < nsym sel → i ≠ k → freqAt t sel i = f i))

/-- R154, R187: the two checks change nothing but RES0 and STATUS. -/
def Obligations.FrequencyAndHeaderChecks : Prop :=
  ∀ s : State, ready s →
    (∀ sel, exec (.checkFreq sel) s = .next { s with
      res0 := BitVec.ofNat 64 (freqTotal s sel),
      status := if freqTotal s sel ≤ nstates sel then .ok else .error }) ∧
    ∃ m, m < 2 ^ 17 ∧
      exec .hdrCheck s = .next { s with res0 := BitVec.ofNat 64 m, status := if m = 0 then .ok else .error } ∧
      ∀ b, b < 17 → (m.testBit b = true ↔ ¬headerPasses s b)

/-- R155: the encoder table. -/
def Obligations.BuildEncEntries : Prop :=
  ∀ (sel : Sel) (s : State), ready s →
    (nstates sel < freqTotal s sel → exec (.buildEnc sel) s = .next (faulted .freqRange (freqTotal s sel) s)) ∧
    (freqTotal s sel ≤ nstates sel → ∃ t, exec (.buildEnc sel) s = .next t ∧
      t = { s with encTab := s.encTab.put sel (t.encTab.get sel), status := .ok } ∧
      ∀ i, i < nsym sel →
        let f := freqAt s sel i
        let off : Int := freqBefore s sel i
        (f = 0 → sparseFind (t.encTab.get sel) i = none) ∧
        (f ≠ 0 → ∃ e, sparseFind (t.encTab.get sel) i = some e ∧
          ∃ k : Nat, nstates sel ≤ f * 2 ^ k ∧ f * 2 ^ k < 2 * nstates sel ∧ e.k.toInt = k ∧
            e.s0.toInt = (f * 2 ^ k : Nat) - nstates sel ∧
            e.delta0.toInt = off - f + (nstates sel / 2 ^ k : Nat) ∧
            e.delta1.toInt = if 1 ≤ k then off - f + (nstates sel / 2 ^ (k - 1) : Nat) else 0))

/-- R157: the literal decoder table. -/
def Obligations.BuildDecEntries : Prop :=
  ∀ s : State, ready s →
    (1024 < freqTotal s .lit → ∃ t, exec .buildDec s = .next t ∧
      t = { s with decTab := t.decTab, status := .error } ∧ ∀ x, sparseFind t.decTab x = none) ∧
    (freqTotal s .lit ≤ 1024 → ∃ t, exec .buildDec s = .next t ∧ t = { s with decTab := t.decTab, status := .ok } ∧
      (∀ i k j, i < 256 → 1024 ≤ freqAt s .lit i * 2 ^ k → freqAt s .lit i * 2 ^ k < 2048 → j < freqAt s .lit i →
        sparseFind t.decTab (freqBefore s .lit i + j) = some
          { k := BitVec.ofNat 8 (stateForm 1024 (freqAt s .lit i) k j).1, symbol := BitVec.ofNat 8 i,
            delta := BitVec.ofNat 16 (stateForm 1024 (freqAt s .lit i) k j).2 }) ∧
      ∀ x, freqTotal s .lit ≤ x → sparseFind t.decTab x = none)

/-- R159: the value-decoder tables. -/
def Obligations.BuildVdecEntries : Prop :=
  ∀ (sel : VSel) (s : State), ready s →
    let n := nstates (streamOf sel)
    let f := freqAt s (streamOf sel)
    (compressedOpen s = true → exec (.buildVdec sel) s = .next (faulted .resourceBusy 0x24 s)) ∧
    (compressedOpen s = false → n < freqTotal s (streamOf sel) → ∃ t, exec (.buildVdec sel) s = .next t ∧
      t = { s with vdecTab := s.vdecTab.put sel (t.vdecTab.get sel), status := .error } ∧
      ∀ x, sparseFind (t.vdecTab.get sel) x = none) ∧
    (compressedOpen s = false → freqTotal s (streamOf sel) ≤ n → ∃ t, exec (.buildVdec sel) s = .next t ∧
      t = { s with vdecTab := s.vdecTab.put sel (t.vdecTab.get sel), status := .ok } ∧
      (∀ i k j, i < nsym (streamOf sel) → n ≤ f i * 2 ^ k → f i * 2 ^ k < 2 * n → j < f i →
        sparseFind (t.vdecTab.get sel) (freqBefore s (streamOf sel) i + j) = some
          { totalBits := BitVec.ofNat 8 ((stateForm n (f i) k j).1 + (vbits sel).getD i 0),
            valueBits := BitVec.ofNat 8 ((vbits sel).getD i 0),
            delta := BitVec.ofNat 16 (stateForm n (f i) k j).2,
            valueBase := BitVec.ofNat 32 ((vbase sel).getD i 0) }) ∧
      ∀ x, freqTotal s (streamOf sel) ≤ x → sparseFind (t.vdecTab.get sel) x = none)

/-- R161, R105: SYMBOL_OF_VALUE. -/
def Obligations.SymbolOfValueResult : Prop :=
  ∀ (sel : VSel) (s : State), ready s →
    (maxValue sel < s.arg0.toNat → exec (.symbolOfValue sel) s = .next (faulted .badOperand 0 s)) ∧
    (s.arg0.toNat ≤ maxValue sel → ∃ x, x < nsym (streamOf sel) ∧ (vbase sel).getD x 0 ≤ s.arg0.toNat ∧
      (∀ y, x < y → y < nsym (streamOf sel) → s.arg0.toNat < (vbase sel).getD y 0) ∧
      s.arg0.toNat - (vbase sel).getD x 0 < 2 ^ (vbits sel).getD x 0 ∧
      exec (.symbolOfValue sel) s = .next { s with
        res0 := BitVec.ofNat 64 x, res1 := BitVec.ofNat 64 (s.arg0.toNat - (vbase sel).getD x 0), status := .ok })

/-! ## The codec -/

/-- R170: FSE_ENCODE. -/
def Obligations.FseEncodeResult : Prop :=
  ∀ (sel : Sel) (s : State), ready s →
    let st := s.arg0.toNat
    let i := s.arg1.toNat
    (nstates sel ≤ st → exec (.fseEncode sel) s = .next (faulted .badOperand 0 s)) ∧
    (st < nstates sel → nsym sel ≤ i → exec (.fseEncode sel) s = .next (faulted .badOperand 1 s)) ∧
    (st < nstates sel → i < nsym sel → sparseFind (s.encTab.get sel) i = none →
      exec (.fseEncode sel) s = .next (faulted .emptyEntry i s)) ∧
    ∀ e, st < nstates sel → i < nsym sel → sparseFind (s.encTab.get sel) i = some e →
      let nb := (if e.s0.toInt ≤ st then e.k.toInt else e.k.toInt - 1).toNat
      let delta := if e.s0.toInt ≤ st then e.delta0.toInt else e.delta1.toInt
      (s.out.nbits < 0 → exec (.fseEncode sel) s = .next (faulted .streamInvalid 0 s)) ∧
      (0 ≤ s.out.nbits → 64 < s.out.nbits + nb →
        exec (.fseEncode sel) s = .next (faulted .pushOverflow s.out.nbits.toNat s)) ∧
      (0 ≤ s.out.nbits → s.out.nbits + nb ≤ 64 → exec (.fseEncode sel) s = .next { s with
        out := { accum := s.out.accum ||| BitVec.ofNat 64 (st % 2 ^ nb * 2 ^ s.out.nbits.toNat),
                 nbits := s.out.nbits + nb },
        res0 := BitVec.ofInt 64 (delta + (st / 2 ^ nb : Nat)), res1 := BitVec.ofNat 64 nb, status := .ok })

/-- R172, R174: FSE_DECODE and FSE_VDECODE. -/
def Obligations.FseDecodeResults : Prop :=
  (∀ s : State, ready s →
    let x := s.arg0.toNat
    (1024 ≤ x → exec .fseDecode s = .next (faulted .badOperand 0 s)) ∧
    (x < 1024 → sparseFind s.decTab x = none → exec .fseDecode s = .next (faulted .emptyEntry x s)) ∧
    ∀ e, x < 1024 → sparseFind s.decTab x = some e →
      (s.in0.valid = false → exec .fseDecode s = .next (faulted .streamInvalid 0 s)) ∧
      (s.in0.valid = true → s.in0.nbits < e.k.toNat →
        exec .fseDecode s = .next (faulted .pullUnderflow s.in0.nbits s)) ∧
      (s.in0.valid = true → e.k.toNat ≤ s.in0.nbits →
        let r := s.in0.nbits - e.k.toNat
        exec .fseDecode s = .next { s with
          in0 := { s.in0 with nbits := r, accum := BitVec.ofNat 64 (s.in0.accum.toNat % 2 ^ r) },
          res0 := BitVec.ofInt 64 (e.delta.toInt + (s.in0.accum.toNat / 2 ^ r : Nat)),
          res1 := BitVec.ofNat 64 e.symbol.toNat, status := .ok })) ∧
  ∀ (sel : VSel) (s : State), ready s →
    let x := s.arg0.toNat
    (compressedOpen s = true → exec (.fseVdecode sel) s = .next (faulted .resourceBusy 0x2A s)) ∧
    (compressedOpen s = false →
      (nstates (streamOf sel) ≤ x → exec (.fseVdecode sel) s = .next (faulted .badOperand 0 s)) ∧
      (x < nstates (streamOf sel) → sparseFind (s.vdecTab.get sel) x = none →
        exec (.fseVdecode sel) s = .next (faulted .emptyEntry x s)) ∧
      ∀ e, x < nstates (streamOf sel) → sparseFind (s.vdecTab.get sel) x = some e →
        (s.in1.valid = false → exec (.fseVdecode sel) s = .next (faulted .streamInvalid 0 s)) ∧
        (s.in1.valid = true → s.in1.nbits < e.totalBits.toNat →
          exec (.fseVdecode sel) s = .next (faulted .pullUnderflow s.in1.nbits s)) ∧
        (s.in1.valid = true → e.totalBits.toNat ≤ s.in1.nbits →
          let r := s.in1.nbits - e.totalBits.toNat
          let v := s.in1.accum.toNat / 2 ^ r
          exec (.fseVdecode sel) s = .next { s with
            in1 := { s.in1 with nbits := r, accum := BitVec.ofNat 64 (s.in1.accum.toNat % 2 ^ r) },
            res0 := BitVec.ofInt 64 (e.delta.toInt + (v / 2 ^ e.valueBits.toNat : Nat)),
            res1 := BitVec.ofInt 64 (e.valueBase.toInt + (v % 2 ^ e.valueBits.toNat : Nat)), status := .ok }))

/-- R176, R156, R158: one literal. From tables built of the same valid frequencies, encoding symbol i in state st lands in
one of i's states, and decoding there from the bits pushed gives i back and the state st. -/
def Obligations.LiteralDecodeInvertsEncode : Prop :=
  ∀ (s e d : State), ready s → freqTotal s .lit ≤ 1024 → exec (.buildEnc .lit) s = .next e → exec .buildDec s = .next d →
    ∀ (i st : Nat) (o : OutAcc), i < 256 → freqAt s .lit i ≠ 0 → st < 1024 → outSound o → 0 ≤ o.nbits → o.nbits ≤ 54 →
      ∃ o' next nb, fseEncode (e.encTab.get .lit) o st i = .ok (o', (next : Nat), nb) ∧
        freqBefore s .lit i ≤ next ∧ next < freqBefore s .lit i + freqAt s .lit i ∧
        o'.nbits = o.nbits + nb ∧ o'.accum.toNat = o.accum.toNat + st % 2 ^ nb * 2 ^ o.nbits.toNat ∧
        ∀ x y, inPull x nb = .ok (st % 2 ^ nb, y) → fseDecode d.decTab x next = .ok ((st : Int), i, y)

/-- R176, R160: one value of the L, M or D stream, its extra bits pushed before its symbol code (R107). -/
def Obligations.ValueDecodeInvertsEncode : Prop :=
  ∀ (sel : VSel) (s e d : State), ready s → compressedOpen s = false →
    freqTotal s (streamOf sel) ≤ nstates (streamOf sel) →
    exec (.buildEnc (streamOf sel)) s = .next e → exec (.buildVdec sel) s = .next d →
    ∀ (v x b st : Nat) (o : OutAcc), symbolOfValue sel v = .ok (x, b) → freqAt s (streamOf sel) x ≠ 0 →
      st < nstates (streamOf sel) → outSound o → 0 ≤ o.nbits → o.nbits ≤ 41 →
      ∃ o' next nb, encodeValue sel (e.encTab.get (streamOf sel)) o st (x, b) = .ok (o', next) ∧
        next < nstates (streamOf sel) ∧
        let w := nb + (vbits sel).getD x 0
        let field := st % 2 ^ nb * 2 ^ (vbits sel).getD x 0 + b
        o'.nbits = o.nbits + w ∧ o'.accum.toNat = o.accum.toNat + field * 2 ^ o.nbits.toNat ∧
        ∀ a y, inPull a w = .ok (field, y) → fseVdecode (d.vdecTab.get sel) a next = .ok ((st : Int), (v : Int), y)

/-! ## Headers -/

/-- R180, R181, R101, R103: the frequency code, and that every window decodes to the one value whose code word it starts
with. -/
def Obligations.FrequencyCodes : Prop :=
  ∀ s : State, ready s →
    (1047 < s.arg0.toNat → exec .freqEnc s = .next (faulted .badOperand 0 s)) ∧
    (s.arg0.toNat ≤ 1047 → exec .freqEnc s = .next { s with
      res0 := BitVec.ofNat 64 (codeOf s.arg0.toNat).1, res1 := BitVec.ofNat 64 (codeOf s.arg0.toNat).2, status := .ok }) ∧
    ∃ v, v ≤ 1047 ∧ s.arg0.toNat % 2 ^ (codeOf v).2 = (codeOf v).1 ∧
      (∀ u, u ≤ 1047 → s.arg0.toNat % 2 ^ (codeOf u).2 = (codeOf u).1 → u = v) ∧
      exec .freqDec s = .next { s with
        res0 := BitVec.ofNat 64 v, res1 := BitVec.ofNat 64 (codeOf v).2, status := .ok }

/-- R183, R184: every outcome of HDR_PACK. -/
def Obligations.HeaderPackOutcomes : Prop :=
  ∀ s : State, ready s →
    (¬dstOk s → ∃ k ∈ [3, 4, 5], exec .hdrPack s = .next (faulted .badCursor k s)) ∧
    (dstOk s →
      (∀ id, id < 376 → ¬fieldFits s id → (∀ j, j < id → fieldFits s j) →
        exec .hdrPack s = .next (faulted .fieldOverflow id s)) ∧
      ((∀ id, fieldFits s id) →
        let p := s.cur.dstPos.toNat
        let hs := headerSizeOf s
        (s.cur.dstEnd.toNat < p + hs → exec .hdrPack s = .next { s with status := .dstFull }) ∧
        (p + hs ≤ s.cur.dstEnd.toNat → 122 ≤ hs ∧ hs ≤ 662 ∧ ∃ t, exec .hdrPack s = .next t ∧
          t = { s with
            dst := t.dst, freeTag := t.freeTag, hdrSize := BitVec.ofNat 32 hs,
            cur := { s.cur with dstPos := BitVec.ofNat 64 (p + hs) }, res0 := BitVec.ofNat 64 hs, status := .ok } ∧
          packedAt t.dst p s.hdr hs ∧ bytesAt t.dst (p + 32) (leBytes (hs - 32) (freqRegionOf s).1) ∧
          sameOutside p s.cur.dstEnd.toNat s.dst t.dst)))

/-- R185: every outcome of HDR_UNPACK. -/
def Obligations.HeaderUnpackOutcomes : Prop :=
  ∀ s : State, ready s →
    (¬srcOk s → ∃ k ∈ [0, 1, 2], exec .hdrUnpack s = .next (faulted .badCursor k s)) ∧
    (srcOk s →
      let p := s.cur.srcPos.toNat
      let hs := field (memRead s.src (p + 24) 8) 0 32
      (s.cur.srcEnd.toNat < p + 32 ∨ s.cur.srcEnd.toNat < p + hs →
        exec .hdrUnpack s = .next { s with status := .srcEmpty }) ∧
      (p + 32 ≤ s.cur.srcEnd.toNat → p + hs ≤ s.cur.srcEnd.toNat → (hs < 32 ∨ ¬∃ f, regionCodes s.src p hs f) →
        exec .hdrUnpack s = .next { s with status := .error }) ∧
      ∀ f, p + 32 ≤ s.cur.srcEnd.toNat → p + hs ≤ s.cur.srcEnd.toNat → 32 ≤ hs → regionCodes s.src p hs f →
        ∃ t, exec .hdrUnpack s = .next t ∧
          t = { s with
            hdr := t.hdr, freq := t.freq, hdrSize := BitVec.ofNat 32 hs,
            cur := { s.cur with srcPos := BitVec.ofNat 64 (p + hs) }, res0 := BitVec.ofNat 64 hs, status := .ok } ∧
          unpackedAt s.src p t.hdr ∧ concatFreqs t = f)

/-- R186: the header round trip. -/
def Obligations.HeaderRoundTrip : Prop :=
  ∀ s t u : State, ready s → exec .hdrPack s = .next t → t.status = .ok → ready u → srcOk u →
    u.cur.srcPos.toNat + headerSizeOf s ≤ u.cur.srcEnd.toNat →
    (∀ k, k < headerSizeOf s → readByte u.src (u.cur.srcPos.toNat + k) = readByte t.dst (s.cur.dstPos.toNat + k)) →
    ∃ v, exec .hdrUnpack u = .next v ∧ v.status = .ok ∧
      v.hdr = { s.hdr with
        magic := 0x31787662, nPayloadBytes := s.hdr.nLiteralPayloadBytes + s.hdr.nLmdPayloadBytes } ∧
      concatFreqs v = concatFreqs s ∧ v.cur.srcPos.toNat = u.cur.srcPos.toNat + headerSizeOf s

/-- R189, R190: V1_LOAD and V1_STORE. V1_STORE's FIELD_OVERFLOW cannot occur (R190). -/
def Obligations.VerboseHeaderImage : Prop :=
  ∀ s : State, ready s →
    (¬srcOk s → ∃ k ∈ [0, 1, 2], exec .v1Load s = .next (faulted .badCursor k s)) ∧
    (srcOk s →
      (s.cur.srcEnd.toNat < s.cur.srcPos.toNat + 772 → exec .v1Load s = .next { s with status := .srcEmpty }) ∧
      (s.cur.srcPos.toNat + 772 ≤ s.cur.srcEnd.toNat → ∃ t, exec .v1Load s = .next t ∧
        t = { s with
          hdr := t.hdr, freq := t.freq, hdrSize := 772,
          cur := { s.cur with srcPos := BitVec.ofNat 64 (s.cur.srcPos.toNat + 772) }, res0 := 772, status := .ok } ∧
        verboseAt s.src s.cur.srcPos.toNat t.hdr (concatFreq t))) ∧
    (¬dstOk s → ∃ k ∈ [3, 4, 5], exec .v1Store s = .next (faulted .badCursor k s)) ∧
    (dstOk s →
      let p := s.cur.dstPos.toNat
      (s.cur.dstEnd.toNat < p + 772 → exec .v1Store s = .next { s with status := .dstFull }) ∧
      (p + 772 ≤ s.cur.dstEnd.toNat → ∃ t, exec .v1Store s = .next t ∧
        t = { s with
          dst := t.dst, freeTag := t.freeTag, cur := { s.cur with dstPos := BitVec.ofNat 64 (p + 772) },
          res0 := 772, status := .ok } ∧
        verboseAt t.dst p { s.hdr with magic := 0x31787662 } (concatFreq s) ∧
        readByte t.dst (p + 770) = 0 ∧ readByte t.dst (p + 771) = 0 ∧
        sameOutside p s.cur.dstEnd.toNat s.dst t.dst))

/-! ## The decoder engine -/

/-- R200: DEC_INIT. -/
def Obligations.DecInitFreshContext : Prop :=
  ∀ s : State, ready s →
    (¬srcOk s → ∃ k ∈ [0, 1, 2], exec .decInit s = .next (faulted .badCursor k s)) ∧
    (srcOk s → ¬dstOk s → ∃ k ∈ [3, 4, 5], exec .decInit s = .next (faulted .badCursor k s)) ∧
    (srcOk s → dstOk s → ∃ t, exec .decInit s = .next t ∧
      t = { s with dec := t.dec, in1 := t.in1, cur := t.dec.cur, res0 := 0, res1 := 0, status := .ok } ∧
      t.dec.cur = { srcBegin := s.cur.srcPos, srcPos := s.cur.srcPos, srcEnd := s.cur.srcEnd,
                    dstBegin := s.cur.dstPos, dstPos := s.cur.dstPos, dstEnd := s.cur.dstEnd } ∧
      t.dec.block = .noBlock ∧ t.dec.endOfStream = false ∧ t.dec.poisoned = false ∧ t.dec.rawRemaining = 0 ∧
      t.dec.vnRaw = 0 ∧ t.dec.vnPayload = 0 ∧ t.dec.vnDprev = 0 ∧ t.dec.nMatches = 0 ∧ t.dec.nLmdPayloadBytes = 0 ∧
      (∀ i, litAt t.dec.lits i = 0) ∧ t.dec.nLits = 0 ∧ t.dec.litPos = 0 ∧ t.dec.pendL = 0 ∧ t.dec.pendM = 0 ∧
      t.dec.curD.toInt = -1 ∧ t.dec.lState = 0 ∧ t.dec.mState = 0 ∧ t.dec.dState = 0 ∧ t.dec.lmdLo = 0 ∧
      t.in1.valid = false)

/-- R216, R217: DEC_FEED and DEC_GROW. That the new end must also lie in the space is the model's reading of R32 (log
entry 8). -/
def Obligations.DecFeedGrowEnds : Prop :=
  ∀ s : State, ready s →
    (s.dec.poisoned = true → exec .decFeed s = .next (faulted .contextPoisoned 0 s) ∧
      exec .decGrow s = .next (faulted .contextPoisoned 0 s)) ∧
    (s.dec.poisoned = false →
      (s.cur.srcEnd.toNat < s.dec.cur.srcEnd.toNat ∨ s.srcSize.toNat < s.cur.srcEnd.toNat →
        exec .decFeed s = .next (faulted .badCursor 2 s)) ∧
      (s.cur.dstEnd.toNat < s.dec.cur.dstEnd.toNat ∨ s.dstSize.toNat < s.cur.dstEnd.toNat →
        exec .decGrow s = .next (faulted .badCursor 5 s)) ∧
      (s.dec.cur.srcEnd.toNat ≤ s.cur.srcEnd.toNat → s.cur.srcEnd.toNat ≤ s.srcSize.toNat →
        exec .decFeed s = .next { s with
          dec := { s.dec with cur := { s.dec.cur with srcEnd := s.cur.srcEnd } },
          cur := { s.dec.cur with srcEnd := s.cur.srcEnd }, status := .ok }) ∧
      (s.dec.cur.dstEnd.toNat ≤ s.cur.dstEnd.toNat → s.cur.dstEnd.toNat ≤ s.dstSize.toNat →
        exec .decGrow s = .next { s with
          dec := { s.dec with cur := { s.dec.cur with dstEnd := s.cur.dstEnd } },
          cur := { s.dec.cur with dstEnd := s.cur.dstEnd }, status := .ok }))

/-- R201, R215: DEC_STEP always ends, with one of four statuses; OK exactly when the stream has ended, ERROR exactly when the
context is poisoned; the cursors and the counts are the context's; nothing else changes but what R63 and R79 name. That RES0 and
RES1 are the counts also after the end of the stream is R201's pseudocode and V-D2 against the text of D32 (log entry 12). -/
def Obligations.DecStepEnds : Prop :=
  ∀ s : State, ready s → s.dec.poisoned = false → ∃ t, exec .decStep s = .next t ∧
    t = { s with
      status := t.status, res0 := t.dec.cur.dstPos - t.dec.cur.dstBegin, res1 := t.dec.cur.srcPos - t.dec.cur.srcBegin,
      cur := t.dec.cur, in0 := t.in0, in1 := t.in1, freq := t.freq, decTab := t.decTab, vdecTab := t.vdecTab,
      hdr := t.hdr, hdrSize := t.hdrSize, dec := t.dec, dst := t.dst, freeTag := t.freeTag } ∧
    t.status ∈ [.ok, .srcEmpty, .dstFull, .error] ∧
    (t.status = .ok ↔ t.dec.endOfStream = true) ∧ (t.status = .error ↔ t.dec.poisoned = true) ∧
    t.dec.cur.srcBegin = s.dec.cur.srcBegin ∧ t.dec.cur.srcEnd = s.dec.cur.srcEnd ∧
    t.dec.cur.dstBegin = s.dec.cur.dstBegin ∧ t.dec.cur.dstEnd = s.dec.cur.dstEnd ∧
    s.dec.cur.srcPos.toNat ≤ t.dec.cur.srcPos.toNat ∧ s.dec.cur.dstPos.toNat ≤ t.dec.cur.dstPos.toNat ∧
    sameOutside s.dec.cur.dstPos.toNat s.dec.cur.dstEnd.toNat s.dst t.dst

/-- R203 to R210, R214: what DEC_STEP does next, in each kind of block. Where it ends, its status and the decoder context; where it
goes on, the state from which it goes on, as an equation between two DEC_STEPs. Between blocks: the magics, a header that is not
whole, an unknown magic, a compressed block opened. In an uncompressed block: what it copies, SRC_EMPTY before DST_FULL. In an
open compressed block: the pending or the next triplet. In a secondary block: the agent's answer (log entry 6). -/
def Obligations.DecStepBlocks : Prop :=
  ∀ s : State, ready s → s.dec.poisoned = false → s.dec.endOfStream = false →
    (s.dec.block = .noBlock →
      let p := s.dec.cur.srcPos.toNat
      let lim := s.dec.cur.srcEnd.toNat
      let magic := memRead s.src p 4
      (lim < p + 4 → decEnds s .srcEmpty s.dec) ∧
      (p + 4 ≤ lim →
        (magic = 0x24787662 → decEnds s .ok { s.dec with
          endOfStream := true, cur := { s.dec.cur with srcPos := BitVec.ofNat 64 (p + 4) } }) ∧
        (magic ∉ [0x24787662, 0x2D787662, 0x31787662, 0x32787662, 0x6E787662] →
          decEnds s .error { s.dec with poisoned := true }) ∧
        (magic = 0x2D787662 → (lim < p + 8 → decEnds s .srcEmpty s.dec) ∧
          (p + 8 ≤ lim → exec .decStep s = exec .decStep { s with dec := { s.dec with
            block := .raw, rawRemaining := BitVec.ofNat 32 (memRead s.src (p + 4) 4),
            cur := { s.dec.cur with srcPos := BitVec.ofNat 64 (p + 8) } } })) ∧
        (magic = 0x6E787662 → (lim < p + 12 → decEnds s .srcEmpty s.dec) ∧
          (p + 12 ≤ lim → exec .decStep s = exec .decStep { s with dec := { s.dec with
            block := .vn, vnRaw := BitVec.ofNat 32 (memRead s.src (p + 4) 4),
            vnPayload := BitVec.ofNat 32 (memRead s.src (p + 8) 4), vnDprev := 0,
            cur := { s.dec.cur with srcPos := BitVec.ofNat 64 (p + 12) } } })) ∧
        (magic = 0x31787662 → opensBlock .v1
          (if lim < p + 772 then .srcEmpty else .ok (v1Fields s.src p) (v1Freqs s.src p) 772) s) ∧
        (magic = 0x32787662 → opensBlock .v2 (unpackHeader s.src p lim) s))) ∧
    (s.dec.block = .raw →
      let n := s.dec.rawRemaining.toNat
      let a := s.dec.cur.srcEnd.toNat - s.dec.cur.srcPos.toNat
      let r := s.dec.cur.dstEnd.toNat - s.dec.cur.dstPos.toNat
      let c := min n (min a r)
      let after : DecCtx := { s.dec with
        rawRemaining := BitVec.ofNat 32 (n - c),
        cur := { s.dec.cur with srcPos := s.dec.cur.srcPos + BitVec.ofNat 64 c,
                                dstPos := s.dec.cur.dstPos + BitVec.ofNat 64 c } }
      (c < n → ∃ t, exec .decStep s = .next t ∧ t.status = (if c = a then .srcEmpty else .dstFull) ∧
        t.dec = { after with lits := t.dec.lits } ∧
        ∀ k, k < c → readByte t.dst (s.dec.cur.dstPos.toNat + k) = readByte s.src (s.dec.cur.srcPos.toNat + k)) ∧
      (c = n → ∃ u, u = { s with dst := u.dst, dec := { after with block := .noBlock } } ∧
        (∀ k, k < n → readByte u.dst (s.dec.cur.dstPos.toNat + k) = readByte s.src (s.dec.cur.srcPos.toNat + k)) ∧
        sameOutside s.dec.cur.dstPos.toNat (s.dec.cur.dstPos.toNat + n) s.dst u.dst ∧
        exec .decStep s = exec .decStep u)) ∧
    (s.dec.block = .v1 ∨ s.dec.block = .v2 → runsOpenBlock s) ∧
    (s.dec.block = .vn → runsSecondary s)

/-- R211: COPY_TRIPLET copies as many literals, then as many match bytes as there is room for, byte by byte and forward, so that a
distance shorter than the match repeats; and nothing else. Where the room is short it saves what is left of the triplet. -/
def Obligations.CopyTripletBytes : Prop :=
  ∀ (s : State) (l m d : Nat), s.dec.litPos.toNat + l ≤ 40000 → m < 2 ^ 32 → 1 ≤ d →
    s.dec.cur.dstPos.toNat ≤ s.dec.cur.dstEnd.toNat → d ≤ s.dec.cur.dstPos.toNat + l - s.dec.cur.dstBegin.toNat →
    let p := s.dec.cur.dstPos.toNat
    let room := s.dec.cur.dstEnd.toNat - p
    let nl := min l room
    let nm := min m (room - nl)
    ∃ t, copyTriplet l m d s = (decide (l + m ≤ room), t) ∧
      (∀ i, i < nl → readByte t.dst (p + i) = litAt s.dec.lits (s.dec.litPos.toNat + i)) ∧
      (∀ i, i < nm → readByte t.dst (p + l + i) = readByte t.dst (p + l + i - d)) ∧
      sameOutside p (p + nl + nm) s.dst t.dst ∧
      t = { s with
        dst := t.dst,
        dec := { s.dec with
          cur := { s.dec.cur with dstPos := BitVec.ofNat 64 (p + nl + nm) },
          litPos := BitVec.ofNat 32 (s.dec.litPos.toNat + nl), pendL := BitVec.ofNat 32 (l - nl),
          pendM := BitVec.ofNat 32 (m - nm), curD := BitVec.ofNat 32 d } }

/-- R213: a DEC_STEP that ended with DST_FULL, resumed after the host raised DST_END and DEC_GROW took it, gives what one DEC_STEP with
the larger destination gives: status, counts, cursors, streams, tables, header, the decoder context (but for the DEC.lits entries
from DEC.n_lits on, which U3 leaves open) and the bytes produced. What this needs of the context is kept, so that it may be
resumed again. Of a decode suspended inside a secondary block nothing is said: the agent's contract (R214, P1) does not say that
two calls do what one does. -/
def Obligations.DecStepResumes : Prop :=
  ∀ (s t : State) (e : U64), ready s → s.dec.poisoned = false → resumable s → exec .decStep s = .next t →
    resumable t ∧
    (t.status = .dstFull → t.dec.block ≠ .vn → t.dec.cur.dstEnd.toNat ≤ e.toNat → e.toNat ≤ s.dstSize.toNat →
      ∃ u v w, exec .decGrow { t with cur := { t.cur with dstEnd := e } } = .next u ∧ u.status = .ok ∧
        exec .decStep u = .next v ∧
        exec .decStep { s with dec := { s.dec with cur := { s.dec.cur with dstEnd := e } } } = .next w ∧
        (v.status = w.status ∧ v.res0 = w.res0 ∧ v.res1 = w.res1 ∧ v.cur = w.cur) ∧
        (v.in0 = w.in0 ∧ v.in1 = w.in1 ∧ v.freq = w.freq ∧ v.decTab = w.decTab ∧ v.vdecTab = w.vdecTab ∧ v.hdr = w.hdr ∧
          v.hdrSize = w.hdrSize) ∧
        v.dec = { w.dec with lits := v.dec.lits } ∧
        (∀ i, i < w.dec.nLits.toNat → litAt v.dec.lits i = litAt w.dec.lits i) ∧
        ∀ a, a < w.dec.cur.dstPos.toNat → readByte v.dst a = readByte w.dst a)

/-- R218: DEC_BUFFER is DEC_INIT, then DEC_STEP, then RES0 by the status. -/
def Obligations.DecBufferIsInitThenStep : Prop :=
  ∀ s : State, ready s →
    (¬srcOk s → ∃ k ∈ [0, 1, 2], exec .decBuffer s = .next (faulted .badCursor k s)) ∧
    (srcOk s → ¬dstOk s → ∃ k ∈ [3, 4, 5], exec .decBuffer s = .next (faulted .badCursor k s)) ∧
    (srcOk s → dstOk s → ∃ u v, exec .decInit s = .next u ∧ exec .decStep u = .next v ∧
      exec .decBuffer s = .next { v with
        res0 := if v.status = .dstFull then v.dec.cur.dstEnd - v.dec.cur.dstBegin
                else if v.status = .ok then v.dec.cur.dstPos - v.dec.cur.dstBegin else 0,
        res1 := v.dec.cur.srcPos - v.dec.cur.srcBegin })

/-! ## The encoder -/

/-- R230, R232: HASH and ENC_INIT. -/
def Obligations.EncInitHashResults : Prop :=
  ∀ s : State, ready s →
    (2 ^ 32 ≤ s.arg0.toNat → exec .hash s = .next (faulted .badOperand 0 s)) ∧
    (s.arg0.toNat < 2 ^ 32 → exec .hash s = .next { s with
      res0 := BitVec.ofNat 64 (s.arg0.toNat * 2654435761 % 2 ^ 32 / 2 ^ 18), status := .ok }) ∧
    (¬srcOk s → ∃ k ∈ [0, 1, 2], exec .encInit s = .next (faulted .badCursor k s)) ∧
    (srcOk s → ¬dstOk s → ∃ k ∈ [3, 4, 5], exec .encInit s = .next (faulted .badCursor k s)) ∧
    (srcOk s → dstOk s → ∃ t, exec .encInit s = .next t ∧
      t = { s with
        enc := { s.enc with
          srcLo := s.cur.srcBegin, srcBegin := s.cur.srcPos, srcLimit := s.cur.srcEnd - s.cur.srcPos,
          srcEnd := s.cur.srcEnd - s.cur.srcPos, dstBegin := s.cur.dstPos, dstPos := s.cur.dstPos,
          dstEnd := s.cur.dstEnd, srcEncodeI := 0, srcLiteral := 0, pending := { pos := 0, ref := 0, length := 0 },
          hist := t.enc.hist, nMatches := 0, nLits := 0, poisoned := false, active := t.enc.active },
        cur := { s.cur with dstBegin := s.cur.dstPos }, res0 := 0, res1 := 0, status := .ok } ∧
      ∀ h, ∀ e ∈ bucketList (sparseGet emptyBucket t.enc.hist h), e.pos.toInt = -1048556 ∧ e.value = 0)

/-- R242: ENC_TRANSLATE. Where ENC.src_limit or ENC.src_end is below delta, or a position of ENC.pending is so low, the difference does
not fit its field and nothing is said of the new value (log entries 15 and 25). That delta = 0 writes the cursors back, where R242 only returns OK, is R33 and D33 as log entry
10 reads them. -/
def Obligations.EncTranslateMovesOrigin : Prop :=
  ∀ s : State, ready s → sparseWf emptyBucket s.enc.hist = true →
    (s.enc.poisoned = true → exec .encTranslate s = .next (faulted .contextPoisoned 0 s)) ∧
    (s.enc.poisoned = false →
    let delta := s.arg0.toNat
    (s.enc.srcLiteral.toInt < delta ∨ s.enc.srcEncodeI.toInt < delta →
      exec .encTranslate s = .next (faulted .badOperand 0 s)) ∧
    (delta = 0 → 0 ≤ s.enc.srcLiteral.toInt → 0 ≤ s.enc.srcEncodeI.toInt →
      exec .encTranslate s = .next { s with cur := encCursors s.enc, status := .ok }) ∧
    (0 < delta → delta ≤ s.enc.srcLiteral.toInt → delta ≤ s.enc.srcEncodeI.toInt → ∃ t,
      exec .encTranslate s = .next t ∧
      t = { s with
        enc := { s.enc with
          srcBegin := s.enc.srcBegin + s.arg0, srcLimit := t.enc.srcLimit, srcEnd := t.enc.srcEnd,
          srcEncodeI := s.enc.srcEncodeI - s.arg0, srcLiteral := s.enc.srcLiteral - s.arg0,
          pending := { s.enc.pending with pos := t.enc.pending.pos, ref := t.enc.pending.ref },
          hist := t.enc.hist },
        cur := encCursors t.enc, freeTag := t.freeTag, status := .ok } ∧
      (delta ≤ s.enc.srcLimit.toNat → t.enc.srcLimit = s.enc.srcLimit - s.arg0) ∧
      (delta ≤ s.enc.srcEnd.toNat → t.enc.srcEnd = s.enc.srcEnd - s.arg0) ∧
      (-(2 ^ 63) ≤ s.enc.pending.pos.toInt - delta → t.enc.pending.pos = s.enc.pending.pos - s.arg0) ∧
      (-(2 ^ 63) ≤ s.enc.pending.ref.toInt - delta → t.enc.pending.ref = s.enc.pending.ref - s.arg0) ∧
      ∀ h, bucketList (sparseGet emptyBucket t.enc.hist h) = (bucketList (sparseGet emptyBucket s.enc.hist h)).map fun e =>
        { e with pos := BitVec.ofInt 32 (max (e.pos.toInt - delta) (-1048556)) }))

/-- R250: every outcome of PUSH_LMD, the push itself where the context's source region lies in SRC and ENC.src_literal is no negative
offset. Where R250 says that STATE_FULL changes nothing, the cursor registers still show the context (R33, log entry 10). Nothing is
said of an index that does not fit FAULT_INFO or a sum that does not fit ENC.src_literal (log entry 25). -/
def Obligations.PushLmdOutcomes : Prop :=
  ∀ s : State, ready s →
    (s.enc.poisoned = true → exec .pushLmd s = .next (faulted .contextPoisoned 0 s)) ∧
    (s.enc.poisoned = false →
    let l := s.arg0.toNat
    let m := s.arg1.toNat
    let d := s.arg2.toNat
    let full := 10000 < s.enc.nMatches.toNat + 1 + 8 ∨ 40000 < s.enc.nLits.toNat + l + 16
    (315 < l → exec .pushLmd s = .next (faulted .badOperand 0 s)) ∧
    (l ≤ 315 → 2359 < m → exec .pushLmd s = .next (faulted .badOperand 1 s)) ∧
    (l ≤ 315 → m ≤ 2359 → d < 1 ∨ 262139 < d → exec .pushLmd s = .next (faulted .badOperand 2 s)) ∧
    (l ≤ 315 → m ≤ 2359 → 1 ≤ d → d ≤ 262139 → full →
      exec .pushLmd s = .next { s with cur := encCursors s.enc, status := .stateFull }) ∧
    (l ≤ 315 → m ≤ 2359 → 1 ≤ d → d ≤ 262139 → ¬full → encSourceOpen s →
      (0 < l → s.enc.srcLimit.toNat < s.enc.srcLiteral.toInt + l → ∃ t, exec .pushLmd s = .next t ∧
        t = { s with fault := some .bufferBounds, faultInfo := t.faultInfo, status := .faulted } ∧
        ∀ index, index = s.enc.srcBegin.toNat + max s.enc.srcLimit.toNat s.enc.srcLiteral.toInt.toNat → index < 2 ^ 64 →
          t.faultInfo.toNat = index) ∧
      (l = 0 ∨ s.enc.srcLiteral.toInt + l ≤ s.enc.srcLimit.toNat → ∃ t, exec .pushLmd s = .next t ∧
        t = { s with
          enc := { s.enc with
            lValues := t.enc.lValues, mValues := t.enc.mValues, dValues := t.enc.dValues, lits := t.enc.lits,
            nMatches := s.enc.nMatches + 1, nLits := s.enc.nLits + BitVec.ofNat 32 l,
            srcLiteral := t.enc.srcLiteral },
          cur := encCursors t.enc, res0 := nat64 (s.enc.nMatches.toNat + 1), res1 := nat64 (s.enc.nLits.toNat + l),
          status := .ok } ∧
        (s.enc.srcLiteral.toInt + l + m < 2 ^ 63 → t.enc.srcLiteral = s.enc.srcLiteral + BitVec.ofNat 64 (l + m)) ∧
        tripletsAt t s.enc.nMatches.toNat [(l, m, d)] ∧
        (∀ i, i ≠ s.enc.nMatches.toNat → ∀ sel, valueAt sel t i = valueAt sel s i) ∧
        (∀ i, i < s.enc.nLits.toNat → litAt t.enc.lits i = litAt s.enc.lits i) ∧
        ∀ i, i < l → litAt t.enc.lits (s.enc.nLits.toNat + i) =
          readByte s.src (s.enc.srcBegin.toNat + s.enc.srcLiteral.toInt.toNat + i))))

/-- R252, R254, R256: PUSH_MATCH's operand checks, its split into triplets, and its undoing where they do not all fit; BACKEND_MATCH
as PUSH_MATCH, then EMIT_BLOCK and PUSH_MATCH again where the block is full; BACKEND_LITERALS where it fits. That BACKEND_LITERALS
of 0 writes the cursors back, where R256 only returns OK, is R33 as log entry 10 reads it; that ERROR leaves RES0 and RES1 as they
were is log entry 11. -/
def Obligations.PushMatchSplits : Prop :=
  ∀ s : State, ready s → encSourceOpen s → s.enc.nMatches.toNat ≤ 10000 → s.enc.nLits.toNat ≤ 40000 →
    (s.enc.poisoned = true → exec .pushMatch s = .next (faulted .contextPoisoned 0 s)) ∧
    (s.enc.poisoned = false →
    let pos := s.arg0.toNat
    let ref := s.arg1.toNat
    let len := s.arg2.toNat
    let lit := s.enc.srcLiteral.toInt.toNat
    let ts := tripletsOf (pos - lit) len (pos - ref)
    let inRange := lit ≤ pos ∧ ref < pos ∧ pos - ref ≤ 262139 ∧ pos + len ≤ s.enc.srcLimit.toNat
    let full := ts ≠ [] ∧ (10000 < s.enc.nMatches.toNat + ts.length + 8 ∨ 40000 < s.enc.nLits.toNat + (pos - lit) + 16)
    (pos < lit → exec .pushMatch s = .next (faulted .badOperand 0 s)) ∧
    (lit ≤ pos → pos ≤ ref ∨ 262139 < pos - ref → exec .pushMatch s = .next (faulted .badOperand 1 s)) ∧
    (lit ≤ pos → ref < pos → pos - ref ≤ 262139 → s.enc.srcLimit.toNat < pos + len →
      exec .pushMatch s = .next (faulted .badOperand 2 s)) ∧
    (inRange → full → ∃ t, exec .pushMatch s = .next t ∧
      t = { s with
        enc := { s.enc with
          lValues := t.enc.lValues, mValues := t.enc.mValues, dValues := t.enc.dValues, lits := t.enc.lits },
        cur := encCursors s.enc, freeTag := t.freeTag, status := .stateFull } ∧
      (∀ i, i < s.enc.nMatches.toNat → ∀ sel, valueAt sel t i = valueAt sel s i) ∧
      ∀ i, i < s.enc.nLits.toNat → litAt t.enc.lits i = litAt s.enc.lits i) ∧
    (inRange → ¬full → ∃ t, exec .pushMatch s = .next t ∧ exec .backendMatch s = .next t ∧
      pushedRun s t (pos - lit) len (pos - ref)) ∧
    (inRange → full → ∀ u v, exec .pushMatch s = .next u → exec .emitBlock u = .next v →
      (v.status = .dstFull → exec .backendMatch s =
        .next { v with enc := { v.enc with poisoned := true }, status := .error }) ∧
      (v.status = .ok → ∃ w, exec .pushMatch v = .next w ∧
        (w.status = .ok → exec .backendMatch s = .next w) ∧
        (w.status = .stateFull → exec .backendMatch s = .next { w with
          enc := { w.enc with poisoned := true }, res0 := s.res0, res1 := s.res1, status := .error }))) ∧
    (s.arg0 = 0 → exec .backendLiterals s = .next { s with cur := encCursors s.enc, status := .ok }) ∧
    (0 < s.arg0.toNat → lit + s.arg0.toNat ≤ s.enc.srcLimit.toNat →
      s.enc.nMatches.toNat + (tripletsOf s.arg0.toNat 0 1).length + 8 ≤ 10000 →
      s.enc.nLits.toNat + s.arg0.toNat + 16 ≤ 40000 →
      ∃ t, exec .backendLiterals s = .next t ∧ pushedRun s t s.arg0.toNat 0 1))

/-- R258 to R260, R262 to R265: EMIT_BLOCK that ends OK, in whatever room: one V2 block whose header can be read back and whose payloads,
wherever the block stands in SRC, decode to the padded literals and to the triplets with their repeated distances as 0; the arrays
empty, and the results. It does end OK where the destination has room for the largest header and 2 bytes a literal and 8 a triplet. -/
def Obligations.EmitBlockCompletes : Prop :=
  ∀ s : State, ready s → s.enc.poisoned = false → arraysLegal s → s.enc.nLits ≠ 0 ∨ s.enc.nMatches ≠ 0 →
    (s.enc.dstPos.toNat + 752 + 2 * s.enc.nLits.toNat + 8 * s.enc.nMatches.toNat ≤ s.enc.dstEnd.toNat →
      ∃ t, exec .emitBlock s = .next t ∧ t.status = .ok) ∧
    ∀ t, exec .emitBlock s = .next t → t.status = .ok → ∃ h f,
      t = { s with
        occ := t.occ, freq := t.freq, encTab := t.encTab, hdr := t.hdr, hdrSize := t.hdrSize, out := t.out,
        dst := t.dst, freeTag := t.freeTag,
        enc := { s.enc with dstPos := t.enc.dstPos, dValues := t.enc.dValues, lits := t.enc.lits, nMatches := 0, nLits := 0 },
        cur := encCursors t.enc, res0 := t.enc.dstPos - s.enc.dstPos, res1 := nat64 t.hdrSize.toNat, status := .ok } ∧
      122 ≤ t.hdrSize.toNat ∧ t.hdrSize.toNat ≤ 662 ∧
      memRead t.dst s.enc.dstPos.toNat 4 = 0x32787662 ∧
      unpackHeader t.dst s.enc.dstPos.toNat t.enc.dstPos.toNat = .ok h f t.hdrSize.toNat ∧
      h.nMatches = s.enc.nMatches ∧ h.nLiterals.toNat = (s.enc.nLits.toNat + 3) / 4 * 4 ∧
      h.nRawBytes.toNat = (valueList .l s).sum + (valueList .m s).sum ∧ f = concatFreqs t ∧
      t.enc.dstPos.toNat = s.enc.dstPos.toNat + t.hdrSize.toNat + h.nLiteralPayloadBytes.toNat + h.nLmdPayloadBytes.toNat ∧
      t.enc.dstPos.toNat ≤ s.enc.dstEnd.toNat ∧ sameOutside s.enc.dstPos.toNat s.enc.dstEnd.toNat s.dst t.dst ∧
      ∀ (r : State) (p : Nat), ready r → compressedOpen r = false → r.freq = t.freq →
        p + (t.enc.dstPos.toNat - s.enc.dstPos.toNat) < 2 ^ 64 →
        (∀ k, k < t.enc.dstPos.toNat - s.enc.dstPos.toNat →
          readByte r.src (p + k) = readByte t.dst (s.enc.dstPos.toNat + k)) →
        payloadsDecode h t.hdrSize.toNat p (paddedLits s h.nLiterals.toNat) (codedTriplets s) r

/-- R258, R266: EMIT_BLOCK with nothing to emit; else it ends OK or with DST_FULL, always the latter below 752 bytes of room, where no
table is built. DST_FULL at the header or inside a payload rolls back: the arrays up to their lengths, the lengths, the position and
the source side are as they were, and a later EMIT_BLOCK with another end gives what one that never failed gives. That the empty
EMIT_BLOCK writes the cursors back, where R258 only zeroes RES0 and RES1, is R33 and R53 as log entry 10 reads them. That DST_FULL
leaves RES0 and RES1 as they were, whatever inner bodies have run, is log entry 11. -/
def Obligations.EmitBlockOtherwise : Prop :=
  ∀ s : State, ready s → s.enc.poisoned = false →
    (s.enc.nLits = 0 → s.enc.nMatches = 0 → exec .emitBlock s =
      .next { s with cur := encCursors s.enc, res0 := 0, res1 := 0, status := .ok }) ∧
    (s.enc.nLits ≠ 0 ∨ s.enc.nMatches ≠ 0 → arraysLegal s → ∃ t, exec .emitBlock s = .next t ∧
      (t.status = .ok ∨ t.status = .dstFull) ∧
      (s.enc.dstEnd.toNat < s.enc.dstPos.toNat + 752 → t.status = .dstFull ∧ t.freq = s.freq ∧ t.encTab = s.encTab ∧
        t.hdr = s.hdr ∧ t.hdrSize = s.hdrSize ∧ t.out = s.out) ∧
      (t.status = .dstFull →
        t = { s with
          occ := t.occ, freq := t.freq, encTab := t.encTab, hdr := t.hdr, hdrSize := t.hdrSize, out := t.out,
          dst := t.dst, freeTag := t.freeTag,
          enc := { s.enc with lValues := t.enc.lValues, mValues := t.enc.mValues, dValues := t.enc.dValues,
                              lits := t.enc.lits },
          cur := encCursors s.enc, status := .dstFull } ∧
        (∀ i, i < s.enc.nMatches.toNat → ∀ sel, valueAt sel t i = valueAt sel s i) ∧
        (∀ i, i < s.enc.nLits.toNat → litAt t.enc.lits i = litAt s.enc.lits i) ∧
        sameOutside s.enc.dstPos.toNat s.enc.dstEnd.toNat s.dst t.dst ∧
        ∀ e, ∃ v w, exec .emitBlock { s with enc := { s.enc with dstEnd := e } } = .next v ∧
          exec .emitBlock { t with enc := { t.enc with dstEnd := e } } = .next w ∧ w.status = v.status ∧
          (v.status = .ok → w.res0 = v.res0 ∧ w.res1 = v.res1 ∧ w.enc.dstPos = v.enc.dstPos ∧ w.hdr = v.hdr ∧
            ∀ a, s.enc.dstPos.toNat ≤ a → a < v.enc.dstPos.toNat → readByte w.dst a = readByte v.dst a)))

/-- R234, R235, R231: ENC_BASE over positions that are all covered already: it only updates the history. R236, R238, R240: over the
others, in a context as ENC_INIT makes it and the commands keep it, the match it finds is a match, within its bounds; what the
block then holds replays the source, so that every match sent was one; and the history and the pending match stand in the source
too. That the history is in canonical form, which ENC_TRANSLATE needs, is part of the invariant of CanonicalFormKept. -/
def Obligations.EncBaseCovered : Prop :=
  (∀ s : State, ready s → s.enc.poisoned = false →
    (s.enc.srcLimit.toNat < s.arg0.toNat ∨ 2 ^ 31 - 2 < s.arg0.toNat →
      exec .encBase s = .next (faulted .badOperand 0 s)) ∧
    (s.arg0.toNat ≤ s.enc.srcLimit.toNat → s.arg0.toNat ≤ 2 ^ 31 - 2 → encSourceSound s →
      (s.arg0.toNat : Int) - 8 ≤ s.enc.srcLiteral.toInt → ∃ t, exec .encBase s = .next t ∧
        t = { s with
          enc := { s.enc with
            srcEnd := s.arg0, srcEncodeI := BitVec.ofInt 64 (max s.enc.srcEncodeI.toInt (s.arg0.toNat - 8)),
            hist := t.enc.hist },
          cur := encCursors s.enc, res0 := t.enc.srcEncodeI, res1 := s.enc.srcLiteral, status := .ok } ∧
        ((s.arg0.toNat : Int) - 8 ≤ s.enc.srcEncodeI.toInt → t.enc.hist = s.enc.hist) ∧
        (s.enc.srcEncodeI.toInt = s.arg0.toNat - 9 →
          let x := memRead s.src (s.enc.srcBegin.toNat + s.enc.srcEncodeI.toInt.toNat) 4
          let b := x * 2654435761 % 2 ^ 32 / 2 ^ 18
          let old := sparseGet emptyBucket s.enc.hist b
          sparseGet emptyBucket t.enc.hist b =
            { e0 := { pos := BitVec.ofInt 32 s.enc.srcEncodeI.toInt, value := BitVec.ofNat 32 x },
              e1 := old.e0, e2 := old.e1, e3 := old.e2 } ∧
          ∀ h, h ≠ b → sparseGet emptyBucket t.enc.hist h = sparseGet emptyBucket s.enc.hist h))) ∧
  (∀ s t : State, ready s → exec .encInit s = .next t → t.fault = none → encReal t) ∧
  (∀ s : State, encSound s → encReal s →
    let pos := s.enc.srcEncodeI.toInt
    s.enc.srcLiteral.toInt ≤ pos → pos + 8 < s.enc.srcEnd.toNat → ∀ h, ∃ best,
      tryCandidates s pos (memRead s.src (s.enc.srcBegin.toNat + pos.toNat) 4) (bucketList (sparseGet emptyBucket s.enc.hist h))
        { pos := pos, ref := 0, length := 0 } = .ok best ∧
      (best.length ≠ 0 → ∃ m, expandMatch s best = .ok m ∧ s.enc.srcLiteral.toInt ≤ m.pos ∧ 4 ≤ m.length ∧
        m.pos + m.length ≤ s.enc.srcEnd.toNat ∧ matchReal s m.pos m.ref m.length)) ∧
  ∀ s t : State, ready s → encSound s → encReal s →
    (exec .encBase s = .next t → t.status = .ok → encReal t) ∧
    (exec .backendLiterals s = .next t → t.status = .ok → encReal t) ∧
    (sparseWf emptyBucket s.enc.hist = true → s.arg0.toNat ≤ s.enc.srcEnd.toNat → exec .encTranslate s = .next t →
      t.status = .ok → encReal t)

/-- R268: ENC_FINISH with no match pending, no literal left and nothing to emit: the end-of-stream magic. That DST_FULL writes the
cursors back, where R268 only returns, is R33 and R53 as log entry 10 reads them. That RES1, and RES0 where it ends DST_FULL, stay as
they were, although R258's empty EMIT_BLOCK zeroes both, is log entry 11. -/
def Obligations.EncFinishWritesEos : Prop :=
  ∀ s : State, ready s → s.enc.poisoned = false → s.enc.pending.length = 0 →
    (s.enc.srcEnd.toNat : Int) ≤ s.enc.srcLiteral.toInt → s.enc.nLits = 0 → s.enc.nMatches = 0 →
    (s.enc.dstEnd.toNat < s.enc.dstPos.toNat + 4 → exec .encFinish s =
      .next { s with cur := encCursors s.enc, status := .dstFull }) ∧
    (s.enc.dstPos.toNat + 4 ≤ s.enc.dstEnd.toNat → ∃ t, exec .encFinish s = .next t ∧
      t = { s with
        dst := t.dst, freeTag := t.freeTag,
        enc := { s.enc with dstPos := s.enc.dstPos + 4, active := t.enc.active }, cur := encCursors t.enc,
        res0 := s.enc.dstPos + 4 - s.enc.dstBegin, status := .ok } ∧
      bytesAt t.dst s.enc.dstPos.toNat [0x62, 0x76, 0x78, 0x24] ∧
      sameOutside s.enc.dstPos.toNat s.enc.dstEnd.toNat s.dst t.dst)

/-- R234, R240, R242, R254, R268: ENC_INIT makes a sound context; in a sound context the encoder's own accesses and calls never
fault: ENC_BASE, BACKEND_LITERALS within the source and ENC_FINISH end with a status, ERROR exactly when they poison the context.
The context is sound again after each of them that does not end with ERROR (after BACKEND_LITERALS with no match pending), and after
an ENC_TRANSLATE up to ENC.src_end. A sound context's arrays are legal at every index, which rests on log entry 5. -/
def Obligations.EncoderNeverFaults : Prop :=
  (∀ s : State, ready s → srcOk s → dstOk s → s.cur.srcEnd.toNat - s.cur.srcPos.toNat ≤ 2 ^ 31 - 2 → arraysLegal s →
    ∃ t, exec .encInit s = .next t ∧ encSound t) ∧
  (∀ s : State, ready s → encSound s → s.arg0.toNat ≤ s.enc.srcLimit.toNat → ∃ t, exec .encBase s = .next t ∧
    t.fault = none ∧ ((t.status = .ok ∧ encSound t ∧ t.res0 = t.enc.srcEncodeI ∧ t.res1 = t.enc.srcLiteral) ∨
      (t.status = .error ∧ t.enc.poisoned = true))) ∧
  (∀ s : State, ready s → encSound s → s.enc.srcLiteral.toInt + s.arg0.toNat ≤ s.enc.srcLimit.toNat → ∃ t,
    exec .backendLiterals s = .next t ∧ t.fault = none ∧
      ((t.status = .ok ∧ (s.enc.pending.length = 0 → encSound t)) ∨ (t.status = .error ∧ t.enc.poisoned = true))) ∧
  (∀ s : State, ready s → encSound s → sparseWf emptyBucket s.enc.hist = true → s.arg0.toNat ≤ s.enc.srcEnd.toNat →
    s.arg0.toNat ≤ s.enc.srcLiteral.toInt → s.arg0.toNat ≤ s.enc.srcEncodeI.toInt → ∃ t, exec .encTranslate s = .next t ∧ t.status = .ok ∧ encSound t) ∧
  ∀ s : State, ready s → encSound s → ∃ t, exec .encFinish s = .next t ∧ t.fault = none ∧
    ((t.status = .ok ∧ t.res0 = t.enc.dstPos - t.enc.dstBegin ∧ encSound t) ∨ (t.status = .dstFull ∧ encSound t) ∨
      (t.status = .error ∧ t.enc.poisoned = true))

/-- R270: every outcome of STORE_RAW. -/
def Obligations.StoreRawOutcomes : Prop :=
  ∀ s : State, ready s →
    (¬srcOk s → ∃ k ∈ [0, 1, 2], exec .storeRaw s = .next (faulted .badCursor k s)) ∧
    (srcOk s → ¬dstOk s → ∃ k ∈ [3, 4, 5], exec .storeRaw s = .next (faulted .badCursor k s)) ∧
    (srcOk s → dstOk s →
    let n := s.cur.srcEnd.toNat - s.cur.srcPos.toNat
    let p := s.cur.dstPos.toNat
    (2 ^ 31 - 2 < n ∨ s.cur.dstEnd.toNat < p + n + 12 →
      exec .storeRaw s = .next { s with res0 := 0, status := .error }) ∧
    (n ≤ 2 ^ 31 - 2 → p + n + 12 ≤ s.cur.dstEnd.toNat → ∃ t, exec .storeRaw s = .next t ∧
      t = { s with
        dst := t.dst, freeTag := t.freeTag,
        cur := { s.cur with dstPos := BitVec.ofNat 64 (p + n + 12), srcPos := s.cur.srcEnd },
        res0 := BitVec.ofNat 64 (n + 12), status := .ok } ∧
      bytesAt t.dst p [0x62, 0x76, 0x78, 0x2D] ∧ memRead t.dst (p + 4) 4 = n ∧
      (∀ k, k < n → readByte t.dst (p + 8 + k) = readByte s.src (s.cur.srcPos.toNat + k)) ∧
      bytesAt t.dst (p + 8 + n) [0x62, 0x76, 0x78, 0x24] ∧ sameOutside p s.cur.dstEnd.toNat s.dst t.dst))

/-- R272: ENC_BUFFER succeeds or fails as a whole; wherever the source fits as a raw block it succeeds unless it faults, which a source
of 8 to 4095 bytes alone can make it do (a secondary payload longer than its capacity, which the agent's contract R274 excludes,
faults BUFFER_BOUNDS: log entry 6); sources below 8 bytes are stored as STORE_RAW stores them. -/
def Obligations.EncBufferAllOrNothing : Prop :=
  ∀ s : State, ready s → srcOk s → dstOk s → arraysLegal s →
    let n := s.cur.srcEnd.toNat - s.cur.srcPos.toNat
    (2 ^ 31 - 2 < n → exec .encBuffer s = .next (faulted .badCursor 2 s)) ∧
    (n ≤ 2 ^ 31 - 2 → ∃ t, exec .encBuffer s = .next t ∧
      (t.fault = none ∨ (t.fault = some .bufferBounds ∧ 8 ≤ n ∧ n < 4096)) ∧
      (t.fault = none →
        (t.status = .ok ∧ t.enc.poisoned = false ∧ t.cur.srcPos = s.cur.srcEnd ∧
          t.cur.dstPos = s.cur.dstPos + t.res0) ∨
        (t.status = .error ∧ t.enc.poisoned = true ∧ t.res0 = 0 ∧ t.cur.srcPos = s.cur.srcPos ∧
          t.cur.dstPos = s.cur.dstPos)) ∧
      (t.fault = none → s.cur.dstPos.toNat + n + 12 ≤ s.cur.dstEnd.toNat → t.status = .ok) ∧
      (n < 8 → s.cur.dstPos.toNat + n + 12 ≤ s.cur.dstEnd.toNat → ∃ u, exec .storeRaw s = .next u ∧
        t = { u with enc := { u.enc with poisoned := false } }))

/-- R270, R203 to R205, R218: what STORE_RAW writes, DEC_BUFFER decodes to the source bytes. -/
def Obligations.RawRoundTrip : Prop :=
  ∀ s t u : State, ready s → srcOk s → dstOk s →
    let n := s.cur.srcEnd.toNat - s.cur.srcPos.toNat
    n ≤ 2 ^ 31 - 2 → s.cur.dstPos.toNat + n + 12 ≤ s.cur.dstEnd.toNat → exec .storeRaw s = .next t →
    ready u → srcOk u → dstOk u → u.cur.srcPos.toNat + n + 12 ≤ u.cur.srcEnd.toNat →
    u.cur.dstPos.toNat + n ≤ u.cur.dstEnd.toNat →
    (∀ k, k < n + 12 → readByte u.src (u.cur.srcPos.toNat + k) = readByte t.dst (s.cur.dstPos.toNat + k)) →
    ∃ v, exec .decBuffer u = .next v ∧ v.status = .ok ∧ v.res0 = BitVec.ofNat 64 n ∧ v.res1 = BitVec.ofNat 64 (n + 12) ∧
      ∀ k, k < n → readByte v.dst (u.cur.dstPos.toNat + k) = readByte s.src (s.cur.srcPos.toNat + k)
end

