-- ==== Sys2Proof/Laws/State.lean ====
section
/-! SUPPORT. One lemma per field of State for each shared update of Machine/Ops.lean, Operands.lean and Flags.lean. -/

namespace Sys2Proof.Laws

open Sys2Proof.Machine

@[simp] theorem takeFault_cmd (t : Trap) (s : State) : (takeFault t s).cmd = s.cmd := rfl
@[simp] theorem takeFault_arg0 (t : Trap) (s : State) : (takeFault t s).arg0 = s.arg0 := rfl
@[simp] theorem takeFault_arg1 (t : Trap) (s : State) : (takeFault t s).arg1 = s.arg1 := rfl
@[simp] theorem takeFault_arg2 (t : Trap) (s : State) : (takeFault t s).arg2 = s.arg2 := rfl
@[simp] theorem takeFault_arg3 (t : Trap) (s : State) : (takeFault t s).arg3 = s.arg3 := rfl
@[simp] theorem takeFault_res0 (t : Trap) (s : State) : (takeFault t s).res0 = s.res0 := rfl
@[simp] theorem takeFault_res1 (t : Trap) (s : State) : (takeFault t s).res1 = s.res1 := rfl
@[simp] theorem takeFault_status (t : Trap) (s : State) : (takeFault t s).status = .faulted := rfl
@[simp] theorem takeFault_fault (t : Trap) (s : State) : (takeFault t s).fault = some t.cause := rfl
@[simp] theorem takeFault_faultInfo (t : Trap) (s : State) : (takeFault t s).faultInfo = t.info := rfl
@[simp] theorem takeFault_cur (t : Trap) (s : State) : (takeFault t s).cur = s.cur := rfl
@[simp] theorem takeFault_out (t : Trap) (s : State) : (takeFault t s).out = s.out := rfl
@[simp] theorem takeFault_in0 (t : Trap) (s : State) : (takeFault t s).in0 = s.in0 := rfl
@[simp] theorem takeFault_in1 (t : Trap) (s : State) : (takeFault t s).in1 = s.in1 := rfl
@[simp] theorem takeFault_occ (t : Trap) (s : State) : (takeFault t s).occ = s.occ := rfl
@[simp] theorem takeFault_freq (t : Trap) (s : State) : (takeFault t s).freq = s.freq := rfl
@[simp] theorem takeFault_encTab (t : Trap) (s : State) : (takeFault t s).encTab = s.encTab := rfl
@[simp] theorem takeFault_decTab (t : Trap) (s : State) : (takeFault t s).decTab = s.decTab := rfl
@[simp] theorem takeFault_vdecTab (t : Trap) (s : State) : (takeFault t s).vdecTab = s.vdecTab := rfl
@[simp] theorem takeFault_hdr (t : Trap) (s : State) : (takeFault t s).hdr = s.hdr := rfl
@[simp] theorem takeFault_hdrSize (t : Trap) (s : State) : (takeFault t s).hdrSize = s.hdrSize := rfl
@[simp] theorem takeFault_dec (t : Trap) (s : State) : (takeFault t s).dec = s.dec := rfl
@[simp] theorem takeFault_enc (t : Trap) (s : State) : (takeFault t s).enc = s.enc := rfl
@[simp] theorem takeFault_src (t : Trap) (s : State) : (takeFault t s).src = s.src := rfl
@[simp] theorem takeFault_dst (t : Trap) (s : State) : (takeFault t s).dst = s.dst := rfl
@[simp] theorem takeFault_srcSize (t : Trap) (s : State) : (takeFault t s).srcSize = s.srcSize := rfl
@[simp] theorem takeFault_dstSize (t : Trap) (s : State) : (takeFault t s).dstSize = s.dstSize := rfl
@[simp] theorem takeFault_freeTag (t : Trap) (s : State) : (takeFault t s).freeTag = s.freeTag := rfl
@[simp] theorem takeFault_script (t : Trap) (s : State) : (takeFault t s).script = s.script := rfl

@[simp] theorem clearFault_cmd (s : State) : (clearFault s).cmd = s.cmd := rfl
@[simp] theorem clearFault_arg0 (s : State) : (clearFault s).arg0 = s.arg0 := rfl
@[simp] theorem clearFault_arg1 (s : State) : (clearFault s).arg1 = s.arg1 := rfl
@[simp] theorem clearFault_arg2 (s : State) : (clearFault s).arg2 = s.arg2 := rfl
@[simp] theorem clearFault_arg3 (s : State) : (clearFault s).arg3 = s.arg3 := rfl
@[simp] theorem clearFault_res0 (s : State) : (clearFault s).res0 = s.res0 := rfl
@[simp] theorem clearFault_res1 (s : State) : (clearFault s).res1 = s.res1 := rfl
@[simp] theorem clearFault_status (s : State) : (clearFault s).status = .ok := rfl
@[simp] theorem clearFault_fault (s : State) : (clearFault s).fault = none := rfl
@[simp] theorem clearFault_faultInfo (s : State) : (clearFault s).faultInfo = 0 := rfl
@[simp] theorem clearFault_cur (s : State) : (clearFault s).cur = s.cur := rfl
@[simp] theorem clearFault_out (s : State) : (clearFault s).out = s.out := rfl
@[simp] theorem clearFault_in0 (s : State) : (clearFault s).in0 = s.in0 := rfl
@[simp] theorem clearFault_in1 (s : State) : (clearFault s).in1 = s.in1 := rfl
@[simp] theorem clearFault_occ (s : State) : (clearFault s).occ = s.occ := rfl
@[simp] theorem clearFault_freq (s : State) : (clearFault s).freq = s.freq := rfl
@[simp] theorem clearFault_encTab (s : State) : (clearFault s).encTab = s.encTab := rfl
@[simp] theorem clearFault_decTab (s : State) : (clearFault s).decTab = s.decTab := rfl
@[simp] theorem clearFault_vdecTab (s : State) : (clearFault s).vdecTab = s.vdecTab := rfl
@[simp] theorem clearFault_hdr (s : State) : (clearFault s).hdr = s.hdr := rfl
@[simp] theorem clearFault_hdrSize (s : State) : (clearFault s).hdrSize = s.hdrSize := rfl
@[simp] theorem clearFault_dec (s : State) : (clearFault s).dec = s.dec := rfl
@[simp] theorem clearFault_enc (s : State) : (clearFault s).enc = s.enc := rfl
@[simp] theorem clearFault_src (s : State) : (clearFault s).src = s.src := rfl
@[simp] theorem clearFault_dst (s : State) : (clearFault s).dst = s.dst := rfl
@[simp] theorem clearFault_srcSize (s : State) : (clearFault s).srcSize = s.srcSize := rfl
@[simp] theorem clearFault_dstSize (s : State) : (clearFault s).dstSize = s.dstSize := rfl
@[simp] theorem clearFault_freeTag (s : State) : (clearFault s).freeTag = s.freeTag := rfl
@[simp] theorem clearFault_script (s : State) : (clearFault s).script = s.script := rfl

@[simp] theorem withRes0_cmd (s : State) (v : U64) : (s.withRes0 v).cmd = s.cmd := rfl
@[simp] theorem withRes0_arg0 (s : State) (v : U64) : (s.withRes0 v).arg0 = s.arg0 := rfl
@[simp] theorem withRes0_arg1 (s : State) (v : U64) : (s.withRes0 v).arg1 = s.arg1 := rfl
@[simp] theorem withRes0_arg2 (s : State) (v : U64) : (s.withRes0 v).arg2 = s.arg2 := rfl
@[simp] theorem withRes0_arg3 (s : State) (v : U64) : (s.withRes0 v).arg3 = s.arg3 := rfl
@[simp] theorem withRes0_res0 (s : State) (v : U64) : (s.withRes0 v).res0 = v := rfl
@[simp] theorem withRes0_res1 (s : State) (v : U64) : (s.withRes0 v).res1 = s.res1 := rfl
@[simp] theorem withRes0_status (s : State) (v : U64) : (s.withRes0 v).status = s.status := rfl
@[simp] theorem withRes0_fault (s : State) (v : U64) : (s.withRes0 v).fault = s.fault := rfl
@[simp] theorem withRes0_faultInfo (s : State) (v : U64) : (s.withRes0 v).faultInfo = s.faultInfo := rfl
@[simp] theorem withRes0_cur (s : State) (v : U64) : (s.withRes0 v).cur = s.cur := rfl
@[simp] theorem withRes0_out (s : State) (v : U64) : (s.withRes0 v).out = s.out := rfl
@[simp] theorem withRes0_in0 (s : State) (v : U64) : (s.withRes0 v).in0 = s.in0 := rfl
@[simp] theorem withRes0_in1 (s : State) (v : U64) : (s.withRes0 v).in1 = s.in1 := rfl
@[simp] theorem withRes0_occ (s : State) (v : U64) : (s.withRes0 v).occ = s.occ := rfl
@[simp] theorem withRes0_freq (s : State) (v : U64) : (s.withRes0 v).freq = s.freq := rfl
@[simp] theorem withRes0_encTab (s : State) (v : U64) : (s.withRes0 v).encTab = s.encTab := rfl
@[simp] theorem withRes0_decTab (s : State) (v : U64) : (s.withRes0 v).decTab = s.decTab := rfl
@[simp] theorem withRes0_vdecTab (s : State) (v : U64) : (s.withRes0 v).vdecTab = s.vdecTab := rfl
@[simp] theorem withRes0_hdr (s : State) (v : U64) : (s.withRes0 v).hdr = s.hdr := rfl
@[simp] theorem withRes0_hdrSize (s : State) (v : U64) : (s.withRes0 v).hdrSize = s.hdrSize := rfl
@[simp] theorem withRes0_dec (s : State) (v : U64) : (s.withRes0 v).dec = s.dec := rfl
@[simp] theorem withRes0_enc (s : State) (v : U64) : (s.withRes0 v).enc = s.enc := rfl
@[simp] theorem withRes0_src (s : State) (v : U64) : (s.withRes0 v).src = s.src := rfl
@[simp] theorem withRes0_dst (s : State) (v : U64) : (s.withRes0 v).dst = s.dst := rfl
@[simp] theorem withRes0_srcSize (s : State) (v : U64) : (s.withRes0 v).srcSize = s.srcSize := rfl
@[simp] theorem withRes0_dstSize (s : State) (v : U64) : (s.withRes0 v).dstSize = s.dstSize := rfl
@[simp] theorem withRes0_freeTag (s : State) (v : U64) : (s.withRes0 v).freeTag = s.freeTag := rfl
@[simp] theorem withRes0_script (s : State) (v : U64) : (s.withRes0 v).script = s.script := rfl

@[simp] theorem withRes_cmd (s : State) (v w : U64) : (s.withRes v w).cmd = s.cmd := rfl
@[simp] theorem withRes_arg0 (s : State) (v w : U64) : (s.withRes v w).arg0 = s.arg0 := rfl
@[simp] theorem withRes_arg1 (s : State) (v w : U64) : (s.withRes v w).arg1 = s.arg1 := rfl
@[simp] theorem withRes_arg2 (s : State) (v w : U64) : (s.withRes v w).arg2 = s.arg2 := rfl
@[simp] theorem withRes_arg3 (s : State) (v w : U64) : (s.withRes v w).arg3 = s.arg3 := rfl
@[simp] theorem withRes_res0 (s : State) (v w : U64) : (s.withRes v w).res0 = v := rfl
@[simp] theorem withRes_res1 (s : State) (v w : U64) : (s.withRes v w).res1 = w := rfl
@[simp] theorem withRes_status (s : State) (v w : U64) : (s.withRes v w).status = s.status := rfl
@[simp] theorem withRes_fault (s : State) (v w : U64) : (s.withRes v w).fault = s.fault := rfl
@[simp] theorem withRes_faultInfo (s : State) (v w : U64) : (s.withRes v w).faultInfo = s.faultInfo := rfl
@[simp] theorem withRes_cur (s : State) (v w : U64) : (s.withRes v w).cur = s.cur := rfl
@[simp] theorem withRes_out (s : State) (v w : U64) : (s.withRes v w).out = s.out := rfl
@[simp] theorem withRes_in0 (s : State) (v w : U64) : (s.withRes v w).in0 = s.in0 := rfl
@[simp] theorem withRes_in1 (s : State) (v w : U64) : (s.withRes v w).in1 = s.in1 := rfl
@[simp] theorem withRes_occ (s : State) (v w : U64) : (s.withRes v w).occ = s.occ := rfl
@[simp] theorem withRes_freq (s : State) (v w : U64) : (s.withRes v w).freq = s.freq := rfl
@[simp] theorem withRes_encTab (s : State) (v w : U64) : (s.withRes v w).encTab = s.encTab := rfl
@[simp] theorem withRes_decTab (s : State) (v w : U64) : (s.withRes v w).decTab = s.decTab := rfl
@[simp] theorem withRes_vdecTab (s : State) (v w : U64) : (s.withRes v w).vdecTab = s.vdecTab := rfl
@[simp] theorem withRes_hdr (s : State) (v w : U64) : (s.withRes v w).hdr = s.hdr := rfl
@[simp] theorem withRes_hdrSize (s : State) (v w : U64) : (s.withRes v w).hdrSize = s.hdrSize := rfl
@[simp] theorem withRes_dec (s : State) (v w : U64) : (s.withRes v w).dec = s.dec := rfl
@[simp] theorem withRes_enc (s : State) (v w : U64) : (s.withRes v w).enc = s.enc := rfl
@[simp] theorem withRes_src (s : State) (v w : U64) : (s.withRes v w).src = s.src := rfl
@[simp] theorem withRes_dst (s : State) (v w : U64) : (s.withRes v w).dst = s.dst := rfl
@[simp] theorem withRes_srcSize (s : State) (v w : U64) : (s.withRes v w).srcSize = s.srcSize := rfl
@[simp] theorem withRes_dstSize (s : State) (v w : U64) : (s.withRes v w).dstSize = s.dstSize := rfl
@[simp] theorem withRes_freeTag (s : State) (v w : U64) : (s.withRes v w).freeTag = s.freeTag := rfl
@[simp] theorem withRes_script (s : State) (v w : U64) : (s.withRes v w).script = s.script := rfl

@[simp] theorem writeBackDec_cmd (s : State) : (writeBackDec s).cmd = s.cmd := rfl
@[simp] theorem writeBackDec_arg0 (s : State) : (writeBackDec s).arg0 = s.arg0 := rfl
@[simp] theorem writeBackDec_arg1 (s : State) : (writeBackDec s).arg1 = s.arg1 := rfl
@[simp] theorem writeBackDec_arg2 (s : State) : (writeBackDec s).arg2 = s.arg2 := rfl
@[simp] theorem writeBackDec_arg3 (s : State) : (writeBackDec s).arg3 = s.arg3 := rfl
@[simp] theorem writeBackDec_res0 (s : State) : (writeBackDec s).res0 = s.res0 := rfl
@[simp] theorem writeBackDec_res1 (s : State) : (writeBackDec s).res1 = s.res1 := rfl
@[simp] theorem writeBackDec_status (s : State) : (writeBackDec s).status = s.status := rfl
@[simp] theorem writeBackDec_fault (s : State) : (writeBackDec s).fault = s.fault := rfl
@[simp] theorem writeBackDec_faultInfo (s : State) : (writeBackDec s).faultInfo = s.faultInfo := rfl
@[simp] theorem writeBackDec_cur (s : State) : (writeBackDec s).cur = s.dec.cur := rfl
@[simp] theorem writeBackDec_out (s : State) : (writeBackDec s).out = s.out := rfl
@[simp] theorem writeBackDec_in0 (s : State) : (writeBackDec s).in0 = s.in0 := rfl
@[simp] theorem writeBackDec_in1 (s : State) : (writeBackDec s).in1 = s.in1 := rfl
@[simp] theorem writeBackDec_occ (s : State) : (writeBackDec s).occ = s.occ := rfl
@[simp] theorem writeBackDec_freq (s : State) : (writeBackDec s).freq = s.freq := rfl
@[simp] theorem writeBackDec_encTab (s : State) : (writeBackDec s).encTab = s.encTab := rfl
@[simp] theorem writeBackDec_decTab (s : State) : (writeBackDec s).decTab = s.decTab := rfl
@[simp] theorem writeBackDec_vdecTab (s : State) : (writeBackDec s).vdecTab = s.vdecTab := rfl
@[simp] theorem writeBackDec_hdr (s : State) : (writeBackDec s).hdr = s.hdr := rfl
@[simp] theorem writeBackDec_hdrSize (s : State) : (writeBackDec s).hdrSize = s.hdrSize := rfl
@[simp] theorem writeBackDec_dec (s : State) : (writeBackDec s).dec = s.dec := rfl
@[simp] theorem writeBackDec_enc (s : State) : (writeBackDec s).enc = s.enc := rfl
@[simp] theorem writeBackDec_src (s : State) : (writeBackDec s).src = s.src := rfl
@[simp] theorem writeBackDec_dst (s : State) : (writeBackDec s).dst = s.dst := rfl
@[simp] theorem writeBackDec_srcSize (s : State) : (writeBackDec s).srcSize = s.srcSize := rfl
@[simp] theorem writeBackDec_dstSize (s : State) : (writeBackDec s).dstSize = s.dstSize := rfl
@[simp] theorem writeBackDec_freeTag (s : State) : (writeBackDec s).freeTag = s.freeTag := rfl
@[simp] theorem writeBackDec_script (s : State) : (writeBackDec s).script = s.script := rfl

@[simp] theorem writeBackEnc_cmd (s : State) : (writeBackEnc s).cmd = s.cmd := rfl
@[simp] theorem writeBackEnc_arg0 (s : State) : (writeBackEnc s).arg0 = s.arg0 := rfl
@[simp] theorem writeBackEnc_arg1 (s : State) : (writeBackEnc s).arg1 = s.arg1 := rfl
@[simp] theorem writeBackEnc_arg2 (s : State) : (writeBackEnc s).arg2 = s.arg2 := rfl
@[simp] theorem writeBackEnc_arg3 (s : State) : (writeBackEnc s).arg3 = s.arg3 := rfl
@[simp] theorem writeBackEnc_res0 (s : State) : (writeBackEnc s).res0 = s.res0 := rfl
@[simp] theorem writeBackEnc_res1 (s : State) : (writeBackEnc s).res1 = s.res1 := rfl
@[simp] theorem writeBackEnc_status (s : State) : (writeBackEnc s).status = s.status := rfl
@[simp] theorem writeBackEnc_fault (s : State) : (writeBackEnc s).fault = s.fault := rfl
@[simp] theorem writeBackEnc_faultInfo (s : State) : (writeBackEnc s).faultInfo = s.faultInfo := rfl
@[simp] theorem writeBackEnc_cur (s : State) : (writeBackEnc s).cur = encCursors s.enc := rfl
@[simp] theorem writeBackEnc_out (s : State) : (writeBackEnc s).out = s.out := rfl
@[simp] theorem writeBackEnc_in0 (s : State) : (writeBackEnc s).in0 = s.in0 := rfl
@[simp] theorem writeBackEnc_in1 (s : State) : (writeBackEnc s).in1 = s.in1 := rfl
@[simp] theorem writeBackEnc_occ (s : State) : (writeBackEnc s).occ = s.occ := rfl
@[simp] theorem writeBackEnc_freq (s : State) : (writeBackEnc s).freq = s.freq := rfl
@[simp] theorem writeBackEnc_encTab (s : State) : (writeBackEnc s).encTab = s.encTab := rfl
@[simp] theorem writeBackEnc_decTab (s : State) : (writeBackEnc s).decTab = s.decTab := rfl
@[simp] theorem writeBackEnc_vdecTab (s : State) : (writeBackEnc s).vdecTab = s.vdecTab := rfl
@[simp] theorem writeBackEnc_hdr (s : State) : (writeBackEnc s).hdr = s.hdr := rfl
@[simp] theorem writeBackEnc_hdrSize (s : State) : (writeBackEnc s).hdrSize = s.hdrSize := rfl
@[simp] theorem writeBackEnc_dec (s : State) : (writeBackEnc s).dec = s.dec := rfl
@[simp] theorem writeBackEnc_enc (s : State) : (writeBackEnc s).enc = s.enc := rfl
@[simp] theorem writeBackEnc_src (s : State) : (writeBackEnc s).src = s.src := rfl
@[simp] theorem writeBackEnc_dst (s : State) : (writeBackEnc s).dst = s.dst := rfl
@[simp] theorem writeBackEnc_srcSize (s : State) : (writeBackEnc s).srcSize = s.srcSize := rfl
@[simp] theorem writeBackEnc_dstSize (s : State) : (writeBackEnc s).dstSize = s.dstSize := rfl
@[simp] theorem writeBackEnc_freeTag (s : State) : (writeBackEnc s).freeTag = s.freeTag := rfl
@[simp] theorem writeBackEnc_script (s : State) : (writeBackEnc s).script = s.script := rfl

@[simp] theorem poisonEnc_cmd (s : State) : (poisonEnc s).cmd = s.cmd := rfl
@[simp] theorem poisonEnc_arg0 (s : State) : (poisonEnc s).arg0 = s.arg0 := rfl
@[simp] theorem poisonEnc_arg1 (s : State) : (poisonEnc s).arg1 = s.arg1 := rfl
@[simp] theorem poisonEnc_arg2 (s : State) : (poisonEnc s).arg2 = s.arg2 := rfl
@[simp] theorem poisonEnc_arg3 (s : State) : (poisonEnc s).arg3 = s.arg3 := rfl
@[simp] theorem poisonEnc_res0 (s : State) : (poisonEnc s).res0 = s.res0 := rfl
@[simp] theorem poisonEnc_res1 (s : State) : (poisonEnc s).res1 = s.res1 := rfl
@[simp] theorem poisonEnc_status (s : State) : (poisonEnc s).status = s.status := rfl
@[simp] theorem poisonEnc_fault (s : State) : (poisonEnc s).fault = s.fault := rfl
@[simp] theorem poisonEnc_faultInfo (s : State) : (poisonEnc s).faultInfo = s.faultInfo := rfl
@[simp] theorem poisonEnc_cur (s : State) : (poisonEnc s).cur = s.cur := rfl
@[simp] theorem poisonEnc_out (s : State) : (poisonEnc s).out = s.out := rfl
@[simp] theorem poisonEnc_in0 (s : State) : (poisonEnc s).in0 = s.in0 := rfl
@[simp] theorem poisonEnc_in1 (s : State) : (poisonEnc s).in1 = s.in1 := rfl
@[simp] theorem poisonEnc_occ (s : State) : (poisonEnc s).occ = s.occ := rfl
@[simp] theorem poisonEnc_freq (s : State) : (poisonEnc s).freq = s.freq := rfl
@[simp] theorem poisonEnc_encTab (s : State) : (poisonEnc s).encTab = s.encTab := rfl
@[simp] theorem poisonEnc_decTab (s : State) : (poisonEnc s).decTab = s.decTab := rfl
@[simp] theorem poisonEnc_vdecTab (s : State) : (poisonEnc s).vdecTab = s.vdecTab := rfl
@[simp] theorem poisonEnc_hdr (s : State) : (poisonEnc s).hdr = s.hdr := rfl
@[simp] theorem poisonEnc_hdrSize (s : State) : (poisonEnc s).hdrSize = s.hdrSize := rfl
@[simp] theorem poisonEnc_dec (s : State) : (poisonEnc s).dec = s.dec := rfl
@[simp] theorem poisonEnc_enc (s : State) : (poisonEnc s).enc = { s.enc with poisoned := true } := rfl
@[simp] theorem poisonEnc_src (s : State) : (poisonEnc s).src = s.src := rfl
@[simp] theorem poisonEnc_dst (s : State) : (poisonEnc s).dst = s.dst := rfl
@[simp] theorem poisonEnc_srcSize (s : State) : (poisonEnc s).srcSize = s.srcSize := rfl
@[simp] theorem poisonEnc_dstSize (s : State) : (poisonEnc s).dstSize = s.dstSize := rfl
@[simp] theorem poisonEnc_freeTag (s : State) : (poisonEnc s).freeTag = s.freeTag := rfl
@[simp] theorem poisonEnc_script (s : State) : (poisonEnc s).script = s.script := rfl

@[simp] theorem releaseDst_cmd (lo hi : Nat) (s : State) : (releaseDst lo hi s).cmd = s.cmd := by
  unfold releaseDst; split <;> rfl
@[simp] theorem releaseDst_arg0 (lo hi : Nat) (s : State) : (releaseDst lo hi s).arg0 = s.arg0 := by
  unfold releaseDst; split <;> rfl
@[simp] theorem releaseDst_arg1 (lo hi : Nat) (s : State) : (releaseDst lo hi s).arg1 = s.arg1 := by
  unfold releaseDst; split <;> rfl
@[simp] theorem releaseDst_arg2 (lo hi : Nat) (s : State) : (releaseDst lo hi s).arg2 = s.arg2 := by
  unfold releaseDst; split <;> rfl
@[simp] theorem releaseDst_arg3 (lo hi : Nat) (s : State) : (releaseDst lo hi s).arg3 = s.arg3 := by
  unfold releaseDst; split <;> rfl
@[simp] theorem releaseDst_res0 (lo hi : Nat) (s : State) : (releaseDst lo hi s).res0 = s.res0 := by
  unfold releaseDst; split <;> rfl
@[simp] theorem releaseDst_res1 (lo hi : Nat) (s : State) : (releaseDst lo hi s).res1 = s.res1 := by
  unfold releaseDst; split <;> rfl
@[simp] theorem releaseDst_status (lo hi : Nat) (s : State) : (releaseDst lo hi s).status = s.status := by
  unfold releaseDst; split <;> rfl
@[simp] theorem releaseDst_fault (lo hi : Nat) (s : State) : (releaseDst lo hi s).fault = s.fault := by
  unfold releaseDst; split <;> rfl
@[simp] theorem releaseDst_faultInfo (lo hi : Nat) (s : State) : (releaseDst lo hi s).faultInfo = s.faultInfo := by
  unfold releaseDst; split <;> rfl
@[simp] theorem releaseDst_cur (lo hi : Nat) (s : State) : (releaseDst lo hi s).cur = s.cur := by
  unfold releaseDst; split <;> rfl
@[simp] theorem releaseDst_out (lo hi : Nat) (s : State) : (releaseDst lo hi s).out = s.out := by
  unfold releaseDst; split <;> rfl
@[simp] theorem releaseDst_in0 (lo hi : Nat) (s : State) : (releaseDst lo hi s).in0 = s.in0 := by
  unfold releaseDst; split <;> rfl
@[simp] theorem releaseDst_in1 (lo hi : Nat) (s : State) : (releaseDst lo hi s).in1 = s.in1 := by
  unfold releaseDst; split <;> rfl
@[simp] theorem releaseDst_occ (lo hi : Nat) (s : State) : (releaseDst lo hi s).occ = s.occ := by
  unfold releaseDst; split <;> rfl
@[simp] theorem releaseDst_freq (lo hi : Nat) (s : State) : (releaseDst lo hi s).freq = s.freq := by
  unfold releaseDst; split <;> rfl
@[simp] theorem releaseDst_encTab (lo hi : Nat) (s : State) : (releaseDst lo hi s).encTab = s.encTab := by
  unfold releaseDst; split <;> rfl
@[simp] theorem releaseDst_decTab (lo hi : Nat) (s : State) : (releaseDst lo hi s).decTab = s.decTab := by
  unfold releaseDst; split <;> rfl
@[simp] theorem releaseDst_vdecTab (lo hi : Nat) (s : State) : (releaseDst lo hi s).vdecTab = s.vdecTab := by
  unfold releaseDst; split <;> rfl
@[simp] theorem releaseDst_hdr (lo hi : Nat) (s : State) : (releaseDst lo hi s).hdr = s.hdr := by
  unfold releaseDst; split <;> rfl
@[simp] theorem releaseDst_hdrSize (lo hi : Nat) (s : State) : (releaseDst lo hi s).hdrSize = s.hdrSize := by
  unfold releaseDst; split <;> rfl
@[simp] theorem releaseDst_dec (lo hi : Nat) (s : State) : (releaseDst lo hi s).dec = s.dec := by
  unfold releaseDst; split <;> rfl
@[simp] theorem releaseDst_enc (lo hi : Nat) (s : State) : (releaseDst lo hi s).enc = s.enc := by
  unfold releaseDst; split <;> rfl
@[simp] theorem releaseDst_src (lo hi : Nat) (s : State) : (releaseDst lo hi s).src = s.src := by
  unfold releaseDst; split <;> rfl
@[simp] theorem releaseDst_srcSize (lo hi : Nat) (s : State) : (releaseDst lo hi s).srcSize = s.srcSize := by
  unfold releaseDst; split <;> rfl
@[simp] theorem releaseDst_dstSize (lo hi : Nat) (s : State) : (releaseDst lo hi s).dstSize = s.dstSize := by
  unfold releaseDst; split <;> rfl
@[simp] theorem releaseDst_script (lo hi : Nat) (s : State) : (releaseDst lo hi s).script = s.script := by
  unfold releaseDst; split <;> rfl

@[simp] theorem releaseEncArrays_cmd (nm nl : Nat) (s : State) : (releaseEncArrays nm nl s).cmd = s.cmd := rfl
@[simp] theorem releaseEncArrays_arg0 (nm nl : Nat) (s : State) : (releaseEncArrays nm nl s).arg0 = s.arg0 := rfl
@[simp] theorem releaseEncArrays_arg1 (nm nl : Nat) (s : State) : (releaseEncArrays nm nl s).arg1 = s.arg1 := rfl
@[simp] theorem releaseEncArrays_arg2 (nm nl : Nat) (s : State) : (releaseEncArrays nm nl s).arg2 = s.arg2 := rfl
@[simp] theorem releaseEncArrays_arg3 (nm nl : Nat) (s : State) : (releaseEncArrays nm nl s).arg3 = s.arg3 := rfl
@[simp] theorem releaseEncArrays_res0 (nm nl : Nat) (s : State) : (releaseEncArrays nm nl s).res0 = s.res0 := rfl
@[simp] theorem releaseEncArrays_res1 (nm nl : Nat) (s : State) : (releaseEncArrays nm nl s).res1 = s.res1 := rfl
@[simp] theorem releaseEncArrays_status (nm nl : Nat) (s : State) : (releaseEncArrays nm nl s).status = s.status := rfl
@[simp] theorem releaseEncArrays_fault (nm nl : Nat) (s : State) : (releaseEncArrays nm nl s).fault = s.fault := rfl
@[simp] theorem releaseEncArrays_faultInfo (nm nl : Nat) (s : State) : (releaseEncArrays nm nl s).faultInfo = s.faultInfo := rfl
@[simp] theorem releaseEncArrays_cur (nm nl : Nat) (s : State) : (releaseEncArrays nm nl s).cur = s.cur := rfl
@[simp] theorem releaseEncArrays_out (nm nl : Nat) (s : State) : (releaseEncArrays nm nl s).out = s.out := rfl
@[simp] theorem releaseEncArrays_in0 (nm nl : Nat) (s : State) : (releaseEncArrays nm nl s).in0 = s.in0 := rfl
@[simp] theorem releaseEncArrays_in1 (nm nl : Nat) (s : State) : (releaseEncArrays nm nl s).in1 = s.in1 := rfl
@[simp] theorem releaseEncArrays_occ (nm nl : Nat) (s : State) : (releaseEncArrays nm nl s).occ = s.occ := rfl
@[simp] theorem releaseEncArrays_freq (nm nl : Nat) (s : State) : (releaseEncArrays nm nl s).freq = s.freq := rfl
@[simp] theorem releaseEncArrays_encTab (nm nl : Nat) (s : State) : (releaseEncArrays nm nl s).encTab = s.encTab := rfl
@[simp] theorem releaseEncArrays_decTab (nm nl : Nat) (s : State) : (releaseEncArrays nm nl s).decTab = s.decTab := rfl
@[simp] theorem releaseEncArrays_vdecTab (nm nl : Nat) (s : State) : (releaseEncArrays nm nl s).vdecTab = s.vdecTab := rfl
@[simp] theorem releaseEncArrays_hdr (nm nl : Nat) (s : State) : (releaseEncArrays nm nl s).hdr = s.hdr := rfl
@[simp] theorem releaseEncArrays_hdrSize (nm nl : Nat) (s : State) : (releaseEncArrays nm nl s).hdrSize = s.hdrSize := rfl
@[simp] theorem releaseEncArrays_dec (nm nl : Nat) (s : State) : (releaseEncArrays nm nl s).dec = s.dec := rfl
@[simp] theorem releaseEncArrays_src (nm nl : Nat) (s : State) : (releaseEncArrays nm nl s).src = s.src := rfl
@[simp] theorem releaseEncArrays_dst (nm nl : Nat) (s : State) : (releaseEncArrays nm nl s).dst = s.dst := rfl
@[simp] theorem releaseEncArrays_srcSize (nm nl : Nat) (s : State) : (releaseEncArrays nm nl s).srcSize = s.srcSize := rfl
@[simp] theorem releaseEncArrays_dstSize (nm nl : Nat) (s : State) : (releaseEncArrays nm nl s).dstSize = s.dstSize := rfl
@[simp] theorem releaseEncArrays_script (nm nl : Nat) (s : State) : (releaseEncArrays nm nl s).script = s.script := rfl

@[simp] theorem releaseEncLits_cmd (nl : Nat) (s : State) : (releaseEncLits nl s).cmd = s.cmd := rfl
@[simp] theorem releaseEncLits_arg0 (nl : Nat) (s : State) : (releaseEncLits nl s).arg0 = s.arg0 := rfl
@[simp] theorem releaseEncLits_arg1 (nl : Nat) (s : State) : (releaseEncLits nl s).arg1 = s.arg1 := rfl
@[simp] theorem releaseEncLits_arg2 (nl : Nat) (s : State) : (releaseEncLits nl s).arg2 = s.arg2 := rfl
@[simp] theorem releaseEncLits_arg3 (nl : Nat) (s : State) : (releaseEncLits nl s).arg3 = s.arg3 := rfl
@[simp] theorem releaseEncLits_res0 (nl : Nat) (s : State) : (releaseEncLits nl s).res0 = s.res0 := rfl
@[simp] theorem releaseEncLits_res1 (nl : Nat) (s : State) : (releaseEncLits nl s).res1 = s.res1 := rfl
@[simp] theorem releaseEncLits_status (nl : Nat) (s : State) : (releaseEncLits nl s).status = s.status := rfl
@[simp] theorem releaseEncLits_fault (nl : Nat) (s : State) : (releaseEncLits nl s).fault = s.fault := rfl
@[simp] theorem releaseEncLits_faultInfo (nl : Nat) (s : State) : (releaseEncLits nl s).faultInfo = s.faultInfo := rfl
@[simp] theorem releaseEncLits_cur (nl : Nat) (s : State) : (releaseEncLits nl s).cur = s.cur := rfl
@[simp] theorem releaseEncLits_out (nl : Nat) (s : State) : (releaseEncLits nl s).out = s.out := rfl
@[simp] theorem releaseEncLits_in0 (nl : Nat) (s : State) : (releaseEncLits nl s).in0 = s.in0 := rfl
@[simp] theorem releaseEncLits_in1 (nl : Nat) (s : State) : (releaseEncLits nl s).in1 = s.in1 := rfl
@[simp] theorem releaseEncLits_occ (nl : Nat) (s : State) : (releaseEncLits nl s).occ = s.occ := rfl
@[simp] theorem releaseEncLits_freq (nl : Nat) (s : State) : (releaseEncLits nl s).freq = s.freq := rfl
@[simp] theorem releaseEncLits_encTab (nl : Nat) (s : State) : (releaseEncLits nl s).encTab = s.encTab := rfl
@[simp] theorem releaseEncLits_decTab (nl : Nat) (s : State) : (releaseEncLits nl s).decTab = s.decTab := rfl
@[simp] theorem releaseEncLits_vdecTab (nl : Nat) (s : State) : (releaseEncLits nl s).vdecTab = s.vdecTab := rfl
@[simp] theorem releaseEncLits_hdr (nl : Nat) (s : State) : (releaseEncLits nl s).hdr = s.hdr := rfl
@[simp] theorem releaseEncLits_hdrSize (nl : Nat) (s : State) : (releaseEncLits nl s).hdrSize = s.hdrSize := rfl
@[simp] theorem releaseEncLits_dec (nl : Nat) (s : State) : (releaseEncLits nl s).dec = s.dec := rfl
@[simp] theorem releaseEncLits_src (nl : Nat) (s : State) : (releaseEncLits nl s).src = s.src := rfl
@[simp] theorem releaseEncLits_dst (nl : Nat) (s : State) : (releaseEncLits nl s).dst = s.dst := rfl
@[simp] theorem releaseEncLits_srcSize (nl : Nat) (s : State) : (releaseEncLits nl s).srcSize = s.srcSize := rfl
@[simp] theorem releaseEncLits_dstSize (nl : Nat) (s : State) : (releaseEncLits nl s).dstSize = s.dstSize := rfl
@[simp] theorem releaseEncLits_script (nl : Nat) (s : State) : (releaseEncLits nl s).script = s.script := rfl

@[simp] theorem releaseDecLits_cmd (s : State) : (releaseDecLits s).cmd = s.cmd := rfl
@[simp] theorem releaseDecLits_arg0 (s : State) : (releaseDecLits s).arg0 = s.arg0 := rfl
@[simp] theorem releaseDecLits_arg1 (s : State) : (releaseDecLits s).arg1 = s.arg1 := rfl
@[simp] theorem releaseDecLits_arg2 (s : State) : (releaseDecLits s).arg2 = s.arg2 := rfl
@[simp] theorem releaseDecLits_arg3 (s : State) : (releaseDecLits s).arg3 = s.arg3 := rfl
@[simp] theorem releaseDecLits_res0 (s : State) : (releaseDecLits s).res0 = s.res0 := rfl
@[simp] theorem releaseDecLits_res1 (s : State) : (releaseDecLits s).res1 = s.res1 := rfl
@[simp] theorem releaseDecLits_status (s : State) : (releaseDecLits s).status = s.status := rfl
@[simp] theorem releaseDecLits_fault (s : State) : (releaseDecLits s).fault = s.fault := rfl
@[simp] theorem releaseDecLits_faultInfo (s : State) : (releaseDecLits s).faultInfo = s.faultInfo := rfl
@[simp] theorem releaseDecLits_cur (s : State) : (releaseDecLits s).cur = s.cur := rfl
@[simp] theorem releaseDecLits_out (s : State) : (releaseDecLits s).out = s.out := rfl
@[simp] theorem releaseDecLits_in0 (s : State) : (releaseDecLits s).in0 = s.in0 := rfl
@[simp] theorem releaseDecLits_in1 (s : State) : (releaseDecLits s).in1 = s.in1 := rfl
@[simp] theorem releaseDecLits_occ (s : State) : (releaseDecLits s).occ = s.occ := rfl
@[simp] theorem releaseDecLits_freq (s : State) : (releaseDecLits s).freq = s.freq := rfl
@[simp] theorem releaseDecLits_encTab (s : State) : (releaseDecLits s).encTab = s.encTab := rfl
@[simp] theorem releaseDecLits_decTab (s : State) : (releaseDecLits s).decTab = s.decTab := rfl
@[simp] theorem releaseDecLits_vdecTab (s : State) : (releaseDecLits s).vdecTab = s.vdecTab := rfl
@[simp] theorem releaseDecLits_hdr (s : State) : (releaseDecLits s).hdr = s.hdr := rfl
@[simp] theorem releaseDecLits_hdrSize (s : State) : (releaseDecLits s).hdrSize = s.hdrSize := rfl
@[simp] theorem releaseDecLits_enc (s : State) : (releaseDecLits s).enc = s.enc := rfl
@[simp] theorem releaseDecLits_src (s : State) : (releaseDecLits s).src = s.src := rfl
@[simp] theorem releaseDecLits_dst (s : State) : (releaseDecLits s).dst = s.dst := rfl
@[simp] theorem releaseDecLits_srcSize (s : State) : (releaseDecLits s).srcSize = s.srcSize := rfl
@[simp] theorem releaseDecLits_dstSize (s : State) : (releaseDecLits s).dstSize = s.dstSize := rfl
@[simp] theorem releaseDecLits_script (s : State) : (releaseDecLits s).script = s.script := rfl

@[simp] theorem withInAcc_cmd (s : State) (sel : InSel) (x : InAcc) : (s.withInAcc sel x).cmd = s.cmd := by
  cases sel <;> rfl
@[simp] theorem withInAcc_arg0 (s : State) (sel : InSel) (x : InAcc) : (s.withInAcc sel x).arg0 = s.arg0 := by
  cases sel <;> rfl
@[simp] theorem withInAcc_arg1 (s : State) (sel : InSel) (x : InAcc) : (s.withInAcc sel x).arg1 = s.arg1 := by
  cases sel <;> rfl
@[simp] theorem withInAcc_arg2 (s : State) (sel : InSel) (x : InAcc) : (s.withInAcc sel x).arg2 = s.arg2 := by
  cases sel <;> rfl
@[simp] theorem withInAcc_arg3 (s : State) (sel : InSel) (x : InAcc) : (s.withInAcc sel x).arg3 = s.arg3 := by
  cases sel <;> rfl
@[simp] theorem withInAcc_res0 (s : State) (sel : InSel) (x : InAcc) : (s.withInAcc sel x).res0 = s.res0 := by
  cases sel <;> rfl
@[simp] theorem withInAcc_res1 (s : State) (sel : InSel) (x : InAcc) : (s.withInAcc sel x).res1 = s.res1 := by
  cases sel <;> rfl
@[simp] theorem withInAcc_status (s : State) (sel : InSel) (x : InAcc) : (s.withInAcc sel x).status = s.status := by
  cases sel <;> rfl
@[simp] theorem withInAcc_fault (s : State) (sel : InSel) (x : InAcc) : (s.withInAcc sel x).fault = s.fault := by
  cases sel <;> rfl
@[simp] theorem withInAcc_faultInfo (s : State) (sel : InSel) (x : InAcc) : (s.withInAcc sel x).faultInfo = s.faultInfo := by
  cases sel <;> rfl
@[simp] theorem withInAcc_cur (s : State) (sel : InSel) (x : InAcc) : (s.withInAcc sel x).cur = s.cur := by
  cases sel <;> rfl
@[simp] theorem withInAcc_out (s : State) (sel : InSel) (x : InAcc) : (s.withInAcc sel x).out = s.out := by
  cases sel <;> rfl
@[simp] theorem withInAcc_occ (s : State) (sel : InSel) (x : InAcc) : (s.withInAcc sel x).occ = s.occ := by
  cases sel <;> rfl
@[simp] theorem withInAcc_freq (s : State) (sel : InSel) (x : InAcc) : (s.withInAcc sel x).freq = s.freq := by
  cases sel <;> rfl
@[simp] theorem withInAcc_encTab (s : State) (sel : InSel) (x : InAcc) : (s.withInAcc sel x).encTab = s.encTab := by
  cases sel <;> rfl
@[simp] theorem withInAcc_decTab (s : State) (sel : InSel) (x : InAcc) : (s.withInAcc sel x).decTab = s.decTab := by
  cases sel <;> rfl
@[simp] theorem withInAcc_vdecTab (s : State) (sel : InSel) (x : InAcc) : (s.withInAcc sel x).vdecTab = s.vdecTab := by
  cases sel <;> rfl
@[simp] theorem withInAcc_hdr (s : State) (sel : InSel) (x : InAcc) : (s.withInAcc sel x).hdr = s.hdr := by
  cases sel <;> rfl
@[simp] theorem withInAcc_hdrSize (s : State) (sel : InSel) (x : InAcc) : (s.withInAcc sel x).hdrSize = s.hdrSize := by
  cases sel <;> rfl
@[simp] theorem withInAcc_dec (s : State) (sel : InSel) (x : InAcc) : (s.withInAcc sel x).dec = s.dec := by
  cases sel <;> rfl
@[simp] theorem withInAcc_enc (s : State) (sel : InSel) (x : InAcc) : (s.withInAcc sel x).enc = s.enc := by
  cases sel <;> rfl
@[simp] theorem withInAcc_src (s : State) (sel : InSel) (x : InAcc) : (s.withInAcc sel x).src = s.src := by
  cases sel <;> rfl
@[simp] theorem withInAcc_dst (s : State) (sel : InSel) (x : InAcc) : (s.withInAcc sel x).dst = s.dst := by
  cases sel <;> rfl
@[simp] theorem withInAcc_srcSize (s : State) (sel : InSel) (x : InAcc) : (s.withInAcc sel x).srcSize = s.srcSize := by
  cases sel <;> rfl
@[simp] theorem withInAcc_dstSize (s : State) (sel : InSel) (x : InAcc) : (s.withInAcc sel x).dstSize = s.dstSize := by
  cases sel <;> rfl
@[simp] theorem withInAcc_freeTag (s : State) (sel : InSel) (x : InAcc) : (s.withInAcc sel x).freeTag = s.freeTag := by
  cases sel <;> rfl
@[simp] theorem withInAcc_script (s : State) (sel : InSel) (x : InAcc) : (s.withInAcc sel x).script = s.script := by
  cases sel <;> rfl

@[simp] theorem inAcc_withInAcc (s : State) (sel : InSel) (x : InAcc) : (s.withInAcc sel x).inAcc sel = x := by
  cases sel <;> rfl

@[simp] theorem poisonDecOnError_cmd (st : Status) (s : State) : (poisonDecOnError st s).cmd = s.cmd := by
  cases st <;> rfl
@[simp] theorem poisonDecOnError_arg0 (st : Status) (s : State) : (poisonDecOnError st s).arg0 = s.arg0 := by
  cases st <;> rfl
@[simp] theorem poisonDecOnError_arg1 (st : Status) (s : State) : (poisonDecOnError st s).arg1 = s.arg1 := by
  cases st <;> rfl
@[simp] theorem poisonDecOnError_arg2 (st : Status) (s : State) : (poisonDecOnError st s).arg2 = s.arg2 := by
  cases st <;> rfl
@[simp] theorem poisonDecOnError_arg3 (st : Status) (s : State) : (poisonDecOnError st s).arg3 = s.arg3 := by
  cases st <;> rfl
@[simp] theorem poisonDecOnError_res0 (st : Status) (s : State) : (poisonDecOnError st s).res0 = s.res0 := by
  cases st <;> rfl
@[simp] theorem poisonDecOnError_res1 (st : Status) (s : State) : (poisonDecOnError st s).res1 = s.res1 := by
  cases st <;> rfl
@[simp] theorem poisonDecOnError_status (st : Status) (s : State) : (poisonDecOnError st s).status = s.status := by
  cases st <;> rfl
@[simp] theorem poisonDecOnError_fault (st : Status) (s : State) : (poisonDecOnError st s).fault = s.fault := by
  cases st <;> rfl
@[simp] theorem poisonDecOnError_faultInfo (st : Status) (s : State) : (poisonDecOnError st s).faultInfo = s.faultInfo := by
  cases st <;> rfl
@[simp] theorem poisonDecOnError_cur (st : Status) (s : State) : (poisonDecOnError st s).cur = s.cur := by
  cases st <;> rfl
@[simp] theorem poisonDecOnError_out (st : Status) (s : State) : (poisonDecOnError st s).out = s.out := by
  cases st <;> rfl
@[simp] theorem poisonDecOnError_in0 (st : Status) (s : State) : (poisonDecOnError st s).in0 = s.in0 := by
  cases st <;> rfl
@[simp] theorem poisonDecOnError_in1 (st : Status) (s : State) : (poisonDecOnError st s).in1 = s.in1 := by
  cases st <;> rfl
@[simp] theorem poisonDecOnError_occ (st : Status) (s : State) : (poisonDecOnError st s).occ = s.occ := by
  cases st <;> rfl
@[simp] theorem poisonDecOnError_freq (st : Status) (s : State) : (poisonDecOnError st s).freq = s.freq := by
  cases st <;> rfl
@[simp] theorem poisonDecOnError_encTab (st : Status) (s : State) : (poisonDecOnError st s).encTab = s.encTab := by
  cases st <;> rfl
@[simp] theorem poisonDecOnError_decTab (st : Status) (s : State) : (poisonDecOnError st s).decTab = s.decTab := by
  cases st <;> rfl
@[simp] theorem poisonDecOnError_vdecTab (st : Status) (s : State) : (poisonDecOnError st s).vdecTab = s.vdecTab := by
  cases st <;> rfl
@[simp] theorem poisonDecOnError_hdr (st : Status) (s : State) : (poisonDecOnError st s).hdr = s.hdr := by
  cases st <;> rfl
@[simp] theorem poisonDecOnError_hdrSize (st : Status) (s : State) : (poisonDecOnError st s).hdrSize = s.hdrSize := by
  cases st <;> rfl
@[simp] theorem poisonDecOnError_enc (st : Status) (s : State) : (poisonDecOnError st s).enc = s.enc := by
  cases st <;> rfl
@[simp] theorem poisonDecOnError_src (st : Status) (s : State) : (poisonDecOnError st s).src = s.src := by
  cases st <;> rfl
@[simp] theorem poisonDecOnError_dst (st : Status) (s : State) : (poisonDecOnError st s).dst = s.dst := by
  cases st <;> rfl
@[simp] theorem poisonDecOnError_srcSize (st : Status) (s : State) : (poisonDecOnError st s).srcSize = s.srcSize := by
  cases st <;> rfl
@[simp] theorem poisonDecOnError_dstSize (st : Status) (s : State) : (poisonDecOnError st s).dstSize = s.dstSize := by
  cases st <;> rfl
@[simp] theorem poisonDecOnError_freeTag (st : Status) (s : State) : (poisonDecOnError st s).freeTag = s.freeTag := by
  cases st <;> rfl
@[simp] theorem poisonDecOnError_script (st : Status) (s : State) : (poisonDecOnError st s).script = s.script := by
  cases st <;> rfl

@[simp] theorem poisonDecOnError_dec_cur (st : Status) (s : State) : (poisonDecOnError st s).dec.cur = s.dec.cur := by
  cases st <;> rfl

end Sys2Proof.Laws
end

