-- ==== Sys2Proof/Laws/Memory.lean ====
section
/-! SUPPORT. The laws of sparse arrays, arrays with unspecified entries and the byte spaces: read after write, and the canonical
form is kept. -/

namespace Sys2Proof.Laws

open Sys2Proof.Machine

/-! ## Sparse arrays -/

section Sparse

variable {α : Type}

theorem sparseFind_insert_same (m : Sparse α) (i : Nat) (v : α) : sparseFind (sparseInsert m i v) i = some v := by
  induction m with
  | nil => simp [sparseInsert, sparseFind]
  | cons c r ih =>
    obtain ⟨k, w⟩ := c
    unfold sparseInsert
    split
    · simp [sparseFind]
    · split
      · simp [sparseFind]
      · rename_i h1 h2
        simp [sparseFind, ih, Ne.symm h2]

theorem sparseFind_insert_other (m : Sparse α) {i j : Nat} (v : α) (h : j ≠ i) :
    sparseFind (sparseInsert m i v) j = sparseFind m j := by
  induction m with
  | nil => simp [sparseInsert, sparseFind, Ne.symm h]
  | cons c r ih =>
    obtain ⟨k, w⟩ := c
    unfold sparseInsert
    split
    · simp [sparseFind, Ne.symm h]
    · split
      · rename_i h1 h2
        subst h2
        simp [sparseFind, Ne.symm h]
      · simp [sparseFind, ih]

theorem mem_of_sparseFind {m : Sparse α} {i : Nat} {v : α} (h : sparseFind m i = some v) : (i, v) ∈ m := by
  induction m with
  | nil => simp [sparseFind] at h
  | cons c r ih =>
    obtain ⟨k, w⟩ := c
    simp only [sparseFind] at h
    split at h
    · simp_all
    · exact List.mem_cons_of_mem _ (ih h)

theorem sparseFind_filter (m : Sparse α) (p : Nat → Bool) (i : Nat) :
    sparseFind (m.filter fun c => p c.1) i = if p i then sparseFind m i else none := by
  induction m with
  | nil => simp [sparseFind]
  | cons c r ih =>
    obtain ⟨k, w⟩ := c
    by_cases hk : p k
    · rw [List.filter_cons_of_pos (by simpa using hk)]
      by_cases hki : k = i
      · subst hki; simp [sparseFind, hk]
      · simp [sparseFind, hki, ih]
    · rw [List.filter_cons_of_neg (by simpa using hk), ih]
      by_cases hki : k = i
      · subst hki; simp [hk]
      · simp [sparseFind, hki]

theorem sparseFind_erase_same (m : Sparse α) (i : Nat) : sparseFind (sparseErase m i) i = none := by
  have h := sparseFind_filter m (fun k => decide (k ≠ i)) i
  rw [if_neg (by simp)] at h
  exact h

theorem sparseFind_erase_other (m : Sparse α) {i j : Nat} (h : j ≠ i) : sparseFind (sparseErase m i) j = sparseFind m j := by
  have h' := sparseFind_filter m (fun k => decide (k ≠ i)) j
  rw [if_pos (by simpa using h)] at h'
  exact h'

variable [DecidableEq α]

@[simp] theorem sparseGet_set_same (d : α) (m : Sparse α) (i : Nat) (v : α) : sparseGet d (sparseSet d m i v) i = v := by
  unfold sparseSet
  split
  · simp_all [sparseGet, sparseFind_erase_same]
  · simp [sparseGet, sparseFind_insert_same]

theorem sparseGet_set_other (d : α) (m : Sparse α) {i j : Nat} (v : α) (h : j ≠ i) :
    sparseGet d (sparseSet d m i v) j = sparseGet d m j := by
  unfold sparseSet
  split
  · simp [sparseGet, sparseFind_erase_other m h]
  · simp [sparseGet, sparseFind_insert_other m v h]

theorem sparseFind_from (d : α) (l : List α) (i j : Nat) (h : j < i) : sparseFind (sparseFrom d i l) j = none := by
  induction l generalizing i with
  | nil => rfl
  | cons v r ih =>
    unfold sparseFrom
    split
    · exact ih (i + 1) (by omega)
    · have : i ≠ j := by omega
      simp [sparseFind, this, ih (i + 1) (by omega)]

/-- The array made of a list reads as the list. -/
theorem sparseGet_from (d : α) (l : List α) (i j : Nat) : sparseGet d (sparseFrom d i l) (i + j) = l.getD j d := by
  induction l generalizing i j with
  | nil => simp [sparseFrom, sparseGet, sparseFind]
  | cons v r ih =>
    cases j with
    | zero =>
      unfold sparseFrom
      split
      · rename_i h
        simp [sparseGet, sparseFind_from d r (i + 1) i (by omega), h]
      · simp [sparseGet, sparseFind]
    | succ j =>
      have e : i + (j + 1) = i + 1 + j := by omega
      unfold sparseFrom
      split
      · rw [e, ih]; simp
      · have hne : i ≠ i + (j + 1) := by omega
        have := ih (i + 1) j
        simp only [sparseGet] at this ⊢
        rw [sparseFind, if_neg hne, e, this]
        simp

end Sparse

/-! ## Strictly rising indices -/

/-- The indices of a list of cells rise strictly. -/
def rising {α : Type} (m : List (Nat × α)) : Prop := m.Pairwise fun a b => a.1 < b.1

theorem rising_insert {α : Type} {m : Sparse α} (h : rising m) (i : Nat) (v : α) : rising (sparseInsert m i v) := by
  have key : ∀ (m : Sparse α), ∀ c ∈ sparseInsert m i v, c.1 = i ∨ c ∈ m := by
    intro m
    induction m with
    | nil => simp [sparseInsert]
    | cons c r ih =>
      obtain ⟨k, w⟩ := c
      unfold sparseInsert
      split
      · simp +contextual
      · split
        · simp +contextual
        · intro c hc
          rcases List.mem_cons.1 hc with rfl | hc
          · simp
          · rcases ih c hc with h | h <;> simp [h]
  induction m with
  | nil => simp [sparseInsert, rising]
  | cons c r ih =>
    obtain ⟨k, w⟩ := c
    have hr := List.pairwise_cons.1 h
    unfold sparseInsert
    split
    · rename_i hik
      refine List.pairwise_cons.2 ⟨?_, h⟩
      intro c hc
      rcases List.mem_cons.1 hc with rfl | hc
      · exact hik
      · exact lt_trans hik (hr.1 c hc)
    · split
      · rename_i hik
        subst hik
        exact List.pairwise_cons.2 ⟨hr.1, hr.2⟩
      · rename_i h1 h2
        refine List.pairwise_cons.2 ⟨?_, ih hr.2⟩
        intro c hc
        rcases key r c hc with h | h
        · simp only [h]; omega
        · exact hr.1 c h

theorem rising_filter {α : Type} {m : List (Nat × α)} (h : rising m) (p : Nat × α → Bool) : rising (m.filter p) :=
  List.Pairwise.filter p h

/-! ## Arrays with unspecified entries -/

section Arr

variable {α : Type} [DecidableEq α]

@[simp] theorem arrGet_set_same (d : α) (f : Nat → Nat → α) (m : Arr α) (i : Nat) (v : α) :
    arrGet d f (arrSet d m i v) i = v := by
  unfold arrSet
  split
  · rename_i h
    simp [arrGet, sparseFind_erase_same, h.2, h.1]
  · simp [arrGet, sparseFind_insert_same]

theorem arrGet_set_other (d : α) (f : Nat → Nat → α) (m : Arr α) {i j : Nat} (v : α) (h : j ≠ i) :
    arrGet d f (arrSet d m i v) j = arrGet d f m j := by
  unfold arrSet
  split
  · simp [arrGet, sparseFind_erase_other _ h]
  · simp [arrGet, sparseFind_insert_other _ v h]

@[simp] theorem arrSet_spans (d : α) (m : Arr α) (i : Nat) (v : α) : (arrSet d m i v).spans = m.spans := by
  unfold arrSet; split <;> rfl

omit [DecidableEq α] in
theorem spanAt_filter (spans : List Span) (lo hi i : Nat) (h : ¬(lo ≤ i ∧ i < hi)) :
    spanAt (spans.filter fun p => ¬(lo ≤ p.lo ∧ p.hi ≤ hi)) i = spanAt spans i := by
  induction spans with
  | nil => rfl
  | cons p r ih =>
    by_cases hp : lo ≤ p.lo ∧ p.hi ≤ hi
    · rw [List.filter_cons_of_neg (by simpa using hp), ih]
      have : ¬(p.lo ≤ i ∧ i < p.hi) := by omega
      simp [spanAt, this]
    · rw [List.filter_cons_of_pos (by simp only [decide_eq_true_eq]; exact hp)]
      simp only [spanAt, ih]

omit [DecidableEq α] in
/-- A released range reads as before outside it. -/
theorem arrGet_release_outside (d : α) (f : Nat → Nat → α) (m : Arr α) (lo hi tag i : Nat) (h : ¬(lo ≤ i ∧ i < hi)) :
    arrGet d f (arrRelease m lo hi tag) i = arrGet d f m i := by
  have h2 := spanAt_filter m.spans lo hi i h
  have h1 := sparseFind_filter m.cells (fun k => decide ¬(lo ≤ k ∧ k < hi)) i
  rw [if_pos (by simp only [decide_eq_true_eq]; exact h)] at h1
  simp only [arrGet, arrRelease, spanAt, if_neg h]
  rw [h1, h2]

/-- The canonical form as a property: indices rise, and a cell equal to `d` lies under a span. -/
theorem arrWf_iff (d : α) (m : Arr α) :
    arrWf d m = true ↔ rising m.cells ∧ ∀ c ∈ m.cells, c.2 ≠ d ∨ (spanAt m.spans c.1).isSome := by
  obtain ⟨cells, spans⟩ := m
  simp only [arrWf]
  induction cells with
  | nil => simp [cellsWf, rising]
  | cons c r ih =>
    obtain ⟨i, v⟩ := c
    cases r with
    | nil => simp [cellsWf, rising]
    | cons c' r' =>
      obtain ⟨j, w⟩ := c'
      simp only [cellsWf, Bool.and_eq_true, decide_eq_true_eq, ih, Bool.or_eq_true]
      constructor
      · rintro ⟨⟨h1, hij⟩, h2, h3⟩
        refine ⟨?_, ?_⟩
        · refine List.pairwise_cons.2 ⟨?_, h2⟩
          intro c hc
          rcases List.mem_cons.1 hc with rfl | hc
          · exact hij
          · exact lt_trans hij ((List.pairwise_cons.1 h2).1 c hc)
        · intro c hc
          rcases List.mem_cons.1 hc with rfl | hc
          · exact h1
          · exact h3 c hc
      · rintro ⟨h2, h3⟩
        refine ⟨⟨h3 (i, v) (by simp), (List.pairwise_cons.1 h2).1 (j, w) (by simp)⟩, (List.pairwise_cons.1 h2).2, ?_⟩
        intro c hc
        exact h3 c (List.mem_cons_of_mem _ hc)

omit [DecidableEq α] in
theorem mem_sparseInsert (m : Sparse α) (i : Nat) (v : α) : ∀ c ∈ sparseInsert m i v, c = (i, v) ∨ c ∈ m := by
  induction m with
  | nil => simp [sparseInsert]
  | cons c r ih =>
    obtain ⟨k, w⟩ := c
    unfold sparseInsert
    split
    · simp +contextual
    · split
      · intro c hc
        rcases List.mem_cons.1 hc with rfl | hc
        · exact .inl rfl
        · exact .inr (List.mem_cons_of_mem _ hc)
      · intro c hc
        rcases List.mem_cons.1 hc with rfl | hc
        · simp
        · rcases ih c hc with h | h <;> simp [h]

/-- A write keeps the canonical form. -/
theorem arrSet_wf (d : α) (m : Arr α) (i : Nat) (v : α) (h : arrWf d m = true) : arrWf d (arrSet d m i v) = true := by
  rw [arrWf_iff] at h ⊢
  unfold arrSet
  split
  · refine ⟨rising_filter h.1 _, ?_⟩
    intro c hc
    exact h.2 c (List.mem_of_mem_filter hc)
  · rename_i hv
    refine ⟨rising_insert h.1 i v, ?_⟩
    intro c hc
    rcases mem_sparseInsert m.cells i v c hc with rfl | hc
    · by_cases hd : v = d
      · right
        cases hs : spanAt m.spans i with
        | none => exact absurd ⟨hd, hs⟩ hv
        | some t => simp
      · exact .inl hd
    · exact h.2 c hc

/-- Releasing a range keeps the canonical form. -/
theorem arrRelease_wf (d : α) (m : Arr α) (lo hi tag : Nat) (h : arrWf d m = true) :
    arrWf d (arrRelease m lo hi tag) = true := by
  rw [arrWf_iff] at h ⊢
  refine ⟨rising_filter h.1 _, ?_⟩
  intro c hc
  obtain ⟨hm, hc⟩ := List.mem_filter.1 hc
  have hc : ¬(lo ≤ c.1 ∧ c.1 < hi) := by simpa only [decide_eq_true_eq] using hc
  rcases h.2 c hm with h | h
  · exact .inl h
  · right
    simp only [arrRelease, spanAt, if_neg hc]
    rw [spanAt_filter _ _ _ _ hc]
    exact h

theorem arrSetAll_wf (d : α) (m : Arr α) (i : Nat) (l : List α) (h : arrWf d m = true) :
    arrWf d (arrSetAll d m i l) = true := by
  induction l generalizing m i with
  | nil => exact h
  | cons v r ih => exact ih _ _ (arrSet_wf d m i v h)

theorem arrGet_setAll_outside (d : α) (f : Nat → Nat → α) (m : Arr α) (i j : Nat) (l : List α)
    (h : j < i ∨ i + l.length ≤ j) : arrGet d f (arrSetAll d m i l) j = arrGet d f m j := by
  induction l generalizing m i with
  | nil => rfl
  | cons v r ih =>
    simp only [List.length_cons] at h
    rw [arrSetAll, ih _ _ (by omega), arrGet_set_other _ _ _ _ (by omega)]

theorem arrGet_setAll_inside (d : α) (f : Nat → Nat → α) (m : Arr α) (i j : Nat) (l : List α) (h : j < l.length) :
    arrGet d f (arrSetAll d m i l) (i + j) = l[j] := by
  induction l generalizing m i j with
  | nil => simp at h
  | cons v r ih =>
    rw [arrSetAll]
    cases j with
    | zero => rw [arrGet_setAll_outside _ _ _ _ _ _ (by omega)]; simp
    | succ j =>
      have := ih (arrSet d m i v) (i + 1) j (by simpa using h)
      rw [show i + (j + 1) = i + 1 + j by omega, this]
      simp

end Arr

/-! ## Bytes -/

theorem reset_src_wf : State.reset.src.wf = true := by decide

theorem reset_dst_wf : State.reset.dst.wf = true := by decide

@[simp] theorem readByte_writeByte_same (m : Memory) (a : Nat) (b : U8) : readByte (writeByte m a b) a = b :=
  arrGet_set_same _ _ _ _ _

theorem readByte_writeByte_other (m : Memory) {a c : Nat} (b : U8) (h : c ≠ a) :
    readByte (writeByte m a b) c = readByte m c :=
  arrGet_set_other _ _ _ _ h

theorem writeByte_wf (m : Memory) (a : Nat) (b : U8) (h : m.wf = true) : (writeByte m a b).wf = true :=
  arrSet_wf _ _ _ _ h

theorem writeBytes_wf (m : Memory) (a : Nat) (l : List U8) (h : m.wf = true) : (writeBytes m a l).wf = true := by
  induction l generalizing m a with
  | nil => exact h
  | cons b r ih => exact ih _ _ (writeByte_wf m a b h)

theorem readByte_writeBytes_outside (m : Memory) (a c : Nat) (l : List U8) (h : c < a ∨ a + l.length ≤ c) :
    readByte (writeBytes m a l) c = readByte m c := by
  induction l generalizing m a with
  | nil => rfl
  | cons b r ih =>
    simp only [List.length_cons] at h
    rw [writeBytes, ih _ _ (by omega), readByte_writeByte_other _ _ (by omega)]

theorem readByte_writeBytes_inside (m : Memory) (a j : Nat) (l : List U8) (h : j < l.length) :
    readByte (writeBytes m a l) (a + j) = l[j] := by
  induction l generalizing m a j with
  | nil => simp at h
  | cons b r ih =>
    rw [writeBytes]
    cases j with
    | zero => rw [readByte_writeBytes_outside _ _ _ _ (by omega)]; simp
    | succ j =>
      rw [show a + (j + 1) = a + 1 + j by omega, ih _ _ _ (by simpa using h)]
      simp

@[simp] theorem readBytes_length (m : Memory) (a n : Nat) : (readBytes m a n).length = n := by
  induction n generalizing a with
  | zero => rfl
  | succ n ih => simp [readBytes, ih]

theorem readBytes_getElem (m : Memory) (a n j : Nat) (h : j < (readBytes m a n).length) :
    (readBytes m a n)[j] = readByte m (a + j) := by
  induction n generalizing a j with
  | zero => simp [readBytes] at h
  | succ n ih =>
    cases j with
    | zero => simp [readBytes]
    | succ j => simp only [readBytes, List.getElem_cons_succ]; rw [ih]; congr 1; omega

/-- Bytes read where they were written. -/
theorem readBytes_writeBytes (m : Memory) (a : Nat) (l : List U8) : readBytes (writeBytes m a l) a l.length = l := by
  apply List.ext_getElem
  · simp
  · intro j h1 h2
    rw [readBytes_getElem, readByte_writeBytes_inside _ _ _ _ h2]

@[simp] theorem leBytes_length (n v : Nat) : (leBytes n v).length = n := by
  induction n generalizing v with
  | zero => rfl
  | succ n ih => simp [leBytes, ih]

/-- A number read back from its little-endian bytes (20_memory.md R73). -/
theorem leValue_leBytes (n v : Nat) : leValue (leBytes n v) = v % 256 ^ n := by
  induction n generalizing v with
  | zero => simp [leBytes, leValue, Nat.mod_one]
  | succ n ih =>
    simp only [leBytes, leValue, ih, BitVec.toNat_ofNat]
    rw [show (2 : Nat) ^ 8 = 256 by rfl, show 256 ^ (n + 1) = 256 * 256 ^ n from pow_succ' _ _, Nat.mod_mul]

theorem leValue_lt (l : List U8) : leValue l < 256 ^ l.length := by
  induction l with
  | nil => simp [leValue]
  | cons b r ih =>
    have hb := b.isLt
    simp only [leValue, List.length_cons, pow_succ]
    omega

/-- MemRead after MemWrite (20_memory.md R73). -/
theorem memRead_memWrite (m : Memory) (a n v : Nat) : memRead (memWrite m a n v) a n = v % 256 ^ n := by
  have h := readBytes_writeBytes m a (leBytes n v)
  rw [leBytes_length] at h
  rw [memRead, memWrite, h, leValue_leBytes]

/-! ## What stores and releases do to DST -/

theorem releaseDst_outside (lo hi : Nat) (s : State) (a : Nat) (h : ¬(lo ≤ a ∧ a < hi)) :
    readByte (releaseDst lo hi s).dst a = readByte s.dst a := by
  unfold releaseDst
  split
  · exact arrGet_release_outside _ _ _ _ _ _ _ h
  · rfl

theorem releaseDst_wf (lo hi : Nat) (s : State) (h : s.dst.wf = true) : (releaseDst lo hi s).dst.wf = true := by
  unfold releaseDst
  split
  · exact arrRelease_wf _ _ _ _ _ h
  · exact h

end Sys2Proof.Laws
end

