-- ==== Sys2Proof/Laws/Decoder.lean ====
section
/-! SUPPORT. What the decoder engine never changes, and that DEC_STEP's step bound is always enough (log entry 18). -/

namespace Sys2Proof.Laws

open Sys2Proof.Machine

/-- Everything that the decoder engine's bodies leave alone. -/
def decKey (s : State) :=
  (s.cmd, s.arg0, s.arg1, s.arg2, s.arg3, s.res0, s.res1, s.status, s.fault, s.faultInfo, s.out, s.occ, s.encTab, s.enc,
    s.src, s.srcSize, s.dstSize, s.script)

/-- The state a block step ends in. -/
def blockState : BlockStep → State
  | .cont s => s
  | .stop _ s => s

/-- The state a stretch of LMD_LOOP ends in. -/
def lmdState : LmdStep → State
  | .done s => s
  | .dstFull s => s
  | .error s => s

/-- The state a pull ends in. -/
def pulledState : Pulled → State
  | .triplet _ _ _ s => s
  | .error s => s

/-- What LMD_LOOP leaves alone besides: the decoder's source cursors, its block and its LMD payload. -/
def lmdKey (s : State) :=
  (decKey s, s.dec.cur.srcBegin, s.dec.cur.srcPos, s.dec.cur.srcEnd, s.dec.cur.dstBegin, s.dec.cur.dstEnd, s.dec.block,
    s.dec.nLmdPayloadBytes, s.dec.endOfStream, s.dec.poisoned)

/-! ## Literals -/

theorem literalStep_keys {i x n : Nat} {s t : State} (h : literalStep i x s = some (n, t)) :
    decKey t = decKey s ∧ t.dec.cur = s.dec.cur ∧ t.dec.block = s.dec.block ∧ t.hdr = s.hdr := by
  unfold literalStep at h
  split at h
  · cases h
  · simp only [Option.some.injEq, Prod.mk.injEq] at h
    obtain ⟨_, rfl⟩ := h
    exact ⟨rfl, rfl, rfl, rfl⟩

/-- The parts of the state that decoding literals keeps. -/
def litKey (s : State) := (decKey s, s.dec.cur, s.dec.block, s.hdr)

theorem literalStep_key {i x n : Nat} {s t : State} (h : literalStep i x s = some (n, t)) : litKey t = litKey s := by
  obtain ⟨h1, h2, h3, h4⟩ := literalStep_keys h
  simp only [litKey, h1, h2, h3, h4]

theorem literalGroup_key (g : Nat) (x : LitStates) (s : State) : litKey (literalGroup g x s).2.2 = litKey s := by
  unfold literalGroup
  split
  · rfl
  · rename_i st _
    have hF : litKey { s with in0 := st } = litKey s := rfl
    dsimp only
    split
    · exact hF
    · rename_i hA
      have eA := literalStep_key hA
      split
      · exact eA.trans hF
      · rename_i hB
        have eB := literalStep_key hB
        split
        · exact eB.trans (eA.trans hF)
        · rename_i hC
          have eC := literalStep_key hC
          split
          · exact eC.trans (eB.trans (eA.trans hF))
          · rename_i hD
            exact (literalStep_key hD).trans (eC.trans (eB.trans (eA.trans hF)))

theorem literalGroups_key (count g : Nat) (x : LitStates) (s : State) :
    litKey (literalGroups count g x s).2 = litKey s := by
  induction count generalizing g x s with
  | zero => rfl
  | succ n ih =>
    have hg := literalGroup_key g x s
    rw [literalGroups]
    split
    · rename_i h; rw [h] at hg; exact hg
    · rename_i h; rw [h] at hg; rw [ih]; exact hg

theorem decodeLiterals_key (q : Nat) (s : State) : litKey (decodeLiterals q s).2 = litKey s := by
  unfold decodeLiterals
  dsimp only
  split
  · rfl
  · rename_i x _
    have h := literalGroups_key (s.hdr.nLiterals.toNat / 4) 0
      { s0 := s.hdr.literalState0.toNat, s1 := s.hdr.literalState1.toNat, s2 := s.hdr.literalState2.toNat,
        s3 := s.hdr.literalState3.toNat } { s with in0 := x }
    split
    · rename_i hs; rw [hs] at h; exact h
    · rename_i hs; rw [hs] at h; exact h

theorem initLmd_key (q : Nat) (s : State) : litKey (initLmd q s).2 = litKey s := by
  unfold initLmd
  split <;> rfl

/-! ## The LMD loop -/

theorem putDstByte_key (b : U8) (s : State) : lmdKey (putDstByte b s) = lmdKey s := rfl

theorem copyLiterals_key (n : Nat) (s : State) : lmdKey (copyLiterals n s) = lmdKey s := by
  induction n generalizing s with
  | zero => rfl
  | succ n ih => rw [copyLiterals]; exact (ih _).trans rfl

theorem copyMatch_key (d n : Nat) (s : State) : lmdKey (copyMatch d n s) = lmdKey s := by
  induction n generalizing s with
  | zero => rfl
  | succ n ih => rw [copyMatch]; exact (ih _).trans rfl

theorem savePending_key (l m : Nat) (d : Int) (s : State) : lmdKey (savePending l m d s) = lmdKey s := rfl

theorem copyTriplet_key (l m : Nat) (d : Int) (s : State) : lmdKey (copyTriplet l m d s).2 = lmdKey s := by
  unfold copyTriplet
  dsimp only
  split
  · exact (savePending_key _ _ _ _).trans (copyLiterals_key _ _)
  · split
    · exact (savePending_key _ _ _ _).trans ((copyMatch_key _ _ _).trans (copyLiterals_key _ _))
    · exact (savePending_key _ _ _ _).trans ((copyMatch_key _ _ _).trans (copyLiterals_key _ _))

theorem runTriplet_key (l m : Nat) (d : Int) (s : State) : lmdKey (lmdState (runTriplet l m d s)) = lmdKey s := by
  unfold runTriplet
  split
  · rfl
  · have h := copyTriplet_key l m d s
    split
    · rename_i e; rw [e] at h; exact h
    · rename_i e; rw [e] at h; exact h

theorem pullValue_key {sel : VSel} {x : U16} {s t : State} {v : Int} {y : U16} (h : pullValue sel x s = some (v, y, t)) :
    lmdKey t = lmdKey s := by
  unfold pullValue at h
  split at h
  · cases h
  · simp only [Option.some.injEq, Prod.mk.injEq] at h
    obtain ⟨_, _, rfl⟩ := h
    rfl

theorem pullTriplet_key (s : State) : lmdKey (pulledState (pullTriplet s)) = lmdKey s := by
  unfold pullTriplet
  split
  · rfl
  · dsimp only
    split
    · rfl
    · rename_i hl
      have el := pullValue_key hl
      split
      · exact Eq.trans rfl el
      · split
        · exact Eq.trans rfl el
        · rename_i hm
          have em := pullValue_key hm
          split
          · exact Eq.trans rfl (em.trans (Eq.trans rfl el))
          · rename_i hd
            have ed := pullValue_key hd
            exact Eq.trans rfl (ed.trans (Eq.trans rfl (em.trans (Eq.trans rfl el))))

theorem lmdTriplets_key (n : Nat) (s : State) : lmdKey (lmdState (lmdTriplets n s)) = lmdKey s := by
  induction n generalizing s with
  | zero => rfl
  | succ n ih =>
    have hp := pullTriplet_key s
    rw [lmdTriplets]
    split
    · rename_i e; rw [e] at hp; exact hp
    · rename_i l m d s' e
      rw [e] at hp
      have hr := runTriplet_key l m d s'
      split
      · rename_i e'; rw [e'] at hr; exact (ih _).trans (hr.trans hp)
      · rename_i e'; rw [e'] at hr; exact hr.trans hp
      · rename_i e'; rw [e'] at hr; exact hr.trans hp

theorem lmdLoop_key (s : State) : lmdKey (lmdState (lmdLoop s)) = lmdKey s := by
  unfold lmdLoop
  split
  · exact lmdTriplets_key _ _
  · have hr := runTriplet_key s.dec.pendL.toNat s.dec.pendM.toNat s.dec.curD.toInt s
    split
    · rename_i e; rw [e] at hr; exact (lmdTriplets_key _ _).trans hr
    · rename_i e; rw [e] at hr; exact hr
    · rename_i e; rw [e] at hr; exact hr

/-! ## One block step -/

theorem openWith_key (b : Block) (p : Nat) (h : Hdr) (f : List Nat) (hs : Nat) (s : State) :
    decKey (blockState (openWith b p h f hs s)) = decKey s := by
  unfold openWith
  split
  · rfl
  · dsimp only
    split
    · rfl
    · have hd := congrArg Prod.fst (decodeLiterals_key (p + hs) (buildBlockTables (loadHeader h f hs s)))
      split
      · rename_i e; rw [e] at hd; exact hd
      · rename_i s' e
        rw [e] at hd
        have hi := congrArg Prod.fst (initLmd_key (p + hs + h.nLiteralPayloadBytes.toNat) s')
        unfold openLmd
        split
        · rename_i e'; rw [e'] at hi; exact hi.trans hd
        · rename_i e'; rw [e'] at hi; exact hi.trans hd

theorem betweenBlocks_key (s : State) : decKey (blockState (betweenBlocks s)) = decKey s := by
  unfold betweenBlocks
  dsimp only
  split
  · rfl
  · split
    · rfl
    · split
      · split <;> rfl
      · split
        · split <;> rfl
        · split
          · unfold openV1
            dsimp only
            split
            · rfl
            · exact openWith_key _ _ _ _ _ _
          · split
            · unfold openV2
              dsimp only
              split
              · rfl
              · rfl
              · exact openWith_key _ _ _ _ _ _
            · rfl

theorem rawBlock_key (s : State) : decKey (blockState (rawBlock s)) = decKey s := by
  unfold rawBlock
  dsimp only
  split
  · rfl
  · split
    · rfl
    · split <;> rfl

theorem compressedBlock_key (s : State) : decKey (blockState (compressedBlock s)) = decKey s := by
  unfold compressedBlock
  dsimp only
  split
  · rfl
  · have h := congrArg Prod.fst (lmdLoop_key s)
    split
    · rename_i e; rw [e] at h; exact h
    · rename_i e; rw [e] at h; exact h
    · rename_i e; rw [e] at h; exact h

theorem secondaryBlock_key (s : State) : decKey (blockState (secondaryBlock s)) = decKey s := by
  unfold secondaryBlock
  split
  · rfl
  · unfold secondaryAnswer
    split
    · rfl
    · dsimp only
      split
      · rfl
      · split <;> rfl

theorem blockStep_key (s : State) : decKey (blockState (blockStep s)) = decKey s := by
  unfold blockStep
  split
  · exact betweenBlocks_key s
  · exact rawBlock_key s
  · exact compressedBlock_key s
  · exact compressedBlock_key s
  · exact secondaryBlock_key s

/-- DEC_STEP's loop keeps what the decoder does not own. -/
theorem blockLoop_key (fuel : Nat) (s : State) {st : Status} {t : State} (h : blockLoop fuel s = some (st, t)) :
    decKey t = decKey s := by
  induction fuel generalizing s with
  | zero => cases h
  | succ n ih =>
    have hb := blockStep_key s
    rw [blockLoop] at h
    split at h
    · rename_i e; rw [e] at hb
      simp only [Option.some.injEq, Prod.mk.injEq] at h
      obtain ⟨_, rfl⟩ := h
      exact hb
    · rename_i e; rw [e] at hb; exact (ih _ h).trans hb

/-! ## The step bound is enough -/

/-- The bytes of source left, twice, and one for an open block. -/
def blockMeasure (s : State) : Nat :=
  2 * (s.dec.cur.srcEnd.toNat - s.dec.cur.srcPos.toNat) + if s.dec.block = .noBlock then 0 else 1

theorem nat64_toNat_le {n : Nat} {m : U64} (h : n ≤ m.toNat) : (nat64 n).toNat = n := by
  have := m.isLt
  simp only [nat64, BitVec.toNat_ofNat]
  omega

theorem openWith_cont {b : Block} {p hs : Nat} {h : Hdr} {f : List Nat} {s t : State} (hp : p = s.dec.cur.srcPos.toNat)
    (hhs : 1 ≤ hs) (hb : s.dec.block = .noBlock) (e : openWith b p h f hs s = .cont t) :
    blockMeasure t < blockMeasure s := by
  unfold openWith at e
  split at e
  · cases e
  · rename_i hlim
    dsimp only at e
    split at e
    · cases e
    · have hd := decodeLiterals_key (p + hs) (buildBlockTables (loadHeader h f hs s))
      split at e
      · cases e
      · rename_i s' e'
        rw [e'] at hd
        have hi := initLmd_key (p + hs + h.nLiteralPayloadBytes.toNat) s'
        unfold openLmd at e
        split at e
        · cases e
        · rename_i s'' e''
          rw [e''] at hi
          have hk := hi.trans hd
          simp only [BlockStep.cont.injEq] at e
          subst e
          have hc : s''.dec.cur = s.dec.cur := congrArg (fun k => k.2.1) hk
          have hq : p + hs + h.nLiteralPayloadBytes.toNat ≤ s.dec.cur.srcEnd.toNat := by omega
          simp only [blockMeasure, hc, hb, nat64_toNat_le hq, if_true]
          split <;> omega

theorem blockStep_cont {s t : State} (e : blockStep s = .cont t) : blockMeasure t < blockMeasure s := by
  unfold blockStep at e
  split at e
  · rename_i hb
    unfold betweenBlocks at e
    dsimp only at e
    split at e
    · cases e
    · split at e
      · cases e
      · split at e
        · split at e
          · cases e
          · rename_i h8
            simp only [BlockStep.cont.injEq] at e
            subst e
            have hq : s.dec.cur.srcPos.toNat + 8 ≤ s.dec.cur.srcEnd.toNat := by omega
            simp only [blockMeasure, hb, nat64_toNat_le hq, if_true]
            split <;> omega
        · split at e
          · split at e
            · cases e
            · rename_i h12
              simp only [BlockStep.cont.injEq] at e
              subst e
              have hq : s.dec.cur.srcPos.toNat + 12 ≤ s.dec.cur.srcEnd.toNat := by omega
              simp only [blockMeasure, hb, nat64_toNat_le hq, if_true]
              split <;> omega
          · split at e
            · unfold openV1 at e
              dsimp only at e
              split at e
              · cases e
              · exact openWith_cont rfl (by decide) hb e
            · split at e
              · unfold openV2 at e
                dsimp only at e
                split at e
                · cases e
                · cases e
                · rename_i h f hs hu
                  refine openWith_cont rfl ?_ hb e
                  unfold unpackHeader at hu
                  split at hu
                  · cases hu
                  · dsimp only at hu
                    split at hu
                    · cases hu
                    · split at hu
                      · cases hu
                      · split at hu
                        · cases hu
                        · simp only [Unpacked.ok.injEq] at hu
                          omega
              · cases e
  · rename_i hb
    unfold rawBlock at e
    dsimp only at e
    split at e
    · simp only [BlockStep.cont.injEq] at e
      subst e
      simp [blockMeasure, setDecBlock, hb]
    · split at e
      · cases e
      · split at e
        · cases e
        · rename_i hn hs hd
          simp only [BlockStep.cont.injEq] at e
          subst e
          have hq : s.dec.cur.srcPos.toNat + min (min s.dec.rawRemaining.toNat
              (s.dec.cur.srcEnd.toNat - s.dec.cur.srcPos.toNat)) (s.dec.cur.dstEnd.toNat - s.dec.cur.dstPos.toNat)
              ≤ s.dec.cur.srcEnd.toNat := by omega
          simp only [blockMeasure, copyRaw, nat64_toNat_le hq, hb, reduceCtorEq, if_false]
          omega
  all_goals
    first
    | (rename_i hb
       unfold compressedBlock at e
       dsimp only at e
       split at e
       · cases e
       · rename_i hc
         have h := lmdLoop_key s
         split at e
         · cases e
         · cases e
         · rename_i s' e'
           rw [e'] at h
           simp only [BlockStep.cont.injEq] at e
           subst e
           have hp : s'.dec.cur.srcPos = s.dec.cur.srcPos := congrArg (fun k => k.2.2.1) h
           have he : s'.dec.cur.srcEnd = s.dec.cur.srcEnd := congrArg (fun k => k.2.2.2.1) h
           have hl : s'.dec.nLmdPayloadBytes = s.dec.nLmdPayloadBytes := congrArg (fun k => k.2.2.2.2.2.2.2.1) h
           have hq : s.dec.cur.srcPos.toNat + s.dec.nLmdPayloadBytes.toNat ≤ s.dec.cur.srcEnd.toNat := by omega
           simp only [blockMeasure, setDecSrcPos, setDecBlock, hp, he, hl, hb, nat64_toNat_le hq]
           simp
           omega)
    | skip
  · rename_i hb
    unfold secondaryBlock at e
    split at e
    · cases e
    · rename_i hv
      unfold secondaryAnswer at e
      split at e
      · cases e
      · rename_i hcon
        dsimp only at e
        split at e
        · simp only [BlockStep.cont.injEq] at e
          subst e
          have hq : s.dec.cur.srcPos.toNat + (Config.secondaryDecode (secondaryCall s)).consumed
              ≤ s.dec.cur.srcEnd.toNat := by omega
          simp only [blockMeasure, setDecBlock, secondaryApply, nat64_toNat_le hq, hb]
          simp
          omega
        · split at e <;> cases e

theorem blockLoop_isSome (fuel : Nat) (s : State) (h : blockMeasure s < fuel) : (blockLoop fuel s).isSome := by
  induction fuel generalizing s with
  | zero => omega
  | succ n ih =>
    rw [blockLoop]
    split
    · rfl
    · rename_i e
      exact ih _ (by have := blockStep_cont e; omega)

theorem blockMeasure_lt (s : State) : blockMeasure s < blockBound s := by
  simp only [blockMeasure, blockBound]
  split <;> omega

/-- DEC_STEP never meets its step bound: the fault `stepBound` is unreachable (log entry 18). -/
theorem decRun_isSome (s : State) : (decRun s).isSome := by
  unfold decRun
  split
  · rfl
  · have h := blockLoop_isSome (blockBound s) s (blockMeasure_lt s)
    split
    · rename_i e; rw [e] at h; simp at h
    · rfl

end Sys2Proof.Laws
end

