-- ==== Sys2Proof/Laws/Encoder.lean ====
section
/-! SUPPORT. What the encoder's bodies never change, function by function. -/

namespace Sys2Proof.Laws

open Sys2Proof.Machine

/-- Everything that the encoder's bodies leave alone. -/
def encKey (s : State) :=
  (s.cmd, s.arg0, s.arg1, s.arg2, s.arg3, s.res0, s.res1, s.status, s.fault, s.faultInfo, s.cur, s.in0, s.in1, s.decTab,
    s.vdecTab, s.dec, s.src, s.srcSize, s.dstSize, s.script)

theorem releaseDst_key (lo hi : Nat) (s : State) : encKey (releaseDst lo hi s) = encKey s := by
  unfold releaseDst; split <;> rfl

theorem appendTriplet_key (l m d : Nat) (b : List U8) (s : State) : encKey (appendTriplet l m d b s) = encKey s := rfl

theorem undoPush_key (s s' : State) : encKey (undoPush s s') = encKey s' := rfl

theorem histograms_key (b : BlockSymbols) (s : State) : encKey (histograms b s) = encKey s := rfl

theorem substituteDistances_key (s : State) : encKey (substituteDistances s) = encKey s := rfl

theorem padLiterals_key (s : State) : encKey (padLiterals s) = encKey s := rfl

theorem poisonEnc_key (s : State) : encKey (poisonEnc s) = encKey s := rfl

theorem dropPending_key (s : State) : encKey (dropPending s) = encKey s := rfl

theorem setPending_key (m : Match) (s : State) : encKey (setPending m s) = encKey s := rfl

theorem recordPosition_key (pos : Int) (x h : Nat) (old : Bucket) (s : State) :
    encKey (recordPosition pos x h old s) = encKey s := rfl

theorem setEncSrcEnd_key (e : Nat) (s : State) : encKey (setEncSrcEnd e s) = encKey s := rfl

theorem pushLmd_key {l m d : Nat} {s t : State} {b : Bool} (h : pushLmd l m d s = .ok (b, t)) : encKey t = encKey s := by
  unfold pushLmd at h
  split at h
  · simp only [Except.ok.injEq, Prod.mk.injEq] at h; obtain ⟨_, rfl⟩ := h; rfl
  · split at h
    · cases h
    · simp only [Except.ok.injEq, Prod.mk.injEq] at h; obtain ⟨_, rfl⟩ := h; rfl

theorem pushRuns_key {q : Nat} {s t : State} {b : Bool} (h : pushRuns q s = .ok (b, t)) : encKey t = encKey s := by
  induction q generalizing s with
  | zero => simp only [pushRuns, Except.ok.injEq, Prod.mk.injEq] at h; obtain ⟨_, rfl⟩ := h; rfl
  | succ q ih =>
    rw [pushRuns] at h
    split at h
    · cases h
    · rename_i e
      simp only [Except.ok.injEq, Prod.mk.injEq] at h; obtain ⟨_, rfl⟩ := h
      exact pushLmd_key e
    · rename_i e; exact (ih h).trans (pushLmd_key e)

theorem pushPieces_key {d m q l : Nat} {s t : State} {b : Bool} (h : pushPieces d m q l s = .ok (b, t)) :
    encKey t = encKey s := by
  induction q generalizing l s with
  | zero =>
    rw [pushPieces] at h
    split at h
    · exact pushLmd_key h
    · simp only [Except.ok.injEq, Prod.mk.injEq] at h; obtain ⟨_, rfl⟩ := h; rfl
  | succ q ih =>
    rw [pushPieces] at h
    split at h
    · cases h
    · rename_i e
      simp only [Except.ok.injEq, Prod.mk.injEq] at h; obtain ⟨_, rfl⟩ := h
      exact pushLmd_key e
    · rename_i e; exact (ih h).trans (pushLmd_key e)

theorem pushSplit_key {l m d : Nat} {s t : State} {b : Bool} (h : pushSplit l m d s = .ok (b, t)) : encKey t = encKey s := by
  unfold pushSplit at h
  dsimp only at h
  split at h
  · cases h
  · rename_i e
    simp only [Except.ok.injEq, Prod.mk.injEq] at h; obtain ⟨_, rfl⟩ := h
    exact pushRuns_key e
  · rename_i e; exact (pushPieces_key h).trans (pushRuns_key e)

theorem raiseIf_ok {α : Type} {c : Bool} {k : Cause} {i : U64} {e : Except Trap α} {x : α}
    (h : raiseIf c k i e = .ok x) : c = false ∧ e = .ok x := by
  unfold raiseIf at h
  split at h
  · cases h
  · rename_i hc; exact ⟨by simpa using hc, h⟩

theorem raiseOpt_ok {α : Type} {o : Option Trap} {e : Except Trap α} {x : α} (h : raiseOpt o e = .ok x) :
    o = none ∧ e = .ok x := by
  unfold raiseOpt at h
  split at h
  · cases h
  · exact ⟨rfl, h⟩

theorem pushMatch_key {pos ref : Int} {n : Nat} {s t : State} {b : Bool} (h : pushMatch pos ref n s = .ok (b, t)) :
    encKey t = encKey s := by
  unfold pushMatch at h
  replace h := (raiseIf_ok (raiseIf_ok (raiseIf_ok h).2).2).2
  split at h
  · cases h
  · rename_i e
    simp only [Except.ok.injEq, Prod.mk.injEq] at h; obtain ⟨_, rfl⟩ := h
    exact pushSplit_key e
  · rename_i e
    simp only [Except.ok.injEq, Prod.mk.injEq] at h; obtain ⟨_, rfl⟩ := h
    exact (undoPush_key _ _).trans (pushSplit_key e)

theorem buildTables_key {s t : State} (h : buildTables s = .ok t) : encKey t = encKey s := by
  unfold buildTables at h
  split at h
  · cases h
  · split at h
    · cases h
    · split at h
      · cases h
      · split at h
        · cases h
        · simp only [Except.ok.injEq] at h; subst h; rfl

/-- The state a payload stage ends in. -/
def stageState : Stage → State
  | .done _ s => s
  | .full s => s

theorem encodeLiterals_key {q : Nat} {b : BlockSymbols} {s : State} {r : Stage} (h : encodeLiterals q b s = .ok r) :
    encKey (stageState r) = encKey s := by
  unfold encodeLiterals at h
  split at h
  · cases h
  · simp only [Except.ok.injEq] at h; subst h; rfl
  · simp only [Except.ok.injEq] at h; subst h; rfl

theorem encodeLmd_key {q : Nat} {b : BlockSymbols} {s : State} {r : Stage} (h : encodeLmd q b s = .ok r) :
    encKey (stageState r) = encKey s := by
  unfold encodeLmd at h
  split at h
  · simp only [Except.ok.injEq] at h; subst h; rfl
  · split at h
    · cases h
    · simp only [Except.ok.injEq] at h; subst h; rfl
    · simp only [Except.ok.injEq] at h; subst h; rfl

theorem rollback_key (s0 s : State) : encKey (rollback s0 s) = encKey s := by
  unfold rollback
  rw [releaseDst_key]
  rfl

theorem closeBlock_key {n : Nat} {p : List U8} {s t : State} (h : closeBlock n p s = .ok t) : encKey t = encKey s := by
  unfold closeBlock at h
  replace h := (raiseOpt_ok h).2
  simp only [Except.ok.injEq] at h
  subst h
  exact Eq.trans rfl (releaseDst_key _ _ _)

theorem emitPayload_key {s0 s t : State} {y : BlockSymbols} {b : Bool} (h : emitPayload s0 y s = .ok (b, t)) :
    encKey t = encKey s := by
  unfold emitPayload at h
  dsimp only at h
  split at h
  · cases h
  · rename_i e
    simp only [Except.ok.injEq, Prod.mk.injEq] at h; obtain ⟨_, rfl⟩ := h
    exact (rollback_key _ _).trans (encodeLiterals_key e)
  · rename_i e
    have h1 := encodeLiterals_key e
    split at h
    · cases h
    · rename_i e'
      simp only [Except.ok.injEq, Prod.mk.injEq] at h; obtain ⟨_, rfl⟩ := h
      exact (rollback_key _ _).trans ((encodeLmd_key e').trans h1)
    · rename_i e'
      have h2 := (encodeLmd_key e').trans h1
      cases hc : closeBlock s0.enc.nLits.toNat _ _ with
      | error t => rw [hc] at h; cases h
      | ok u =>
        rw [hc] at h
        simp only [Except.map, Except.ok.injEq, Prod.mk.injEq] at h; obtain ⟨_, rfl⟩ := h
        exact (closeBlock_key hc).trans h2

theorem emitFilled_key {s t : State} {b : Bool} (h : emitFilled s = .ok (b, t)) : encKey t = encKey s := by
  unfold emitFilled at h
  dsimp only at h
  split at h
  · cases h
  · split at h
    · simp only [Except.ok.injEq, Prod.mk.injEq] at h; obtain ⟨_, rfl⟩ := h
      exact (rollback_key _ _).trans
        ((histograms_key _ _).trans ((substituteDistances_key _).trans (padLiterals_key _)))
    · split at h
      · cases h
      · rename_i e
        exact (emitPayload_key h).trans ((buildTables_key e).trans
          ((histograms_key _ _).trans ((substituteDistances_key _).trans (padLiterals_key _))))

/-- EMIT_BLOCK keeps what the encoder does not own. -/
theorem emitBlock_key {s t : State} {b : Bool} (h : emitBlock s = .ok (b, t)) : encKey t = encKey s := by
  unfold emitBlock at h
  split at h
  · simp only [Except.ok.injEq, Prod.mk.injEq] at h; obtain ⟨_, rfl⟩ := h; rfl
  · exact emitFilled_key h

theorem backendMatch_key {pos ref : Int} {n : Nat} {s t : State} {b : Bool} (h : backendMatch pos ref n s = .ok (b, t)) :
    encKey t = encKey s := by
  unfold backendMatch at h
  split at h
  · cases h
  · rename_i e
    simp only [Except.ok.injEq, Prod.mk.injEq] at h; obtain ⟨_, rfl⟩ := h
    exact pushMatch_key e
  · rename_i e
    have h1 := pushMatch_key e
    split at h
    · cases h
    · rename_i e'
      simp only [Except.ok.injEq, Prod.mk.injEq] at h; obtain ⟨_, rfl⟩ := h
      exact (poisonEnc_key _).trans ((emitBlock_key e').trans h1)
    · rename_i e'
      have h2 := (emitBlock_key e').trans h1
      split at h
      · cases h
      · rename_i e''
        simp only [Except.ok.injEq, Prod.mk.injEq] at h; obtain ⟨_, rfl⟩ := h
        exact (pushMatch_key e'').trans h2
      · rename_i e''
        simp only [Except.ok.injEq, Prod.mk.injEq] at h; obtain ⟨_, rfl⟩ := h
        exact (poisonEnc_key _).trans ((pushMatch_key e'').trans h2)

theorem backendLiterals_key {l : Nat} {s t : State} {b : Bool} (h : backendLiterals l s = .ok (b, t)) :
    encKey t = encKey s := backendMatch_key h

theorem sendPending_key {s t : State} {b : Bool} (h : sendPending s = .ok (b, t)) : encKey t = encKey s := by
  unfold sendPending at h
  split at h
  · cases h
  · rename_i e
    simp only [Except.ok.injEq, Prod.mk.injEq] at h; obtain ⟨_, rfl⟩ := h
    exact (dropPending_key _).trans (backendMatch_key e)
  · rename_i e
    simp only [Except.ok.injEq, Prod.mk.injEq] at h; obtain ⟨_, rfl⟩ := h
    exact backendMatch_key e

theorem sendMatch_key {m : Match} {f : State → State} (hf : ∀ s, encKey (f s) = encKey s) {s t : State} {b : Bool}
    (h : sendMatch m f s = .ok (b, t)) : encKey t = encKey s := by
  unfold sendMatch at h
  split at h
  · cases h
  · rename_i e
    simp only [Except.ok.injEq, Prod.mk.injEq] at h; obtain ⟨_, rfl⟩ := h
    exact (hf _).trans (backendMatch_key e)
  · rename_i e
    simp only [Except.ok.injEq, Prod.mk.injEq] at h; obtain ⟨_, rfl⟩ := h
    exact backendMatch_key e

theorem chooseMatch_key {inc : Match} {s t : State} {b : Bool} (h : chooseMatch inc s = .ok (b, t)) :
    encKey t = encKey s := by
  unfold chooseMatch at h
  dsimp only at h
  split at h
  · exact sendMatch_key (f := dropPending) dropPending_key h
  · split at h
    · simp only [Except.ok.injEq, Prod.mk.injEq] at h; obtain ⟨_, rfl⟩ := h; rfl
    · split at h
      · exact sendMatch_key (f := setPending inc) (setPending_key inc) h
      · exact sendMatch_key (f := dropPending) dropPending_key h

theorem noCandidate_key {pos : Int} {s t : State} {b : Bool} (h : noCandidate pos s = .ok (b, t)) :
    encKey t = encKey s := by
  unfold noCandidate at h
  split at h
  · simp only [Except.ok.injEq, Prod.mk.injEq] at h; obtain ⟨_, rfl⟩ := h; rfl
  · split at h
    · exact backendLiterals_key h
    · exact sendPending_key h

theorem positionStep_key {pos : Int} {x : Nat} {old : Bucket} {s t : State} {b : Bool}
    (h : positionStep pos x old s = .ok (b, t)) : encKey t = encKey s := by
  unfold positionStep at h
  split at h
  · simp only [Except.ok.injEq, Prod.mk.injEq] at h; obtain ⟨_, rfl⟩ := h; rfl
  · split at h
    · cases h
    · split at h
      · exact noCandidate_key h
      · split at h
        · cases h
        · exact chooseMatch_key h

theorem failPosition_key (s : State) : encKey (failPosition s) = encKey s := by
  unfold failPosition
  exact Eq.trans rfl ((releaseDst_key _ _ _).trans rfl)

theorem basePosition_key {s t : State} {b : Bool} (h : basePosition s = .ok (b, t)) : encKey t = encKey s := by
  unfold basePosition at h
  dsimp only at h
  split at h
  · cases h
  · split at h
    · cases h
    · simp only [Except.ok.injEq, Prod.mk.injEq] at h; obtain ⟨_, rfl⟩ := h
      exact failPosition_key _
    · rename_i e
      simp only [Except.ok.injEq, Prod.mk.injEq] at h; obtain ⟨_, rfl⟩ := h
      exact (recordPosition_key _ _ _ _ _).trans (positionStep_key e)

theorem baseLoop_key {n : Nat} {s t : State} {b : Bool} (h : baseLoop n s = .ok (b, t)) : encKey t = encKey s := by
  induction n generalizing s with
  | zero => simp only [baseLoop, Except.ok.injEq, Prod.mk.injEq] at h; obtain ⟨_, rfl⟩ := h; rfl
  | succ n ih =>
    rw [baseLoop] at h
    split at h
    · cases h
    · rename_i e
      simp only [Except.ok.injEq, Prod.mk.injEq] at h; obtain ⟨_, rfl⟩ := h
      exact basePosition_key e
    · rename_i e; exact (ih h).trans (basePosition_key e)

/-- ENC_BASE's body keeps what the encoder does not own. -/
theorem encBase_key {e : Nat} {s t : State} {b : Bool} (h : encBase e s = .ok (b, t)) : encKey t = encKey s := by
  unfold encBase at h
  exact (baseLoop_key (raiseIf_ok h).2).trans (setEncSrcEnd_key _ _)

/-! ## The end of ENC_BUFFER (46_encoder_backend.md R272) -/

@[simp] theorem endEncode_key (p : Bool) (s : State) : encKey (endEncode p s) = encKey s := rfl
@[simp] theorem endEncode_enc (p : Bool) (s : State) : (endEncode p s).enc = { s.enc with poisoned := p } := rfl
@[simp] theorem endEncode_cur (p : Bool) (s : State) : (endEncode p s).cur = s.cur := rfl
@[simp] theorem endEncode_dst (p : Bool) (s : State) : (endEncode p s).dst = s.dst := rfl
@[simp] theorem leaveEncode_key (s : State) : encKey (leaveEncode s) = encKey s := rfl
@[simp] theorem leaveEncode_enc (s : State) : (leaveEncode s).enc = { s.enc with active := false } := rfl
@[simp] theorem leaveEncode_cur (s : State) : (leaveEncode s).cur = s.cur := rfl
@[simp] theorem leaveEncode_dst (s : State) : (leaveEncode s).dst = s.dst := rfl

end Sys2Proof.Laws
end

