-- ==== Sys2Proof/Laws/Ops.lean ====
section
/-! SUPPORT. For each shared operation of Machine/Ops.lean, Flags.lean and Bitstream.lean, what it can do: raising, the end of a
command, the cursor checks, storing at DST_POS, the bodies of OUT_PUSH, IN_FLUSH and IN_PULL. -/

namespace Sys2Proof.Laws

open Sys2Proof.Machine

/-! ## Raising -/

theorem raiseIf_neg {α : Type} {c : Bool} (h : c = false) (k : Cause) (i : U64) (e : Except Trap α) :
    raiseIf c k i e = e := by subst h; rfl

theorem raiseIf_pos {α : Type} {c : Bool} (h : c = true) (k : Cause) (i : U64) (e : Except Trap α) :
    raiseIf c k i e = .error { cause := k, info := i } := by subst h; rfl

@[simp] theorem raiseOpt_none {α : Type} (e : Except Trap α) : raiseOpt none e = e := rfl

@[simp] theorem raiseOpt_some {α : Type} (t : Trap) (e : Except Trap α) : raiseOpt (some t) e = .error t := rfl

/-! ## Values that may not fit (R13, log entry 25) -/

theorem fitU64_nat {n : Nat} (h : n < 2 ^ 64) : fitU64 (n : Int) = nat64 n := by
  unfold fitU64
  rw [if_pos (by omega)]
  simp [word64, nat64]

theorem fitS64_of_fits {v : Int} (hl : -2 ^ 63 ≤ v) (hu : v < 2 ^ 63) : fitS64 v = word64 v := by
  unfold fitS64
  exact if_pos (by omega)

/-- Where the encoder's position fits, SRC_POS is ENC.src_begin + ENC.src_literal (R53). -/
theorem encCursors_srcPos {c : EncCtx} {n : Nat} (h : c.srcBegin.toNat + c.srcLiteral.toInt = n) (hn : n < 2 ^ 64) :
    (encCursors c).srcPos = nat64 n := by
  show fitU64 (c.srcBegin.toNat + c.srcLiteral.toInt) = nat64 n
  rw [h, fitU64_nat hn]

/-- Where the end of the encoder's region fits, SRC_END is ENC.src_begin + ENC.src_limit (R53). -/
theorem encCursors_srcEnd {c : EncCtx} (h : c.srcBegin.toNat + c.srcLimit.toNat < 2 ^ 64) :
    (encCursors c).srcEnd = c.srcBegin + c.srcLimit := by
  apply BitVec.eq_of_toNat_eq
  unfold encCursors
  rw [fitU64_nat h, BitVec.toNat_add]
  simp [nat64]

/-! ## The end of a command -/

theorem isSome_of_held {s : State} (h : s.fault ≠ none) : s.fault.isSome = true := by
  cases hs : s.fault with
  | none => exact absurd hs h
  | some _ => rfl

theorem isSome_of_ready {s : State} (h : ready s) : s.fault.isSome = false := by
  unfold ready at h
  rw [h]
  rfl

theorem command_held {s : State} (h : s.fault ≠ none) (b : Except Trap (Status × State)) : command s b = .next s := by
  unfold command
  rw [isSome_of_held h]
  rfl

theorem command_ready {s : State} (h : ready s) (b : Except Trap (Status × State)) :
    command s b = match b with
      | .error t => .next (takeFault t s)
      | .ok (st, s') => .next { s' with status := st } := by
  unfold command
  rw [isSome_of_ready h]
  rfl

theorem command_error {s : State} (h : ready s) (t : Trap) : command s (.error t) = .next (takeFault t s) := by
  rw [command_ready h]

theorem command_ok {s : State} (h : ready s) (st : Status) (t : State) :
    command s (.ok (st, t)) = .next { t with status := st } := by
  rw [command_ready h]

/-- Whatever its body, a command answers a next state, so only a step of DEC_STEP or DEC_BUFFER could stop. -/
theorem command_next (s : State) (b : Except Trap (Status × State)) : ∃ t, command s b = .next t := by
  unfold command
  split
  · exact ⟨_, rfl⟩
  · split <;> exact ⟨_, rfl⟩

theorem takeFault_nat (c : Cause) (n : Nat) (s : State) : takeFault { cause := c, info := nat64 n } s = faulted c n s := rfl

theorem takeFault_zero (c : Cause) (s : State) : takeFault { cause := c, info := 0 } s = faulted c 0 s := rfl

theorem takeFault_one (c : Cause) (s : State) : takeFault { cause := c, info := 1 } s = faulted c 1 s := rfl

theorem takeFault_two (c : Cause) (s : State) : takeFault { cause := c, info := 2 } s = faulted c 2 s := rfl

/-! ## Cursors -/

theorem orderFault_none {first : Nat} {b p e size : U64} (h : trioOk b p e size) : orderFault first b p e size = none := by
  obtain ⟨h1, h2, h3⟩ := h
  unfold orderFault
  rw [if_neg (Nat.not_lt.mpr h1), if_neg (Nat.not_lt.mpr h2), if_neg (Nat.not_lt.mpr h3)]

theorem orderFault_some {first : Nat} {b p e size : U64} (h : ¬trioOk b p e size) :
    ∃ k ∈ [first, first + 1, first + 2], orderFault first b p e size = some { cause := .badCursor, info := nat64 k } := by
  unfold orderFault
  by_cases h1 : p.toNat < b.toNat
  · exact ⟨first, by simp, by rw [if_pos h1]⟩
  · by_cases h2 : e.toNat < p.toNat
    · exact ⟨first + 1, by simp, by rw [if_neg h1, if_pos h2]⟩
    · by_cases h3 : size.toNat < e.toNat
      · exact ⟨first + 2, by simp, by rw [if_neg h1, if_neg h2, if_pos h3]⟩
      · exact absurd ⟨Nat.not_lt.mp h1, Nat.not_lt.mp h2, Nat.not_lt.mp h3⟩ h

theorem srcCursorFault_none {s : State} (h : srcOk s) : srcCursorFault s = none := orderFault_none h

theorem srcCursorFault_some {s : State} (h : ¬srcOk s) :
    ∃ k ∈ [0, 1, 2], srcCursorFault s = some { cause := .badCursor, info := nat64 k } := orderFault_some h

theorem dstCursorFault_none {s : State} (h : dstOk s) : dstCursorFault s = none := orderFault_none h

theorem dstCursorFault_some {s : State} (h : ¬dstOk s) :
    ∃ k ∈ [3, 4, 5], dstCursorFault s = some { cause := .badCursor, info := nat64 k } := orderFault_some h

theorem cursorFault_none {s : State} (h : srcOk s) (h' : dstOk s) : cursorFault s = none := by
  unfold cursorFault
  rw [srcCursorFault_none h, dstCursorFault_none h']

theorem cursorFault_src {s : State} (h : ¬srcOk s) :
    ∃ k ∈ [0, 1, 2], cursorFault s = some { cause := .badCursor, info := nat64 k } := by
  obtain ⟨k, hk, e⟩ := srcCursorFault_some h
  exact ⟨k, hk, by unfold cursorFault; rw [e]⟩

theorem cursorFault_dst {s : State} (h : srcOk s) (h' : ¬dstOk s) :
    ∃ k ∈ [3, 4, 5], cursorFault s = some { cause := .badCursor, info := nat64 k } := by
  obtain ⟨k, hk, e⟩ := dstCursorFault_some h'
  exact ⟨k, hk, by unfold cursorFault; rw [srcCursorFault_none h, e]⟩

/-! ## Storing at DST_POS -/

theorem releaseDst_eq (lo hi : Nat) (s : State) :
    releaseDst lo hi s = { s with dst := (releaseDst lo hi s).dst, freeTag := (releaseDst lo hi s).freeTag } := by
  unfold releaseDst
  split <;> rfl

theorem storeAtDstPos_eq (l : List U8) (s : State) :
    storeAtDstPos l s = { s with
      dst := (storeAtDstPos l s).dst, freeTag := (storeAtDstPos l s).freeTag,
      cur := { s.cur with dstPos := BitVec.ofNat 64 (s.cur.dstPos.toNat + l.length) } } := by
  unfold storeAtDstPos releaseDst
  dsimp only
  split <;> rfl

/-- The bytes stored stand at DST_POS. -/
theorem storeAtDstPos_bytes (l : List U8) (s : State) : bytesAt (storeAtDstPos l s).dst s.cur.dstPos.toNat l := by
  intro i h
  have e : readByte (writeBytes s.dst s.cur.dstPos.toNat l) (s.cur.dstPos.toNat + i) = l[i] := by
    rw [readByte_writeBytes_inside _ _ _ _ h]
  unfold storeAtDstPos
  rw [releaseDst_outside _ _ _ _ (by omega)]
  exact e

/-- Outside [DST_POS, DST_END) nothing changes, where the bytes fit. -/
theorem storeAtDstPos_outside (l : List U8) (s : State) (h : s.cur.dstPos.toNat + l.length ≤ s.cur.dstEnd.toNat) :
    sameOutside s.cur.dstPos.toNat s.cur.dstEnd.toNat s.dst (storeAtDstPos l s).dst := by
  intro a ha
  unfold storeAtDstPos
  rw [releaseDst_outside _ _ _ _ (by omega)]
  exact readByte_writeBytes_outside _ _ _ _ (by omega)

/-! ## The bodies of the bitstream commands -/

theorem outPush_ok {o : OutAcc} {n b : Nat} (hb : b < 2 ^ n) (h0 : 0 ≤ o.nbits) (h : o.nbits + n ≤ 64) :
    outPush o n b = .ok { accum := o.accum ||| BitVec.ofNat 64 (b * 2 ^ o.nbits.toNat), nbits := o.nbits + n } := by
  unfold outPush
  rw [raiseIf_neg (by simpa using hb), raiseIf_neg (by simpa using h0), raiseIf_neg (by simpa using h)]

theorem outPush_wide {o : OutAcc} {n b : Nat} (h : 2 ^ n ≤ b) : outPush o n b = .error { cause := .badOperand, info := 0 } := by
  unfold outPush
  rw [raiseIf_pos (by simpa using h)]

theorem outPush_invalid {o : OutAcc} {n b : Nat} (hb : b < 2 ^ n) (h : o.nbits < 0) :
    outPush o n b = .error { cause := .streamInvalid, info := 0 } := by
  unfold outPush
  rw [raiseIf_neg (by simpa using hb), raiseIf_pos (by simpa using h)]

theorem outPush_overflow {o : OutAcc} {n b : Nat} (hb : b < 2 ^ n) (h0 : 0 ≤ o.nbits) (h : 64 < o.nbits + n) :
    outPush o n b = .error { cause := .pushOverflow, info := nat64 o.nbits.toNat } := by
  unfold outPush
  rw [raiseIf_neg (by simpa using hb), raiseIf_neg (by simpa using h0), raiseIf_pos (by simpa using h)]
  obtain ⟨k, hk⟩ := Int.eq_ofNat_of_zero_le h0
  rw [hk]
  unfold word64 nat64
  simp

theorem inPull_ok {x : InAcc} {n : Nat} (hv : x.valid = true) (h : n ≤ x.nbits) :
    inPull x n = .ok (x.accum.toNat / 2 ^ (x.nbits - n),
      { x with nbits := x.nbits - n, accum := BitVec.ofNat 64 (x.accum.toNat % 2 ^ (x.nbits - n)) }) := by
  unfold inPull
  rw [raiseIf_neg (by simp [hv]), raiseIf_neg (by simpa using h)]

theorem inPull_invalid {x : InAcc} {n : Nat} (hv : x.valid = false) :
    inPull x n = .error { cause := .streamInvalid, info := 0 } := by
  unfold inPull
  rw [raiseIf_pos (by simp [hv])]

theorem inPull_underflow {x : InAcc} {n : Nat} (hv : x.valid = true) (h : x.nbits < n) :
    inPull x n = .error { cause := .pullUnderflow, info := nat64 x.nbits } := by
  unfold inPull
  rw [raiseIf_neg (by simp [hv]), raiseIf_pos (by simpa using h)]

theorem inFlush_none {m : Memory} {x : InAcc} (h : x.pos.toNat < x.lo.toNat + (63 - x.nbits) / 8) : inFlush m x = none := by
  unfold inFlush
  rw [if_pos h]

theorem inFlush_some {m : Memory} {x : InAcc} (h : x.lo.toNat + (63 - x.nbits) / 8 ≤ x.pos.toNat) :
    inFlush m x = some { x with
      pos := nat64 (x.pos.toNat - (63 - x.nbits) / 8),
      accum := BitVec.ofNat 64 (x.accum.toNat * 2 ^ (8 * ((63 - x.nbits) / 8)) +
        memRead m (x.pos.toNat - (63 - x.nbits) / 8) ((63 - x.nbits) / 8)),
      nbits := x.nbits + 8 * ((63 - x.nbits) / 8) } := by
  unfold inFlush
  rw [if_neg (Nat.not_lt.mpr h)]

/-! ## The interlock and the POISONED bits -/

theorem raiseBusy_open {α : Type} {s : State} (h : compressedOpen s = true) (n : Nat) (k : Except Trap α) :
    raiseBusy s n k = .error { cause := .resourceBusy, info := nat64 n } := raiseIf_pos h _ _ _

theorem raiseBusy_closed {α : Type} {s : State} (h : compressedOpen s = false) (n : Nat) (k : Except Trap α) :
    raiseBusy s n k = k := raiseIf_neg h _ _ _

theorem raiseInBusy_lit {α : Type} (s : State) (n : Nat) (k : Except Trap α) : raiseInBusy s .lit n k = k := rfl

theorem raiseInBusy_free {α : Type} {s : State} {sel : InSel} (h : sel = .lit ∨ compressedOpen s = false) (n : Nat)
    (k : Except Trap α) : raiseInBusy s sel n k = k := by
  cases sel with
  | lit => rfl
  | lmd => exact raiseBusy_closed (by simpa using h) _ _

theorem raiseEncPoisoned_set {α : Type} {s : State} (h : s.enc.poisoned = true) (k : Except Trap α) :
    raiseEncPoisoned s k = .error { cause := .contextPoisoned, info := 0 } := raiseIf_pos h _ _ _

theorem raiseEncPoisoned_clear {α : Type} {s : State} (h : s.enc.poisoned = false) (k : Except Trap α) :
    raiseEncPoisoned s k = k := raiseIf_neg h _ _ _

theorem raiseDecPoisoned_set {α : Type} {s : State} (h : s.dec.poisoned = true) (k : Except Trap α) :
    raiseDecPoisoned s k = .error { cause := .contextPoisoned, info := 0 } := raiseIf_pos h _ _ _

theorem raiseDecPoisoned_clear {α : Type} {s : State} (h : s.dec.poisoned = false) (k : Except Trap α) :
    raiseDecPoisoned s k = k := raiseIf_neg h _ _ _

end Sys2Proof.Laws
end

