-- ==== Sys2Proof/Laws/PerInstr.lean ====
section
/-! SUPPORT. The word of each command decodes to it (30_encoding.md R92, R93), one lemma per constructor. -/

namespace Sys2Proof.Laws.RoundTrip

/-- The word of a well-formed command decodes to the command. -/
def Statement (i : Instr) : Prop := i.wf = true → decode (encode i) = .ok i

theorem reset : Statement .reset := fun _ => rfl

theorem storeArray : Statement .storeArray := fun _ => rfl

theorem loadArray : Statement .loadArray := fun _ => rfl

theorem outInit : Statement .outInit := fun _ => rfl

theorem outFlush : Statement .outFlush := fun _ => rfl

theorem outFinish : Statement .outFinish := fun _ => rfl

theorem buildDec : Statement .buildDec := fun _ => rfl

theorem fseDecode : Statement .fseDecode := fun _ => rfl

theorem freqEnc : Statement .freqEnc := fun _ => rfl

theorem freqDec : Statement .freqDec := fun _ => rfl

theorem hdrPack : Statement .hdrPack := fun _ => rfl

theorem hdrUnpack : Statement .hdrUnpack := fun _ => rfl

theorem hdrCheck : Statement .hdrCheck := fun _ => rfl

theorem v1Load : Statement .v1Load := fun _ => rfl

theorem v1Store : Statement .v1Store := fun _ => rfl

theorem decInit : Statement .decInit := fun _ => rfl

theorem decStep : Statement .decStep := fun _ => rfl

theorem decFeed : Statement .decFeed := fun _ => rfl

theorem decGrow : Statement .decGrow := fun _ => rfl

theorem decBuffer : Statement .decBuffer := fun _ => rfl

theorem encInit : Statement .encInit := fun _ => rfl

theorem hash : Statement .hash := fun _ => rfl

theorem encBase : Statement .encBase := fun _ => rfl

theorem encTranslate : Statement .encTranslate := fun _ => rfl

theorem pushLmd : Statement .pushLmd := fun _ => rfl

theorem pushMatch : Statement .pushMatch := fun _ => rfl

theorem backendMatch : Statement .backendMatch := fun _ => rfl

theorem backendLiterals : Statement .backendLiterals := fun _ => rfl

theorem emitBlock : Statement .emitBlock := fun _ => rfl

theorem encFinish : Statement .encFinish := fun _ => rfl

theorem storeRaw : Statement .storeRaw := fun _ => rfl

theorem encBuffer : Statement .encBuffer := fun _ => rfl

theorem inInit (s : InSel) : Statement (.inInit s) := by cases s <;> exact fun _ => rfl

theorem inFlush (s : InSel) : Statement (.inFlush s) := by cases s <;> exact fun _ => rfl

theorem normalize (s : Sel) : Statement (.normalize s) := by cases s <;> exact fun _ => rfl

theorem checkFreq (s : Sel) : Statement (.checkFreq s) := by cases s <;> exact fun _ => rfl

theorem buildEnc (s : Sel) : Statement (.buildEnc s) := by cases s <;> exact fun _ => rfl

theorem buildVdec (s : VSel) : Statement (.buildVdec s) := by cases s <;> exact fun _ => rfl

theorem symbolOfValue (s : VSel) : Statement (.symbolOfValue s) := by cases s <;> exact fun _ => rfl

theorem fseEncode (s : Sel) : Statement (.fseEncode s) := by cases s <;> exact fun _ => rfl

theorem fseVdecode (s : VSel) : Statement (.fseVdecode s) := by cases s <;> exact fun _ => rfl

/-- A property of all n ≤ m, by evaluation. -/
theorem below_of_decide {m : Nat} {p : Nat → Prop} (h : ∀ n : Fin (m + 1), p n.val) : ∀ n, n ≤ m → p n :=
  fun n hn => h ⟨n, Nat.lt_succ_of_le hn⟩

theorem outPush (n : Nat) : Statement (.outPush n) := fun h =>
  below_of_decide (p := fun n => decode (encode (.outPush n)) = .ok (.outPush n)) (m := 64) (by decide) n
    (by simpa [Instr.wf] using h)

theorem inPull (s : InSel) (n : Nat) : Statement (.inPull s n) := fun h => by
  have hn : n ≤ 63 := by simpa [Instr.wf] using h
  cases s
  · exact below_of_decide (p := fun n => decode (encode (.inPull .lit n)) = .ok (.inPull .lit n)) (m := 63) (by decide) n hn
  · exact below_of_decide (p := fun n => decode (encode (.inPull .lmd n)) = .ok (.inPull .lmd n)) (m := 63) (by decide) n hn

end Sys2Proof.Laws.RoundTrip
end

