-- ==== Sys2Proof/Laws/Port.lean ====
section
/-! SUPPORT. What one step can do (Machine/Port.lean, Machine/Step.lean), said once: each lemma lists every way the operation can
answer a next state, with the guards that held. -/

namespace Sys2Proof.Laws

open Sys2Proof Sys2Proof.Machine

/-- A step that goes on takes the host's next move, or there is none. -/
theorem step_next {s t : State} (h : step s = .next t) :
    (s.script = [] ∧ t = s) ∨ ∃ m r, s.script = m :: r ∧ hostMove m { s with script := r } = .next t := by
  unfold step at h
  split at h
  · exact .inl ⟨‹_›, by injection h with h; exact h.symm⟩
  · exact .inr ⟨_, _, ‹_›, h⟩

/-- A move that goes on is a command word, a register write or a byte placed. -/
theorem hostMove_next {m : HostMove} {s t : State} (h : hostMove m s = .next t) :
    (∃ w, m = .cmd w ∧ issue w s = .next t) ∨ (∃ r v, m = .reg r v ∧ t = writeReg r v s) ∨
    (∃ a b, m = .srcByte a b ∧ placeSrc a.toNat b s = .next t) ∨ ∃ a b, m = .dstByte a b ∧ placeDst a.toNat b s = .next t := by
  cases m with
  | cmd w => exact .inl ⟨w, rfl, h⟩
  | reg r v => exact .inr (.inl ⟨r, v, rfl, by injection h with h; exact h.symm⟩)
  | srcByte a b => exact .inr (.inr (.inl ⟨a, b, rfl, h⟩))
  | dstByte a b => exact .inr (.inr (.inr ⟨a, b, rfl, h⟩))

/-- A command word that goes on ran, and kept duty 2 (70_reset_and_hazards.md R317). -/
theorem issue_next {w : U32} {s t : State} (h : issue w s = .next t) :
    runWord w { s with cmd := w } = .next t ∧
    ∀ i, decode w = .ok i → overwritesProduced i { s with cmd := w } t = false := by
  simp only [issue] at h
  split at h
  · rename_i u hu
    unfold keepDuty at h
    split at h
    · rename_i e he
      injection h with h
      subst h
      exact ⟨hu, fun i hi => by simp [he] at hi⟩
    · rename_i i hi
      split at h
      · cases h
      · rename_i hk
        injection h with h
        subst h
        exact ⟨hu, fun j hj => by rw [hi] at hj; injection hj with hj; subst hj; simpa using hk⟩
  · cases h
  · cases h

/-- While no decode is in progress a command word is just run. -/
theorem issue_of_not_decoding {w : U32} {s : State} (h : decoding s = false) :
    issue w s = runWord w { s with cmd := w } := by
  have hk (t : State) : keepDuty w { s with cmd := w } t = .next t := by
    have hd : decoding { s with cmd := w } = false := h
    unfold keepDuty
    cases decode w <;> simp [overwritesProduced, hd]
  simp only [issue, hk]
  split <;> simp_all

/-- A byte placed in SRC is there already, or no duty forbids the change. -/
theorem placeSrc_next {a : Nat} {b : U8} {s t : State} (h : placeSrc a b s = .next t) :
    a < s.srcSize.toNat ∧
    ((readByte s.src a = b ∧ t = s) ∨ (srcDuty a s = none ∧ t = { s with src := writeByte s.src a b })) := by
  unfold placeSrc at h
  split at h
  · cases h
  · rename_i ha
    refine ⟨by omega, ?_⟩
    split at h
    · exact .inl ⟨‹_›, by injection h with h; exact h.symm⟩
    · split at h
      · cases h
      · exact .inr ⟨‹_›, by injection h with h; exact h.symm⟩

/-- A byte placed in DST is there already, or no duty forbids the change. -/
theorem placeDst_next {a : Nat} {b : U8} {s t : State} (h : placeDst a b s = .next t) :
    a < s.dstSize.toNat ∧
    ((readByte s.dst a = b ∧ t = s) ∨ (dstDuty a s = none ∧ t = { s with dst := writeByte s.dst a b })) := by
  unfold placeDst at h
  split at h
  · cases h
  · rename_i ha
    refine ⟨by omega, ?_⟩
    split at h
    · exact .inl ⟨‹_›, by injection h with h; exact h.symm⟩
    · split at h
      · cases h
      · exact .inr ⟨‹_›, by injection h with h; exact h.symm⟩

/-- The SRC bytes no duty guards. -/
theorem srcDuty_none {a : Nat} {s : State} (h : srcDuty a s = none) :
    ¬(compressedOpen s = true ∧ s.dec.cur.srcPos.toNat ≤ a ∧ a < s.dec.cur.srcPos.toNat + s.dec.nLmdPayloadBytes.toNat) ∧
    ¬(decoding s = true ∧ s.dec.cur.srcBegin.toNat ≤ a ∧ a < s.dec.cur.srcPos.toNat) ∧
    ¬(decoding s = true ∧ s.dec.feedLo.toNat ≤ a ∧ a < s.dec.cur.srcEnd.toNat ∧ s.dec.cur.srcPos.toNat ≤ a) ∧
    ¬(encoding s = true ∧ s.enc.srcLo.toNat ≤ a ∧ a < s.enc.srcBegin.toNat + s.enc.srcLimit.toNat) := by
  simp only [srcDuty, Bool.and_eq_true, decide_eq_true_eq] at h
  split at h
  · cases h
  · split at h
    · cases h
    · split at h
      · cases h
      · rename_i h1 h2 h3
        split at h
        · cases h
        · rename_i h4
          refine ⟨h1, h2, fun hf => h3 ⟨hf.1, ?_⟩, h4⟩
          omega

/-- No duty forbids a change of an SRC byte just where it is not guarded (70_reset_and_hazards.md R317). -/
theorem srcDuty_eq_none_iff {a : Nat} {s : State} : srcDuty a s = none ↔ ¬srcGuarded s a := by
  constructor
  · intro h hg
    obtain ⟨h1, h2, h3, h4⟩ := srcDuty_none h
    rcases hg with hg | hg | hg | hg
    · exact h1 hg
    · exact h2 hg
    · exact h3 hg
    · exact h4 hg
  · intro h
    unfold srcGuarded at h
    simp only [not_or] at h
    obtain ⟨h1, h2, h3, h4⟩ := h
    simp only [srcDuty, Bool.and_eq_true, decide_eq_true_eq]
    rw [if_neg h1, if_neg h2, if_neg (fun hf => h3 ⟨hf.1, by omega, hf.2.2, by omega⟩), if_neg h4]

/-- The DST bytes no duty guards. -/
theorem dstDuty_none {a : Nat} {s : State} (h : dstDuty a s = none) :
    ¬(decoding s = true ∧ s.dec.cur.dstBegin.toNat ≤ a ∧ a < s.dec.cur.dstPos.toNat) := by
  simp only [dstDuty, Bool.and_eq_true, decide_eq_true_eq] at h
  split at h
  · cases h
  · assumption

/-- No duty forbids a change of a DST byte just where it is not guarded (R317). -/
theorem dstDuty_eq_none_iff {a : Nat} {s : State} : dstDuty a s = none ↔ ¬dstGuarded s a := by
  unfold dstDuty dstGuarded
  simp

end Sys2Proof.Laws
end

