-- ==== Sys2Proof/Tests/Slice0.lean ====
section
/-! SUPPORT. The model's own tests: the well-formedness check refuses ill-formed terms, a word written out from the opcode map for
every command, one or two commands of each kind on the values of 95_test_vectors.md and of the rules' worked examples, and
for each statement with hypotheses a state and operands that meet them. -/

namespace Sys2Proof.Tests

open Sys2Proof Sys2Proof.Machine

/-! ## Helpers -/

/-- The state after a command; the state before it if the command stops. -/
def after (i : Instr) (s : State) : State :=
  match exec i s with
  | .next t => t
  | .fault _ => s
  | .refused _ => s

/-- STATUS, RES0 and RES1 after a command. -/
def result (i : Instr) (s : State) : Option (Status × Nat × Nat) :=
  match exec i s with
  | .next t => some (t.status, t.res0.toNat, t.res1.toNat)
  | .fault _ => none
  | .refused _ => none

/-- FAULT and FAULT_INFO after a command. -/
def trapped (i : Instr) (s : State) : Option (Option Cause × Nat) :=
  match exec i s with
  | .next t => some (t.fault, t.faultInfo.toNat)
  | .fault _ => none
  | .refused _ => none

/-- The reset state with three operands. -/
def args (a b c : Nat) (s : State) : State :=
  { s with arg0 := BitVec.ofNat 64 a, arg1 := BitVec.ofNat 64 b, arg2 := BitVec.ofNat 64 c }

/-- The SRC cursor registers. -/
def srcAt (b p e : Nat) (s : State) : State :=
  { s with cur := { s.cur with srcBegin := BitVec.ofNat 64 b, srcPos := BitVec.ofNat 64 p, srcEnd := BitVec.ofNat 64 e } }

/-- The DST cursor registers. -/
def dstAt (b p e : Nat) (s : State) : State :=
  { s with cur := { s.cur with dstBegin := BitVec.ofNat 64 b, dstPos := BitVec.ofNat 64 p, dstEnd := BitVec.ofNat 64 e } }

/-- A space that holds these bytes from index 0 on. -/
def space (l : List Nat) : Memory := writeBytes Arr.empty 0 (l.map (BitVec.ofNat 8))

/-- SRC holds these bytes from index 0 on. -/
def source (l : List Nat) (s : State) : State := { s with src := space l }

/-- The first n bytes of DST. -/
def dstBytes (n : Nat) (s : State) : List Nat := (readBytes s.dst 0 n).map BitVec.toNat

/-- A frequency or count table with these entries. -/
def table {w : Nat} (l : List (Nat × Nat)) : Sparse (BitVec w) := l.map fun p => (p.1, BitVec.ofNat w p.2)

/-- FREQ[SEL] with these entries. -/
def withFreq (sel : Sel) (l : List (Nat × Nat)) (s : State) : State := { s with freq := s.freq.put sel (table l) }

/-- OCC[SEL] with these entries. -/
def withOcc (sel : Sel) (l : List (Nat × Nat)) (s : State) : State := { s with occ := s.occ.put sel (table l) }

/-- The 16 bytes of V-E1. -/
def rawAAAA : List Nat := [0x62, 0x76, 0x78, 0x2D, 4, 0, 0, 0, 0x41, 0x41, 0x41, 0x41, 0x62, 0x76, 0x78, 0x24]

/-! ## Well-formed terms -/

theorem test_wf_refuses_push_of_65 : (Instr.outPush 65).wf = false := by decide
theorem test_wf_refuses_pull_of_64 : (Instr.inPull .lit 64).wf = false ∧ (Instr.inPull .lmd 64).wf = false := by decide
theorem test_wf_accepts_the_ends : (Instr.outPush 64).wf = true ∧ (Instr.outPush 0).wf = true ∧
    (Instr.inPull .lmd 63).wf = true := by decide

/-! ## Words written out from 30_encoding.md R92 and R93: RSV, N, SEL, OPC -/

theorem test_words_system : decode 0b000000000000000_0000000_00_00000001 = .ok .reset ∧
    decode 0b000000000000000_0000000_00_00000010 = .ok .storeArray ∧
    decode 0b000000000000000_0000000_00_00000011 = .ok .loadArray := by decide

theorem test_words_bitstream : decode 0b000000000000000_0000000_00_00010000 = .ok .outInit ∧
    decode 0b000000000000000_1000000_00_00010001 = .ok (.outPush 64) ∧
    decode 0b000000000000000_0000000_00_00010010 = .ok .outFlush ∧
    decode 0b000000000000000_0000000_00_00010011 = .ok .outFinish ∧
    decode 0b000000000000000_0000000_01_00011000 = .ok (.inInit .lmd) ∧
    decode 0b000000000000000_0000000_00_00011001 = .ok (.inFlush .lit) ∧
    decode 0b000000000000000_0000010_00_00011010 = .ok (.inPull .lit 2) := by decide

theorem test_words_tables : decode 0b000000000000000_0000000_11_00100000 = .ok (.normalize .lit) ∧
    decode 0b000000000000000_0000000_01_00100001 = .ok (.checkFreq .m) ∧
    decode 0b000000000000000_0000000_10_00100010 = .ok (.buildEnc .d) ∧
    decode 0b000000000000000_0000000_11_00100011 = .ok .buildDec ∧
    decode 0b000000000000000_0000000_10_00100100 = .ok (.buildVdec .d) ∧
    decode 0b000000000000000_0000000_01_00100101 = .ok (.symbolOfValue .m) := by decide

theorem test_words_codec : decode 0b000000000000000_0000000_11_00101000 = .ok (.fseEncode .lit) ∧
    decode 0b000000000000000_0000000_11_00101001 = .ok .fseDecode ∧
    decode 0b000000000000000_0000000_00_00101010 = .ok (.fseVdecode .l) := by decide

theorem test_words_header : decode 0b000000000000000_0000000_00_00110000 = .ok .freqEnc ∧
    decode 0b000000000000000_0000000_00_00110001 = .ok .freqDec ∧
    decode 0b000000000000000_0000000_00_00110010 = .ok .hdrPack ∧
    decode 0b000000000000000_0000000_00_00110011 = .ok .hdrUnpack ∧
    decode 0b000000000000000_0000000_00_00110100 = .ok .hdrCheck ∧
    decode 0b000000000000000_0000000_00_00110101 = .ok .v1Load ∧
    decode 0b000000000000000_0000000_00_00110110 = .ok .v1Store := by decide

theorem test_words_decoder : decode 0b000000000000000_0000000_00_01000000 = .ok .decInit ∧
    decode 0b000000000000000_0000000_00_01000001 = .ok .decStep ∧
    decode 0b000000000000000_0000000_00_01000010 = .ok .decFeed ∧
    decode 0b000000000000000_0000000_00_01000011 = .ok .decGrow ∧
    decode 0b000000000000000_0000000_00_01000100 = .ok .decBuffer := by decide

theorem test_words_encoder : decode 0b000000000000000_0000000_00_01010000 = .ok .encInit ∧
    decode 0b000000000000000_0000000_00_01010001 = .ok .hash ∧
    decode 0b000000000000000_0000000_00_01010010 = .ok .encBase ∧
    decode 0b000000000000000_0000000_00_01010011 = .ok .encTranslate ∧
    decode 0b000000000000000_0000000_00_01011000 = .ok .pushLmd ∧
    decode 0b000000000000000_0000000_00_01011001 = .ok .pushMatch ∧
    decode 0b000000000000000_0000000_00_01011010 = .ok .backendMatch ∧
    decode 0b000000000000000_0000000_00_01011011 = .ok .backendLiterals ∧
    decode 0b000000000000000_0000000_00_01011100 = .ok .emitBlock ∧
    decode 0b000000000000000_0000000_00_01011101 = .ok .encFinish ∧
    decode 0b000000000000000_0000000_00_01011110 = .ok .storeRaw ∧
    decode 0b000000000000000_0000000_00_01011111 = .ok .encBuffer := by decide

/-- V-C2 to V-C9: words that are no command. -/
theorem test_words_refused : decode 0x00000000 = .error .illegalCommand ∧ decode 0x000000FF = .error .illegalCommand ∧
    decode 0x00020010 = .error .illegalCommand ∧ decode 0x00000110 = .error .badOperand ∧
    decode 0x00010411 = .error .badOperand ∧ decode 0x00000023 = .error .badOperand ∧
    decode 0x00020000 = .error .illegalCommand := by decide

/-! ## One command at a time -/

/-- V-C2, V-C10: an illegal word faults, and the next word is ignored. -/
theorem test_port_sticky : (step (State.reset.withFetchWord 32 0) = .next (faulted .illegalCommand 0 State.reset)) ∧
    step ((faulted .illegalCommand 0 State.reset).withFetchWord 32 0x10) =
      .next { faulted .illegalCommand 0 State.reset with cmd := 0x10 } := by
  exact ⟨rfl, rfl⟩

/-- V-C11, V-C12. -/
theorem test_reset_clears_or_refuses :
    trapped .reset (args 1 0 0 (faulted .illegalCommand 0 State.reset)) = some (none, 0) ∧
    trapped .reset (args 2 0 0 (faulted .illegalCommand 0 State.reset)) = some (some .badOperand, 0) := by decide

/-- V-C15 to V-C17. -/
theorem test_store_array : trapped .storeArray (args 4 20 0 State.reset) = some (some .badOperand, 1) ∧
    trapped .storeArray (args 10 0 316 State.reset) = some (some .badOperand, 2) ∧
    occAt (after .storeArray (args 3 65 2 State.reset)) .lit 65 = 2 := by decide

theorem test_load_array : result .loadArray (args 3 65 0 (after .storeArray (args 3 65 2 State.reset))) =
    some (.ok, 2, 0) := by decide

theorem test_out_init : (after .outInit { State.reset with out := { accum := 5, nbits := 3 } }).out =
    { accum := 0, nbits := 0 } := by decide

/-- V-B1, V-B8. -/
theorem test_out_push :
    (after (.outPush 2) (args 2 0 0 { State.reset with out := { accum := 5, nbits := 3 } })).out =
      { accum := 21, nbits := 5 } ∧
    trapped (.outPush 5) { State.reset with out := { accum := 0, nbits := 60 } } = some (some .pushOverflow, 60) := by
  decide

/-- V-B6, V-B10. -/
theorem test_out_flush :
    let t := after .outFlush (dstAt 0 0 8 { State.reset with out := { accum := 0x1FF, nbits := 9 } })
    dstBytes 1 t = [0xFF] ∧ t.cur.dstPos = 1 ∧ t.out = { accum := 1, nbits := 1 } ∧
    result .outFlush (dstAt 0 0 1 { State.reset with out := { accum := 0xABCD, nbits := 16 } }) =
      some (.dstFull, 0, 0) := by decide

/-- V-B3, V-B11. -/
theorem test_out_finish :
    let t := after .outFinish (dstAt 0 0 8 { State.reset with out := { accum := 21, nbits := 5 } })
    dstBytes 1 t = [0x15] ∧ t.res0.toInt = -3 ∧ t.out = { accum := 0, nbits := -3 } ∧
    (after .outFinish (dstAt 0 0 8 { State.reset with out := { accum := 1, nbits := 1 } })).res0.toInt = -7 := by decide

/-- The source of V-B12 on, with n as ARG0 and the stream in [0, 8). -/
def inputExample (n : Int) : State :=
  { srcAt 0 0 8 (source [0, 0, 0, 0, 0, 0, 0, 0x15] State.reset) with arg0 := BitVec.ofInt 64 n, arg1 := 8 }

/-- V-B12, V-B21. -/
theorem test_in_init :
    (after (.inInit .lit) (inputExample (-3))).in0 =
      { accum := 0x1500000000000000, nbits := 61, pos := 0, lo := 0, valid := true } ∧
    result (.inInit .lit) (inputExample (-4)) = some (.error, 0, 0) := by decide

/-- The refill example of 95_test_vectors.md: after a pull of 20 bits, 36 are left; three bytes are taken. -/
theorem test_in_flush :
    let s := srcAt 0 0 16 (source [1, 2, 3, 4, 5, 6, 7, 8, 9, 10, 11, 12, 13, 14, 15, 16] State.reset)
    let t := after (.inFlush .lit) { s with in0 := { accum := 0xE0D0C0B0A, nbits := 36, pos := 9, lo := 0, valid := true } }
    t.in0 = { accum := 0xE0D0C0B0A090807, nbits := 60, pos := 6, lo := 0, valid := true } ∧ t.res0 = 60 := by decide

/-- V-B13, V-B16. -/
theorem test_in_pull :
    result (.inPull .lit 2) (after (.inInit .lit) (inputExample (-3))) = some (.ok, 2, 0) ∧
    trapped (.inPull .lit 62) (after (.inInit .lit) (inputExample (-3))) = some (some .pullUnderflow, 61) := by decide

/-- V-T1, V-T12. -/
theorem test_normalize :
    (after (.normalize .l) (withOcc .l [(0, 3), (1, 1)] State.reset)).freq.l = table [(0, 48), (1, 16)] ∧
    (after (.normalize .l) (withOcc .l ([(0, 1000), (1, 1000)] ++ (List.range 18).map fun i => (i + 2, 1))
      State.reset)).freq.l = table ([(0, 22), (1, 24)] ++ (List.range 18).map fun i => (i + 2, 1)) := by decide

theorem test_check_freq : result (.checkFreq .l) (withFreq .l [(0, 48), (1, 16)] State.reset) = some (.ok, 64, 0) ∧
    result (.checkFreq .l) (withFreq .l [(0, 48), (1, 17)] State.reset) = some (.error, 65, 0) := by decide

/-- V-T14, V-T18. -/
theorem test_build_enc :
    (after (.buildEnc .l) (withFreq .l [(0, 48), (1, 16)] State.reset)).encTab.l =
      [(0, { s0 := 32, k := 1, delta0 := BitVec.ofInt 16 (-16), delta1 := 16 }),
       (1, { s0 := 0, k := 2, delta0 := 48, delta1 := 64 })] ∧
    trapped (.buildEnc .l) (withFreq .l [(0, 48), (1, 17)] State.reset) = some (some .freqRange, 65) := by decide

/-- V-T20, V-T21. -/
theorem test_build_dec :
    let t := after .buildDec (withFreq .lit [(0, 3), (1, 1021)] State.reset)
    sparseFind t.decTab 2 = some { k := 8, symbol := 0, delta := 256 } ∧
    sparseFind t.decTab 3 = some { k := 1, symbol := 1, delta := 1018 } ∧
    result .buildDec (withFreq .lit [(0, 1000), (1, 25)] State.reset) = some (.error, 0, 0) := by decide +kernel

/-- V-T23, V-T24. -/
theorem test_build_vdec :
    sparseFind (after (.buildVdec .l) (withFreq .l [(17, 64)] State.reset)).vdecTab.l 5 =
      some { totalBits := 3, valueBits := 3, delta := 5, valueBase := 20 } ∧
    result (.buildVdec .d) (withFreq .d [(0, 256), (1, 1)] State.reset) = some (.error, 0, 0) := by decide

/-- The table of 95_test_vectors.md section 2.3. -/
theorem test_symbol_of_value : result (.symbolOfValue .d) (args 100 0 0 State.reset) = some (.ok, 18, 8) ∧
    trapped (.symbolOfValue .l) (args 316 0 0 State.reset) = some (some .badOperand, 0) := by decide

/-- ENC[3] of V-T16. -/
def encExample : State :=
  { State.reset with encTab := { State.reset.encTab with lit :=
    [(65, { s0 := 0, k := 1, delta0 := 0, delta1 := 512 }), (66, { s0 := 0, k := 2, delta0 := 512, delta1 := 768 }),
     (67, { s0 := 0, k := 2, delta0 := 768, delta1 := 1024 })] } }

/-- V-F1, V-F5. -/
theorem test_fse_encode :
    (after (.fseEncode .lit) (args 1023 67 0 encExample)).out = { accum := 3, nbits := 2 } ∧
    result (.fseEncode .lit) (args 1023 67 0 encExample) = some (.ok, 1023, 2) ∧
    trapped (.fseEncode .lit) (args 0 68 0 encExample) = some (some .emptyEntry, 68) := by decide

/-- V-F8, V-F10. -/
theorem test_fse_decode :
    result .fseDecode (args 319 0 0 { State.reset with
      decTab := [(319, { k := 1, symbol := 65, delta := 638 })],
      in0 := { accum := 1, nbits := 1, pos := 0, lo := 0, valid := true } }) = some (.ok, 639, 65) ∧
    trapped .fseDecode State.reset = some (some .emptyEntry, 0) := by decide

/-- V-F11. -/
theorem test_fse_vdecode :
    result (.fseVdecode .l) (args 5 0 0 { State.reset with
      vdecTab := { State.reset.vdecTab with l := [(5, { totalBits := 3, valueBits := 3, delta := 5, valueBase := 20 })] },
      in1 := { accum := 6, nbits := 3, pos := 0, lo := 0, valid := true } }) = some (.ok, 5, 26) := by decide

/-- The table of 95_test_vectors.md section 2.5. -/
theorem test_freq_enc : result .freqEnc (args 100 0 0 State.reset) = some (.ok, 1231, 14) ∧
    trapped .freqEnc (args 1048 0 0 State.reset) = some (some .badOperand, 0) := by decide

theorem test_freq_dec : result .freqDec (args 1231 0 0 State.reset) = some (.ok, 100, 14) ∧
    result .freqDec (args 7 0 0 State.reset) = some (.ok, 8, 8) := by decide

/-- V-H1, V-H5. -/
theorem test_hdr_pack :
    let t := after .hdrPack (dstAt 0 0 200 { State.reset with hdr := { Hdr.zero with nRawBytes := 4 } })
    dstBytes 32 t = [0x62, 0x76, 0x78, 0x32, 4, 0, 0, 0, 0, 0, 0, 0, 0, 0, 0, 0x70, 0, 0, 0, 0, 0, 0, 0, 0x70, 0x7A, 0, 0, 0, 0,
      0, 0, 0] ∧ t.hdrSize = 122 ∧
    trapped .hdrPack (dstAt 0 0 200 { State.reset with hdr := { Hdr.zero with nLiterals := 0x100000 } }) =
      some (some .fieldOverflow, 1) := by decide +kernel

/-- The 32 fixed bytes of V-H1. -/
def packedFour : List Nat :=
  [0x62, 0x76, 0x78, 0x32, 4, 0, 0, 0, 0, 0, 0, 0, 0, 0, 0, 0x70, 0, 0, 0, 0, 0, 0, 0, 0x70, 0x7A, 0, 0, 0, 0, 0, 0, 0]

/-- V-H2, V-H3 (the region bytes that are 0 read as an unwritten byte does). -/
theorem test_hdr_unpack :
    let t := after .hdrUnpack (srcAt 0 0 122 (source packedFour State.reset))
    t.hdr = { Hdr.zero with magic := 0x31787662, nRawBytes := 4 } ∧ t.cur.srcPos = 122 ∧
    result .hdrUnpack (srcAt 0 0 122 { State.reset with src := writeByte (space packedFour) 121 4 }) =
      some (.error, 0, 0) := by decide +kernel

/-- V-H9, V-H10. -/
theorem test_hdr_check :
    result .hdrCheck { State.reset with hdr := { Hdr.zero with magic := 0x31787662, lState := 64 } } =
      some (.error, 0x80, 0) ∧
    result .hdrCheck { State.reset with hdr := { Hdr.zero with magic := 0x31787662, nLiterals := 6 } } =
      some (.error, 0x4000, 0) := by decide +kernel

/-- V-H12. -/
theorem test_v1_load :
    (after .v1Load (srcAt 0 0 772 (source [0x62, 0x76, 0x78, 0x31, 4] State.reset))).hdr =
      { Hdr.zero with magic := 0x31787662, nRawBytes := 4 } := by decide

/-- V-H13: the first bytes of the image, and the command's results. -/
theorem test_v1_store :
    ((v1Image { Hdr.zero with nRawBytes := 4 } (List.replicate 360 0)).take 8).map BitVec.toNat =
      [0x62, 0x76, 0x78, 0x31, 4, 0, 0, 0] ∧
    result .v1Store (dstAt 0 0 1000 State.reset) = some (.ok, 772, 0) := by decide +kernel

/-- The worked example of 44_decoder_engine.md R200. -/
theorem test_dec_init : (after .decInit (dstAt 0 0 100 (srcAt 0 0 16 State.reset))).dec.cur =
    { srcBegin := 0, srcPos := 0, srcEnd := 16, dstBegin := 0, dstPos := 0, dstEnd := 100 } := by decide

/-- The decoder context of V-D1's stream cut to c bytes, with room r. -/
def decExample (c r : Nat) : State := after .decInit (dstAt 0 0 r (srcAt 0 0 c (source rawAAAA State.reset)))

/-- V-D2: after the end of the stream DEC_STEP gives the counts again, which changes nothing (44_decoder_engine.md R201, D32). -/
theorem test_dec_step_again :
    result .decStep (after .decStep (decExample 16 100)) = some (.ok, 4, 16) ∧
    after .decStep (after .decStep (decExample 16 100)) = after .decStep (decExample 16 100) := by decide +kernel

/-- V-D1, V-D7. -/
theorem test_dec_step : result .decStep (decExample 16 100) = some (.ok, 4, 16) ∧
    dstBytes 4 (after .decStep (decExample 16 100)) = [0x41, 0x41, 0x41, 0x41] ∧
    result .decStep (decExample 10 100) = some (.srcEmpty, 2, 10) := by decide

/-- 44_decoder_engine.md R216. -/
theorem test_dec_feed : (after .decFeed (srcAt 0 0 16 (decExample 10 100))).dec.cur.srcEnd = 16 ∧
    trapped .decFeed (srcAt 0 0 9 (decExample 10 100)) = some (some .badCursor, 2) := by decide

/-- V-D14. -/
theorem test_dec_grow : trapped .decGrow (dstAt 0 0 5 (decExample 16 10)) = some (some .badCursor, 5) ∧
    (after .decGrow (dstAt 0 0 20 (decExample 16 10))).dec.cur.dstEnd = 20 := by decide

/-- V-D11, V-D12. -/
theorem test_dec_buffer : result .decBuffer (dstAt 0 0 100 (srcAt 0 0 16 (source rawAAAA State.reset))) =
      some (.ok, 4, 16) ∧
    result .decBuffer (dstAt 0 0 100 (srcAt 0 0 12 (source rawAAAA State.reset))) = some (.srcEmpty, 0, 12) := by decide

/-- 45_encoder_frontend.md R232. -/
theorem test_enc_init : (after .encInit (dstAt 0 0 100 (srcAt 0 2 16 State.reset))).enc.srcLimit = 14 := by decide

/-- The table of 95_test_vectors.md section 2.7. -/
theorem test_hash : result .hash (args 0x64636261 0 0 State.reset) = some (.ok, 6339, 0) ∧
    trapped .hash (args 0x100000000 0 0 State.reset) = some (some .badOperand, 0) := by decide

/-- A fresh encoder context over these source bytes, with room r. -/
def encOver (l : List Nat) (r : Nat) : State := after .encInit (dstAt 0 0 r (srcAt 0 0 l.length (source l State.reset)))

/-- The source of V-E3. -/
def textE3 : List Nat :=
  [97, 98, 99, 100, 101, 102, 103, 104, 97, 98, 99, 100, 101, 102, 103, 104, 97, 98, 99, 100, 101, 102, 103, 104]
    ++ [65, 66, 67, 68, 69, 70, 71, 72, 73, 74, 75, 76, 77, 78, 79, 80]

/-- 45_encoder_frontend.md R244: the 40-byte source of V-E3 sends (8, 16, 8). -/
theorem test_enc_base :
    let t := after .encBase (args 40 0 0 (encOver textE3 1000))
    (t.status, t.res0, t.res1) = (.ok, 32, 24) ∧ t.enc.pending.length = 0 ∧
    (t.enc.nMatches, valueAt .l t 0, valueAt .m t 0, valueAt .d t 0) = (1, 8, 16, 8) := by decide +kernel

/-- 45_encoder_frontend.md R242, its worked example among it: history positions fall by delta, not below −1048556. -/
theorem test_enc_translate :
    let s := encOver textE3 1000
    let t := after .encTranslate (args 5 0 0 { s with enc := { s.enc with srcEncodeI := 10, srcLiteral := 6 } })
    (t.enc.srcBegin, t.enc.srcEncodeI, t.enc.srcLiteral, t.enc.srcLimit) = (5, 5, 1, 35) ∧
    trapped .encTranslate (args 7 0 0 { s with enc := { s.enc with srcEncodeI := 10, srcLiteral := 6 } }) =
      some (some .badOperand, 0) ∧
    (shiftEntry 262144 { pos := 100, value := 7 }).pos.toInt = -262044 ∧
    (shiftEntry 262144 invalidEntry).pos.toInt = -1048556 := by decide

/-- The worked example of 46_encoder_backend.md R250. -/
theorem test_push_lmd :
    let t := after .pushLmd (args 8 16 8 (encOver textE3 1000))
    (t.res0.toNat, t.res1.toNat, t.enc.srcLiteral.toNat) = (1, 8, 24) ∧ (litAt t.enc.lits 7).toNat = 104 ∧
    (valueAt .l t 0, valueAt .m t 0, valueAt .d t 0) = (8, 16, 8) ∧
    trapped .pushLmd (args 8 16 0 (encOver textE3 1000)) = some (some .badOperand, 2) := by decide

/-- The table of 95_test_vectors.md section 2.8. -/
theorem test_push_match :
    let t := after .pushMatch (args 8 0 16 (encOver textE3 1000))
    (valueAt .l t 0, valueAt .m t 0, valueAt .d t 0) = (8, 16, 8) ∧ t.enc.srcLiteral = 24 ∧
    trapped .pushMatch (args 0 0 5 (encOver textE3 1000)) = some (some .badOperand, 1) := by decide

theorem test_backend_match :
    let t := after .backendMatch (args 8 0 16 (encOver textE3 1000))
    t.enc.nMatches = 1 ∧ t.enc.nLits = 8 ∧ t.cur.srcPos = 24 := by decide

/-- 46_encoder_backend.md R256: a run of 16 literals is (16, 0, 1). -/
theorem test_backend_literals :
    let t := after .backendLiterals (args 16 0 0 (encOver textE3 1000))
    (valueAt .l t 0, valueAt .m t 0, valueAt .d t 0) = (16, 0, 1) ∧
    trapped .backendLiterals (args 41 0 0 (encOver textE3 1000)) = some (some .badOperand, 2) := by decide

/-- V-E3's block: the two triplets and the 24 literals. -/
def blockE3 (r : Nat) : State := after .backendLiterals (args 16 0 0 (after .pushMatch (args 8 0 16 (encOver textE3 r))))

/-- V-E3: one block of 191 bytes with a header of 167. -/
theorem test_emit_block : result .emitBlock (blockE3 1000) = some (.ok, 191, 167) := by decide +kernel

/-- 46_encoder_backend.md R266: less than 752 bytes of room. -/
theorem test_emit_block_full : (after .emitBlock (blockE3 751)).status = .dstFull := by decide +kernel

/-- 46_encoder_backend.md R268 on an empty source. -/
theorem test_enc_finish : dstBytes 4 (after .encFinish (encOver [] 10)) = [0x62, 0x76, 0x78, 0x24] ∧
    result .encFinish (encOver [] 10) = some (.ok, 4, 0) ∧ (after .encFinish (encOver [] 3)).status = .dstFull := by
  decide +kernel

/-- V-E1 and 46_encoder_backend.md R270's bound. -/
theorem test_store_raw :
    let s := dstAt 0 0 16 (srcAt 0 0 4 (source [0x41, 0x41, 0x41, 0x41] State.reset))
    dstBytes 16 (after .storeRaw s) = rawAAAA ∧ result .storeRaw (dstAt 0 0 15 s) = some (.error, 0, 0) := by decide

/-- V-E1 through ENC_BUFFER. -/
theorem test_enc_buffer :
    let s := dstAt 0 0 16 (srcAt 0 0 4 (source [0x41, 0x41, 0x41, 0x41] State.reset))
    dstBytes 16 (after .encBuffer s) = rawAAAA ∧ result .encBuffer s = some (.ok, 16, 0) := by decide

/-! ## Witnesses: for each statement with hypotheses, states and operands that meet them, at the ends of the clauses' ranges -/

/-- Whether a command answers a next state. -/
def runs (i : Instr) (s : State) : Bool :=
  match exec i s with
  | .next _ => true
  | .fault _ => false
  | .refused _ => false

theorem exec_of_runs {i : Instr} {s : State} (h : runs i s = true) : exec i s = .next (after i s) := by
  unfold runs at h
  unfold after
  split at h <;> simp_all

theorem exec_of_result {i : Instr} {s : State} {st : Status} {a b : Nat} (h : result i s = some (st, a, b)) :
    exec i s = .next (after i s) ∧ (after i s).status = st := by
  unfold result at h
  unfold after
  split at h <;> simp_all

/-- The state after a step; the state before it if the step stops. -/
def stepped (s : State) : State :=
  match step s with
  | .next t => t
  | .fault _ => s
  | .refused _ => s

/-- Whether a step answers a next state. -/
def steps (s : State) : Bool :=
  match step s with
  | .next _ => true
  | .fault _ => false
  | .refused _ => false

/-- What a step is refused for. -/
def refusal (s : State) : Option Refusal :=
  match step s with
  | .next _ => none
  | .fault _ => none
  | .refused r => some r

theorem step_of_steps {s : State} (h : steps s = true) : step s = .next (stepped s) := by
  unfold steps at h
  unfold stepped
  split at h <;> simp_all

/-- A state whose triplet arrays list nothing has legal arrays if its lengths are legal. -/
theorem arraysLegal_of_empty {s : State} (hl : s.enc.lValues = Arr.empty) (hm : s.enc.mValues = Arr.empty)
    (hd : s.enc.dValues = Arr.empty)
    (hn : s.enc.nMatches.toNat ≤ 10000 ∧ s.enc.nLits.toNat ≤ 40000 ∧ s.dec.nLits.toNat ≤ 40000) : arraysLegal s := by
  refine ⟨hn.1, hn.2.1, hn.2.2, fun i => ?_⟩
  simp [valueAt, State.values, hl, hm, hd, Arr.empty, arrGet, sparseFind, spanAt]

/-- A state whose triplet arrays have no free entries and list legal values has legal arrays if its lengths are legal. -/
theorem arraysLegal_of_cells {s : State} (hs : s.enc.lValues.spans = [] ∧ s.enc.mValues.spans = [] ∧ s.enc.dValues.spans = [])
    (hl : ∀ c ∈ s.enc.lValues.cells, c.2.toNat ≤ 315) (hm : ∀ c ∈ s.enc.mValues.cells, c.2.toNat ≤ 2359)
    (hd : ∀ c ∈ s.enc.dValues.cells, c.2.toNat ≤ 262139)
    (hn : s.enc.nMatches.toNat ≤ 10000 ∧ s.enc.nLits.toNat ≤ 40000 ∧ s.dec.nLits.toNat ≤ 40000) : arraysLegal s := by
  have key (m : Arr U32) (free : Nat → Nat → U32) (b i : Nat) (hm : m.spans = []) (hc : ∀ c ∈ m.cells, c.2.toNat ≤ b) :
      (arrGet 0 free m i).toNat ≤ b := by
    unfold arrGet
    rw [hm]
    cases hf : sparseFind m.cells i with
    | none => simp [spanAt]
    | some v => exact hc (i, v) (Laws.mem_of_sparseFind hf)
  exact ⟨hn.1, hn.2.1, hn.2.2, fun i => ⟨key _ _ _ i hs.1 hl, key _ _ _ i hs.2.1 hm, key _ _ _ i hs.2.2 hd⟩⟩

/-- A held fault. -/
def held : State := faulted .illegalCommand 0 State.reset

/-- An open V2 block. -/
def opened : State := { State.reset with dec := { State.reset.dec with block := .v2 } }

/-- Both contexts poisoned. -/
def poisoned : State := withPoison true true State.reset

theorem witness_ResetByKind : (args 0 0 0 held).arg0 = 0 ∧ (args 1 0 0 held).arg0 = 1 ∧ (args 2 0 0 held).arg0 ≠ 0 ∧
    (args 2 0 0 held).arg0 ≠ 1 := by decide

theorem witness_StickyFault : held.fault ≠ none ∧ opcOf 0x10 ≠ 1 ∧ Instr.outInit ≠ .reset := by decide

theorem witness_PreciseFault : ready State.reset ∧ exec .fseDecode State.reset = .next (after .fseDecode State.reset) ∧
    (after .fseDecode State.reset).fault ≠ none := ⟨by decide, exec_of_runs (by decide), by decide⟩

theorem witness_FaultStatusAgree : faultCoherent (State.reset.withFetchWord 32 0) ∧
    step (State.reset.withFetchWord 32 0) = .next (faulted .illegalCommand 0 State.reset) ∧
    faultCoherent (held.withFetchWord 32 0x10) := ⟨by decide, rfl, by decide⟩

theorem witness_CanonicalFormKept :
    let s := (args 3 65 2 (source rawAAAA { encExample with decTab := [(319, { k := 1, symbol := 65, delta := 638 })] })).withFetchWord 32 2
    canonical s ∧ step s = .next (after .storeArray { s with script := [], cmd := 2 }) := by
  refine ⟨⟨by decide, by decide, by decide, by decide, fun sel => ?_, by decide, fun sel => ⟨?_, ?_, ?_⟩, ?_, fun sel => ?_⟩, rfl⟩
  · cases sel <;> decide
  · cases sel <;> decide
  · cases sel <;> decide
  · cases sel <;> (unfold rising; decide)
  · unfold rising; decide
  · cases sel <;> (unfold rising; decide)

theorem witness_AccumulatorsKept :
    let s := (args 2 0 0 { State.reset with out := { accum := 5, nbits := 3 } }).withFetchWord 32 0x811
    accumulatorsSound s ∧ step s = .next (after (.outPush 2) { s with script := [], cmd := 0x811 }) :=
  ⟨by decide, rfl⟩

theorem witness_ContextCursorsKept :
    let s := (decExample 16 100).withFetchWord 32 0x42
    contextsOrdered s ∧ step s = .next (after .decFeed { s with script := [], cmd := 0x42 }) := ⟨by decide, rfl⟩

theorem witness_ArraysKeptLegal :
    let s := (args 8 16 8 (encOver textE3 1000)).withFetchWord 32 0x58
    arraysLegal s ∧ step s = .next (after .pushLmd { s with script := [], cmd := 0x58 }) :=
  ⟨arraysLegal_of_empty rfl rfl rfl (by decide), rfl⟩

theorem witness_SourceNeverWritten : exec .hash (args 1 0 0 State.reset) = .next (after .hash (args 1 0 0 State.reset)) ∧
    Instr.hash ≠ .reset ∧
    (let s : State := { opened with dec := { opened.dec with nLmdPayloadBytes := 1 }, script := [.srcByte 1 7] }
     step s = .next { s with script := [], src := space [0, 7] } ∧ compressedOpen s = true ∧ s.dec.cur.srcPos.toNat ≤ 0 ∧
     0 < s.dec.cur.srcPos.toNat + s.dec.nLmdPayloadBytes.toNat) ∧
    (let s : State := { after .decStep (decExample 9 2) with script := [.reg .arg0 7] }
     step s = .next { s with script := [], arg0 := 7 } ∧ decoding s = true ∧ s.dec.cur.srcBegin.toNat ≤ 8 ∧
     8 < s.dec.cur.srcPos.toNat) ∧
    (let s : State := { after .decFeed (srcAt 0 0 16 (decExample 3 2)) with script := [.reg .arg0 7] }
     step s = .next { s with script := [], arg0 := 7 } ∧ decoding s = true ∧ s.dec.feedLo.toNat ≤ 3 ∧
     15 < s.dec.cur.srcEnd.toNat ∧ s.dec.cur.srcPos.toNat ≤ 3) ∧
    (let s : State := { encOver textE3 9 with script := [.reg .arg0 7] }
     step s = .next { s with script := [], arg0 := 7 } ∧ encoding s = true ∧ s.enc.srcLo.toNat ≤ 0 ∧
     39 < s.enc.srcBegin.toNat + s.enc.srcLimit.toNat) :=
  ⟨exec_of_runs (by decide), by decide, ⟨rfl, by decide⟩, ⟨rfl, by decide⟩, ⟨rfl, by decide⟩, ⟨rfl, by decide⟩⟩

theorem witness_DstWrittenOnlyInRegion :
    (let s := dstAt 0 0 8 { State.reset with out := { accum := 21, nbits := 5 } }
     exec .outFinish s = .next (after .outFinish s) ∧ dstRegion .outFinish s = (0, 8)) ∧
    (let s := (after .decStep (decExample 10 100)).withFetchWord 32 0x41
     step s = .next (stepped s) ∧ decoding s = true ∧
     (∀ w r, s.script = .cmd w :: r → decode w ≠ .ok .decBuffer) ∧ s.dec.cur.dstBegin.toNat ≤ 1 ∧
     1 < s.dec.cur.dstPos.toNat) := by
  refine ⟨⟨exec_of_runs (by decide), by decide⟩, step_of_steps (by decide), by decide, ?_, by decide, by decide⟩
  · intro w r h
    have : w = 0x41 := by simp [State.withFetchWord] at h; exact h.1.symm
    subst this
    decide

theorem witness_InterlockGuardsOpenBlock :
    (ready opened ∧ compressedOpen opened = true ∧ (args 8 0 0 opened).arg0 = 8 ∧ (args 18 0 0 opened).arg0 = 18) ∧
    Instr.normalize .l ∉ [Instr.decInit, .decStep, .decBuffer, .reset] ∧
    exec (.normalize .l) opened = .next (after (.normalize .l) opened) ∧
    exec .decInit opened = .next (after .decInit opened) ∧ (after .decInit opened).fault = none ∧
    srcOk opened ∧ dstOk opened ∧ opened.arg0 = 0 ∧ exec .reset opened = .next (after .reset opened) :=
  ⟨by decide, by decide, exec_of_runs (by decide), exec_of_runs (by decide), by decide, by decide, by decide, by decide,
    exec_of_runs (by decide)⟩

theorem witness_PoisonBits :
    (ready poisoned ∧ poisoned.dec.poisoned = true ∧ poisoned.enc.poisoned = true) ∧
    (exec .decStep (decExample 16 100) = .next (after .decStep (decExample 16 100)) ∧
      (after .decStep (decExample 16 100)).fault = none) ∧
    (exec .encFinish (encOver textE3 10) = .next (after .encFinish (encOver textE3 10)) ∧
      (after .encFinish (encOver textE3 10)).status = .error) ∧
    (exec .encBuffer (encOver rawAAAA 10) = .next (after .encBuffer (encOver rawAAAA 10)) ∧
      (after .encBuffer (encOver rawAAAA 10)).fault = none) ∧
    (exec .decInit poisoned = .next (after .decInit poisoned) ∧ (after .decInit poisoned).fault = none) ∧
    (exec .encInit poisoned = .next (after .encInit poisoned) ∧ (after .encInit poisoned).fault = none) ∧
    ignoresPoison .hash = true ∧ exec .hash poisoned = .next (after .hash poisoned) := by
  refine ⟨by decide, ⟨exec_of_runs ?_, ?_⟩, ⟨exec_of_runs ?_, ?_⟩, ⟨exec_of_runs ?_, ?_⟩, ⟨exec_of_runs ?_, ?_⟩,
    ⟨exec_of_runs ?_, ?_⟩, by decide, exec_of_runs ?_⟩ <;> decide +kernel

/-- An encoder context over an empty source that ends `back` bytes below the largest index. -/
def encAtTop (back : Nat) : State :=
  let p := 2 ^ 64 - 1 - back
  after .encInit (srcAt p p p { State.reset with srcSize := BitVec.ofNat 64 (2 ^ 64 - 1) })

/-- 46_encoder_backend.md R250, its position at the top of SRC_POS's range and one beyond it (log entry 25): the push ends OK. -/
theorem test_push_at_top :
    (let t := after .pushLmd (args 0 2359 1 (encAtTop 2359))
     t.status = .ok ∧ t.cur.srcPos.toNat = 2 ^ 64 - 1) ∧
    (let t := after .pushLmd (args 0 2359 1 (encAtTop 2358))
     t.status = .ok ∧ t.enc.srcLiteral = 2359 ∧ t.cur.srcBegin.toNat = 2 ^ 64 - 2359) := by decide

theorem witness_CursorsWrittenBack :
    (let t := after .pushLmd (args 0 2359 1 (encAtTop 2359))
     ready (args 0 2359 1 (encAtTop 2359)) ∧ t.fault = none ∧
     t.enc.srcBegin.toNat + t.enc.srcLiteral.toInt = (2 ^ 64 - 1 : Nat) ∧
     t.enc.srcBegin.toNat + t.enc.srcLimit.toNat < 2 ^ 64) ∧
    (ready (decExample 16 100) ∧ exec .decFeed (decExample 16 100) = .next (after .decFeed (decExample 16 100)) ∧
      (after .decFeed (decExample 16 100)).fault = none) ∧
    (ready (encOver textE3 9) ∧ exec .encTranslate (encOver textE3 9) = .next (after .encTranslate (encOver textE3 9)) ∧
      (after .encTranslate (encOver textE3 9)).fault = none) :=
  ⟨by decide, ⟨by decide, exec_of_runs (by decide), by decide⟩, ⟨by decide, exec_of_runs (by decide), by decide⟩⟩

/-- A suspended decode that has produced 2 bytes, and a STORE_RAW of one byte over them. -/
def storeOverProduced : State :=
  { srcAt 0 0 1 (dstAt 0 1 14 (after .decStep (decExample 10 2))) with script := [.cmd 0x5E] }

theorem witness_StepRunsDecoded : (State.reset.withFetchWord 32 0x811).script = [.cmd 0x811] ∧
    decode 0x811 = .ok (.outPush 2) ∧ decoding { State.reset with dec := { State.reset.dec with endOfStream := true } } = false ∧
    (∀ t, exec (.outPush 2) { State.reset with cmd := 0x811 } = .next t →
      overwritesProduced (.outPush 2) { State.reset with cmd := 0x811 } t = false) ∧
    (let s := { storeOverProduced with script := [], cmd := 0x5E }
     decode 0x5E = .ok .storeRaw ∧ exec .storeRaw s = .next (after .storeRaw s) ∧
     overwritesProduced .storeRaw s (after .storeRaw s) = true) ∧
    State.reset.script = [] ∧
    ({ State.reset with script := [.reg .arg0 7] } : State).script = [.reg .arg0 7] ∧
    PortReg.fault ∈ [PortReg.res0, .res1, .status, .fault, .faultInfo] ∧
    PortReg.dstEnd ∉ [PortReg.res0, .res1, .status, .fault, .faultInfo] ∧
    (¬srcGuarded (decExample 10 2) 10 ∧ srcGuarded (after .decFeed (srcAt 0 0 16 (decExample 3 2))) 3 ∧
      ¬(decExample 10 2).srcSize.toNat ≤ 10 ∧ (2 : U64).toNat ≤ 2 ∧ readByte (decExample 10 2).src 0 = 0x62) ∧
    (¬dstGuarded (after .decStep (decExample 10 2)) 2 ∧ dstGuarded (after .decStep (decExample 10 2)) 1) := by
  refine ⟨by decide, by decide, by decide, fun t _ => ?_, ⟨by decide, exec_of_runs (by decide), by decide⟩, by decide, by decide,
    by decide, by decide, by unfold srcGuarded; decide, by unfold dstGuarded; decide⟩
  simp [overwritesProduced, dstRegion]

/-- 70_reset_and_hazards.md R317: duty 2 by a command word and by a byte, duty 3 after DEC_FEED, duty 5 after a short ENC_BUFFER
that leaves the encode of an ENC_INIT in progress (46_encoder_backend.md R272). -/
theorem test_host_duties :
    refusal storeOverProduced = some (.hostDuty .producedBytes) ∧
    refusal { storeOverProduced with script := [.dstByte 1 7] } = some (.hostDuty .producedBytes) ∧
    refusal { after .decFeed (srcAt 0 0 16 (decExample 3 2)) with script := [.srcByte 3 7] } =
      some (.hostDuty .fedBytes) ∧
    refusal { after .encBuffer (dstAt 0 0 16 (srcAt 0 0 4 (encOver textE3 100))) with script := [.srcByte 39 7] } =
      some (.hostDuty .encodedSource) := by
  decide

theorem witness_DecodeEncode : (Instr.outPush 64).wf = true ∧ (Instr.inPull .lmd 63).wf = true := by decide

theorem witness_EncodeDecode : decode 0x10011 = .ok (.outPush 64) := by decide

theorem witness_RejectedWords :
    (ready State.reset ∧ rsvOf 0x20010 ≠ 0 ∧ opcOf 0xFF ∉ assignedOpcodes) ∧
    (rsvOf 0x10411 = 0 ∧ opcOf 0x10411 ∈ assignedOpcodes ∧ ¬nLegal (opcOf 0x10411) (nOf 0x10411)) ∧
    (rsvOf 0x218 = 0 ∧ opcOf 0x218 ∈ assignedOpcodes ∧ ¬selLegal (opcOf 0x218) (selOf 0x218)) ∧
    (∀ k ∈ [13, 15, 19, 2 ^ 64 - 1], (13 ≤ (args k 0 0 State.reset).arg0.toNat ∧ (args k 0 0 State.reset).arg0.toNat ≤ 15) ∨
      19 ≤ (args k 0 0 State.reset).arg0.toNat) ∧
    (rsvOf 0xFC1A = 0 ∧ opcOf 0xFC1A ∈ assignedOpcodes ∧ selLegal (opcOf 0xFC1A) (selOf 0xFC1A) ∧
      nLegal (opcOf 0xFC1A) (nOf 0xFC1A)) := by
  unfold nLegal selLegal
  decide

theorem witness_CursorChecks :
    (∀ s ∈ [dstAt 1 0 8 State.reset, dstAt 0 9 8 State.reset, dstAt 0 0 9 { State.reset with dstSize := 8 }],
      ready s ∧ 0 ≤ s.out.nbits ∧ srcOk s ∧ ¬dstOk s) ∧
    (let s := srcAt 1 0 8 State.reset; ready s ∧ ¬srcOk s ∧ s.cur.srcPos.toNat < s.cur.srcBegin.toNat) ∧
    (let s := srcAt 0 9 8 State.reset; ready s ∧ s.cur.srcBegin.toNat ≤ s.cur.srcPos.toNat ∧
      s.cur.srcEnd.toNat < s.cur.srcPos.toNat) ∧
    (let s := srcAt 0 0 9 { State.reset with srcSize := 8 }; ready s ∧ s.cur.srcPos.toNat ≤ s.cur.srcEnd.toNat ∧
      s.srcSize.toNat < s.cur.srcEnd.toNat) := by decide

theorem witness_ArrayElementAccess :
    arrayOfId (args 13 0 0 State.reset).arg0.toNat = none ∧ arrayOfId (args 3 255 0 State.reset).arg0.toNat = some (.occ .lit) ∧
    arrayLength (.occ .lit) ≤ (args 3 256 0 State.reset).arg1.toNat ∧ (args 3 255 0 State.reset).arg1.toNat < arrayLength (.occ .lit) ∧
    (compressedOpen opened = true ∧ arrayOfId (args 18 0 0 opened).arg0.toNat = some .decNLits) ∧
    (compressedOpen State.reset = false ∧ arrayLegal .lValues 316 = false ∧ arrayLegal .lValues 315 = true ∧
      arrayLegal .dValues 0 = false) ∧
    (ArrayId.freq .l ≠ .occ .lit ∧ 19 < arrayLength (.freq .l)) := by decide

/-- The machine with OUT holding n bits of a value. -/
def outHolds (n : Int) (v : Nat) : State := { State.reset with out := { accum := BitVec.ofNat 64 v, nbits := n } }

theorem witness_OutInitPushOutcomes :
    ready State.reset ∧ 64 < 65 ∧ (2 ^ 3 ≤ (args 8 0 0 State.reset).arg0.toNat) ∧ (args 7 0 0 State.reset).arg0.toNat < 2 ^ 3 ∧
    (outHolds (-1) 0).out.nbits < 0 ∧ 64 < (outHolds 62 0).out.nbits + 3 ∧
    0 ≤ (outHolds 61 0).out.nbits ∧ (outHolds 61 0).out.nbits + 3 ≤ 64 := by decide

theorem witness_OutFlushFinishOutcomes :
    ready (outHolds (-1) 0) ∧ (outHolds (-1) 0).out.nbits < 0 ∧
    (0 ≤ (dstAt 1 0 0 (outHolds 0 0)).out.nbits ∧ ¬dstOk (dstAt 1 0 0 (outHolds 0 0))) ∧
    (∀ c ∈ [0, 1], dstOk (dstAt 0 0 c (outHolds 16 0))) ∧
    ((dstAt 0 0 1 (outHolds 16 0)).cur.dstEnd.toNat < 0 + 16 / 8) ∧ (0 + 16 / 8 ≤ (dstAt 0 0 2 (outHolds 16 0)).cur.dstEnd.toNat) ∧
    ((dstAt 0 0 1 (outHolds 9 0)).cur.dstEnd.toNat < 0 + (9 + 7) / 8) ∧
    (0 + (9 + 7) / 8 ≤ (dstAt 0 0 2 (outHolds 9 0)).cur.dstEnd.toNat) := by decide

theorem witness_InInitOutcomes :
    (ready opened ∧ compressedOpen opened = true) ∧ compressedOpen State.reset = false ∧ ¬srcOk (srcAt 1 0 8 State.reset) ∧
    (∀ n ∈ [-8, -7, -4, -3, 0, 1], srcOk (inputExample n) ∧ (inputExample n).arg1.toNat ≤ (inputExample n).cur.srcEnd.toNat) ∧
    (srcOk (srcAt 0 0 7 (inputExample 0)) ∧ (srcAt 0 0 7 (inputExample 0)).cur.srcEnd.toNat < (inputExample 0).arg1.toNat) ∧
    ((inputExample (-8)).arg0.toInt < -7 ∧ 0 < (inputExample 1).arg0.toInt ∧ (7 : Nat) < 0 + 8) ∧
    (-7 ≤ (inputExample (-4)).arg0.toInt ∧ 2 ^ 60 ≤ memRead (inputExample (-4)).src 0 8) ∧
    (-7 ≤ (inputExample (-3)).arg0.toInt ∧ (inputExample (-3)).arg0.toInt ≤ 0 ∧ memRead (inputExample (-3)).src 0 8 < 2 ^ 61) ∧
    ((inputExample 0).arg0.toInt = 0 ∧ memRead (inputExample 0).src 1 7 < 2 ^ 56) := by decide

/-- An input accumulator over the bytes of 95_test_vectors.md's refill example. -/
def inHolds (n pos lo : Nat) : State :=
  { source [1, 2, 3, 4, 5, 6, 7, 8, 9] State.reset with
    in0 := { accum := 0, nbits := n, pos := BitVec.ofNat 64 pos, lo := BitVec.ofNat 64 lo, valid := true } }

theorem witness_InFlushPullOutcomes :
    (ready opened ∧ compressedOpen opened = true) ∧ (State.reset.inAcc .lit).valid = false ∧
    (∀ s ∈ [inHolds 36 9 0, inHolds 36 9 6, inHolds 36 9 7], (s.inAcc .lit).valid = true ∧ inSound (s.inAcc .lit)) ∧
    ((inHolds 36 9 7).in0.pos.toNat < (inHolds 36 9 7).in0.lo.toNat + (63 - 36) / 8) ∧
    ((inHolds 36 9 6).in0.lo.toNat + (63 - 36) / 8 ≤ (inHolds 36 9 6).in0.pos.toNat) ∧
    (inHolds 36 9 0).in0.nbits < 37 ∧ 36 ≤ (inHolds 36 9 0).in0.nbits := by decide

theorem witness_BitstreamRoundTrip :
    (∀ f ∈ [(3, 5), (56, 2 ^ 56 - 1), (0, 0)], f.1 ≤ 56 ∧ f.2 < 2 ^ f.1) ∧ 0 + 8 ≤ 8 ∧
    bytesAt (space [0, 0, 0, 0, 0, 0, 0, 0, 0x15]) 8 [0x15] := by
  refine ⟨by decide, by decide, ?_⟩
  unfold bytesAt
  decide

theorem witness_NormalizeSumsToStates :
    ready State.reset ∧ 2 ^ 32 ≤ occTotal (withOcc .l [(0, 2 ^ 32 - 1), (1, 1)] State.reset) .l ∧
    occTotal (withOcc .l [(0, 2 ^ 32 - 1)] State.reset) .l < 2 ^ 32 ∧
    (let s := withOcc .l [(0, 100), (1, 1), (2, 1), (3, 1)] State.reset
     let f := fun i => roundedFreq (nstates .l) (occTotal s .l) (occAt s .l i)
     (∀ i, i < nsym .l → f i ≤ f 0) ∧ roundedBefore s .l (nsym .l) < nstates .l + f 0 / 4) := by decide

theorem witness_FrequencyAndHeaderChecks : ready (withFreq .l [(0, 64)] State.reset) ∧
    freqTotal (withFreq .l [(0, 64)] State.reset) .l ≤ nstates .l ∧
    ¬freqTotal (withFreq .l [(0, 65)] State.reset) .l ≤ nstates .l := by decide

theorem witness_BuildEncEntries : ready State.reset ∧ nstates .l < freqTotal (withFreq .l [(0, 65)] State.reset) .l ∧
    freqTotal (withFreq .l [(0, 48), (1, 16)] State.reset) .l ≤ nstates .l ∧
    freqAt (withFreq .l [(0, 48), (1, 16)] State.reset) .l 0 ≠ 0 ∧ freqAt (withFreq .l [(0, 48), (1, 16)] State.reset) .l 2 = 0 := by
  decide

theorem witness_BuildDecEntries : ready State.reset ∧ 1024 < freqTotal (withFreq .lit [(0, 1025)] State.reset) .lit ∧
    (let s := withFreq .lit [(0, 3), (1, 1021)] State.reset
     freqTotal s .lit ≤ 1024 ∧ 1024 ≤ freqAt s .lit 0 * 2 ^ 9 ∧ freqAt s .lit 0 * 2 ^ 9 < 2048 ∧ 2 < freqAt s .lit 0) := by
  decide +kernel

theorem witness_BuildVdecEntries : ready State.reset ∧ compressedOpen opened = true ∧ compressedOpen State.reset = false ∧
    nstates (streamOf .l) < freqTotal (withFreq .l [(0, 65)] State.reset) (streamOf .l) ∧
    (let s := withFreq .l [(17, 64)] State.reset
     freqTotal s (streamOf .l) ≤ nstates (streamOf .l) ∧ nstates (streamOf .l) ≤ freqAt s .l 17 * 2 ^ 0 ∧
     freqAt s .l 17 * 2 ^ 0 < 2 * nstates (streamOf .l) ∧ 63 < freqAt s .l 17) := by decide

theorem witness_SymbolOfValueResult : ready State.reset ∧ maxValue .l < (args 316 0 0 State.reset).arg0.toNat ∧
    (args 315 0 0 State.reset).arg0.toNat ≤ maxValue .l := by decide

theorem witness_FseEncodeResult :
    ready encExample ∧ nstates .lit ≤ (args 1024 65 0 encExample).arg0.toNat ∧ (args 1023 65 0 encExample).arg0.toNat < nstates .lit ∧
    nsym .lit ≤ (args 0 256 0 encExample).arg1.toNat ∧ sparseFind (encExample.encTab.get .lit) 68 = none ∧
    sparseFind (encExample.encTab.get .lit) 65 = some { s0 := 0, k := 1, delta0 := 0, delta1 := 512 } ∧
    (outHolds (-1) 0).out.nbits < 0 ∧ 64 < (outHolds 64 0).out.nbits + 1 ∧ (outHolds 63 0).out.nbits + 1 ≤ 64 := by decide

theorem witness_FseDecodeResults :
    (let s := { inHolds 1 0 0 with decTab := [(319, { k := 1, symbol := 65, delta := 638 })] }
     ready s ∧ 1024 ≤ (args 1024 0 0 s).arg0.toNat ∧ sparseFind s.decTab 1023 = none ∧
     sparseFind s.decTab 319 = some { k := 1, symbol := 65, delta := 638 } ∧ s.in0.valid = true ∧ 1 ≤ s.in0.nbits ∧
     (inHolds 0 0 0).in0.nbits < 1 ∧ State.reset.in0.valid = false) ∧
    (let s := { State.reset with
      vdecTab := { State.reset.vdecTab with l := [(5, { totalBits := 3, valueBits := 3, delta := 5, valueBase := 20 })] },
      in1 := { accum := 6, nbits := 3, pos := 0, lo := 0, valid := true } }
     ready s ∧ compressedOpen s = false ∧ nstates (streamOf .l) ≤ (args 64 0 0 s).arg0.toNat ∧
     sparseFind (s.vdecTab.get .l) 63 = none ∧ (sparseFind (s.vdecTab.get .l) 5).isSome = true ∧ s.in1.valid = true ∧
     3 ≤ s.in1.nbits) := by decide

theorem witness_LiteralDecodeInvertsEncode :
    let s := withFreq .lit [(0, 3), (1, 1021)] State.reset
    ready s ∧ freqTotal s .lit ≤ 1024 ∧ exec (.buildEnc .lit) s = .next (after (.buildEnc .lit) s) ∧
    exec .buildDec s = .next (after .buildDec s) ∧ freqAt s .lit 0 ≠ 0 ∧ outSound (outHolds 54 1).out ∧
    inPull { accum := 5, nbits := 9, pos := 0, lo := 0, valid := true } 9 =
      .ok (5 % 2 ^ 9, { accum := 0, nbits := 0, pos := 0, lo := 0, valid := true }) := by
  refine ⟨?_, ?_, exec_of_runs ?_, exec_of_runs ?_, ?_, ?_, rfl⟩ <;> decide +kernel

theorem witness_ValueDecodeInvertsEncode :
    let s := withFreq .l [(17, 64)] State.reset
    ready s ∧ compressedOpen s = false ∧ freqTotal s (streamOf .l) ≤ nstates (streamOf .l) ∧
    exec (.buildEnc (streamOf .l)) s = .next (after (.buildEnc (streamOf .l)) s) ∧
    exec (.buildVdec .l) s = .next (after (.buildVdec .l) s) ∧ symbolOfValue .l 26 = .ok (17, 6) ∧
    freqAt s (streamOf .l) 17 ≠ 0 ∧ outSound (outHolds 41 1).out ∧
    inPull { accum := 6, nbits := 3, pos := 0, lo := 0, valid := true } 3 =
      .ok (5 % 2 ^ 0 * 2 ^ 3 + 6, { accum := 0, nbits := 0, pos := 0, lo := 0, valid := true }) := by
  refine ⟨?_, ?_, ?_, exec_of_runs ?_, exec_of_runs ?_, rfl, ?_, ?_, rfl⟩ <;> decide +kernel

theorem witness_FrequencyCodes : ready State.reset ∧ 1047 < (args 1048 0 0 State.reset).arg0.toNat ∧
    (args 1047 0 0 State.reset).arg0.toNat ≤ 1047 := by decide

/-- A header with one field changed. -/
def hdrHolds (h : Hdr) (e : Nat) : State := dstAt 0 0 e { State.reset with hdr := h }

theorem witness_HeaderPackOutcomes : ready State.reset ∧ ¬dstOk (dstAt 1 0 0 State.reset) ∧
    (let s := hdrHolds { Hdr.zero with nLiterals := 0x100000 } 200
     dstOk s ∧ ¬fieldFits s 1 ∧ fieldFits s 0) ∧
    (let s := hdrHolds Hdr.zero 121
     dstOk s ∧ s.cur.dstEnd.toNat < 0 + headerSizeOf s) ∧
    (let s := hdrHolds Hdr.zero 122
     dstOk s ∧ (∀ id, fieldFits s id) ∧ 0 + headerSizeOf s ≤ s.cur.dstEnd.toNat) := by
  refine ⟨by decide, by decide, ⟨by decide, ?_, ?_⟩, ⟨by decide, by decide +kernel⟩, ⟨by decide, fun id => ?_, by decide +kernel⟩⟩
  · show ¬(0x100000 < 2 ^ 20)
    decide
  · show 16 ≤ 0 → 0 < 376 → _
    omega
  · unfold fieldFits
    split <;> first | decide | skip
    intro _ _
    have : concatFreq (hdrHolds Hdr.zero 122) (id - 16) = 0 := by
      unfold concatFreq freqAt
      split <;> [rfl; split <;> [rfl; split <;> rfl]]
    omega

theorem witness_HeaderUnpackOutcomes : ready State.reset ∧ ¬srcOk (srcAt 1 0 0 State.reset) ∧
    (let s := srcAt 0 0 121 (source packedFour State.reset)
     srcOk s ∧ s.cur.srcEnd.toNat < 0 + field (memRead s.src (0 + 24) 8) 0 32) ∧
    (let s := srcAt 0 0 32 State.reset
     srcOk s ∧ 0 + 32 ≤ s.cur.srcEnd.toNat ∧ field (memRead s.src (0 + 24) 8) 0 32 < 32) ∧
    (let s := srcAt 0 0 122 (source packedFour State.reset)
     srcOk s ∧ field (memRead s.src (0 + 24) 8) 0 32 = 122 ∧ regionCodes s.src 0 122 (List.replicate 360 0)) := by
  refine ⟨by decide, by decide, by decide, by decide, by decide, by decide, ?_⟩
  unfold regionCodes
  decide +kernel

theorem witness_HeaderRoundTrip :
    let s := hdrHolds { Hdr.zero with nRawBytes := 4 } 200
    let u := srcAt 0 0 122 (source packedFour State.reset)
    ready s ∧ exec .hdrPack s = .next (after .hdrPack s) ∧ (after .hdrPack s).status = .ok ∧ ready u ∧ srcOk u ∧
    u.cur.srcPos.toNat + headerSizeOf s ≤ u.cur.srcEnd.toNat ∧
    ∀ k, k < headerSizeOf s → readByte u.src (u.cur.srcPos.toNat + k) = readByte (after .hdrPack s).dst (s.cur.dstPos.toNat + k) := by
  refine ⟨?_, exec_of_runs ?_, ?_, ?_, ?_, ?_, ?_⟩ <;> decide +kernel

theorem witness_VerboseHeaderImage : ready State.reset ∧ ¬srcOk (srcAt 1 0 0 State.reset) ∧
    (srcOk (srcAt 0 0 771 State.reset) ∧ (srcAt 0 0 771 State.reset).cur.srcEnd.toNat < 0 + 772) ∧
    (srcOk (srcAt 0 0 772 State.reset) ∧ 0 + 772 ≤ (srcAt 0 0 772 State.reset).cur.srcEnd.toNat) ∧
    ¬dstOk (dstAt 1 0 0 State.reset) ∧
    (dstOk (dstAt 0 0 771 State.reset) ∧ (dstAt 0 0 771 State.reset).cur.dstEnd.toNat < 0 + 772) ∧
    (dstOk (dstAt 0 0 772 State.reset) ∧ 0 + 772 ≤ (dstAt 0 0 772 State.reset).cur.dstEnd.toNat) := by decide

theorem witness_DecInitFreshContext : ready State.reset ∧ ¬srcOk (srcAt 1 0 0 State.reset) ∧
    (srcOk (dstAt 1 0 0 State.reset) ∧ ¬dstOk (dstAt 1 0 0 State.reset)) ∧
    (srcOk (dstAt 0 0 100 (srcAt 0 0 16 State.reset)) ∧ dstOk (dstAt 0 0 100 (srcAt 0 0 16 State.reset))) := by decide

theorem witness_DecFeedGrowEnds : (ready poisoned ∧ poisoned.dec.poisoned = true) ∧
    (let s := srcAt 0 0 15 (dstAt 0 0 99 (decExample 16 100))
     ready s ∧ s.dec.poisoned = false ∧ s.cur.srcEnd.toNat < s.dec.cur.srcEnd.toNat ∧ s.cur.dstEnd.toNat < s.dec.cur.dstEnd.toNat) ∧
    (let s := { srcAt 0 0 17 (dstAt 0 0 101 (decExample 16 100)) with srcSize := 16, dstSize := 100 }
     s.srcSize.toNat < s.cur.srcEnd.toNat ∧ s.dstSize.toNat < s.cur.dstEnd.toNat) ∧
    (let s := srcAt 0 0 16 (dstAt 0 0 100 (decExample 16 100))
     s.dec.cur.srcEnd.toNat ≤ s.cur.srcEnd.toNat ∧ s.cur.srcEnd.toNat ≤ s.srcSize.toNat ∧
     s.dec.cur.dstEnd.toNat ≤ s.cur.dstEnd.toNat ∧ s.cur.dstEnd.toNat ≤ s.dstSize.toNat) := by decide

theorem witness_DecStepEnds : ready (decExample 16 100) ∧ (decExample 16 100).dec.poisoned = false := by decide

/-- A decoder context over these bytes. -/
def decOver (l : List Nat) : State := after .decInit (dstAt 0 0 100 (srcAt 0 0 l.length (source l State.reset)))

theorem witness_DecStepBlocks_between :
    (∀ s ∈ [decExample 3 100, decExample 7 100, decExample 8 100], ready s ∧ s.dec.poisoned = false ∧
      s.dec.endOfStream = false ∧ s.dec.block = .noBlock) ∧
    (decExample 3 100).dec.cur.srcEnd.toNat < 0 + 4 ∧
    (let s := after .decInit (srcAt 0 12 16 (source rawAAAA State.reset))
     s.dec.endOfStream = false ∧ s.dec.block = .noBlock ∧ 12 + 4 ≤ s.dec.cur.srcEnd.toNat ∧ memRead s.src 12 4 = 0x24787662) ∧
    (let s := after .decInit (srcAt 0 1 16 (source rawAAAA State.reset))
     s.dec.block = .noBlock ∧
     memRead s.src 1 4 ∉ [0x24787662, 0x2D787662, 0x31787662, 0x32787662, 0x6E787662]) ∧
    (memRead (decExample 7 100).src 0 4 = 0x2D787662 ∧ (decExample 7 100).dec.cur.srcEnd.toNat < 0 + 8 ∧
      0 + 8 ≤ (decExample 8 100).dec.cur.srcEnd.toNat) ∧
    (∀ n ∈ [11, 12], let s := decOver ([0x62, 0x76, 0x78, 0x6E] ++ List.replicate (n - 4) 0)
     s.dec.block = .noBlock ∧ memRead s.src 0 4 = 0x6E787662 ∧ s.dec.cur.srcEnd.toNat = n) := by decide

/-- The fixed part of V-H1 with one byte changed, in a source of n bytes (the region bytes that are 0 read as an unwritten byte
does). -/
def packedWith (i b n : Nat) : State :=
  after .decInit (dstAt 0 0 100 (srcAt 0 0 n (source (packedFour.set i b) State.reset)))

/-- What an unpacked header says. -/
def readsAs (u : Unpacked) : Option Nat :=
  match u with
  | .srcEmpty => some 0
  | .error => some 1
  | .ok h _ hs => some (hs + h.nLiteralPayloadBytes.toNat + h.nLmdPayloadBytes.toNat)

/-- The header of a V2 block with no literal, no match and an LMD payload of 8 bytes. -/
def lmdHeader : Hdr := { Hdr.zero with magic := 0x31787662, nRawBytes := 4, nLmdPayloadBytes := 8, nPayloadBytes := 8 }

/-- That header, loaded. -/
def lmdLoaded : State := loadHeader lmdHeader (List.replicate 360 0) 122 State.reset

theorem lmdLoaded_passes (b : Nat) (hb : b < 17) : headerPasses lmdLoaded b := by
  have hf (sel : Sel) : freqTotal lmdLoaded sel = 0 := by cases sel <;> decide +kernel
  match b with
  | 0 | 1 | 2 | 3 | 4 | 5 | 6 | 7 | 8 | 9 | 14 | 15 | 16 => simp only [headerPasses]; decide
  | 10 | 11 | 12 | 13 => simp [headerPasses, hf]
  | n + 17 => omega

/-- A V2 header that is not whole, one that is wrong, one whose payload is not whole, and whole blocks: one that fails HDR_CHECK
(6 is no multiple of 4), one whose LMD stream is too short, and one that opens. -/
theorem witness_DecStepBlocks_opening :
    (∀ n ∈ [31, 121, 122], memRead (packedWith 21 0 n).src 0 4 = 0x32787662) ∧
    readsAs (unpackHeader (packedWith 21 0 31).src 0 31) = some 0 ∧
    readsAs (unpackHeader (packedWith 24 31 122).src 0 122) = some 1 ∧
    readsAs (unpackHeader (packedWith 21 8 129).src 0 129) = some 130 ∧
    readsAs (unpackHeader (packedWith 21 8 130).src 0 130) = some 130 ∧
    (let h : Hdr := { Hdr.zero with magic := 0x31787662, nRawBytes := 4, nLiterals := 6 }
     ¬headerPasses (loadHeader h (List.replicate 360 0) 122 (packedWith 8 6 122)) 14) ∧
    (let s := packedWith 21 8 130
     (∀ b, b < 17 → headerPasses lmdLoaded b) ∧
     (inInit s.src s.in0 0 122 0).1 = true ∧
     literalRun [] s.src 0 { s0 := 0, s1 := 0, s2 := 0, s3 := 0 } (inInit s.src s.in0 0 122 0).2 =
       some ([], (inInit s.src s.in0 0 122 0).2) ∧
     (inInit s.src s.in1 0 130 122).1 = true ∧ (inInit s.src s.in1 0 122 122).1 = false) ∧
    (let s := after .decInit (srcAt 0 0 772 (source [0x62, 0x76, 0x78, 0x31] State.reset))
     memRead s.src 0 4 = 0x31787662 ∧ ¬s.dec.cur.srcEnd.toNat < 0 + 772 ∧ 771 < 0 + 772) := by
  refine ⟨?_, ?_, ?_, ?_, ?_, ?_, ⟨?_, ?_, ?_, ?_⟩, ?_⟩
  · decide
  · decide +kernel
  · decide +kernel
  · decide +kernel
  · decide +kernel
  · show ¬(6 % 4 = 0)
    decide
  · exact lmdLoaded_passes
  · decide
  · rfl
  · decide
  · decide

/-- An open block with one triplet to pull, (0, 0, 0) from tables of one entry each. -/
def openTriplet : State :=
  { decExample 8 4 with
    in1 := { accum := 0, nbits := 60, pos := 8, lo := 0, valid := true },
    vdecTab := { l := [(0, { totalBits := 0, valueBits := 0, delta := 0, valueBase := 0 })],
                 m := [(0, { totalBits := 0, valueBits := 0, delta := 0, valueBase := 0 })],
                 d := [(0, { totalBits := 0, valueBits := 0, delta := 0, valueBase := 0 })] },
    dec := { (decExample 8 4).dec with block := .v2, nMatches := 1, nLmdPayloadBytes := 8, curD := 1 } }

/-- The same with 2 literals and 3 match bytes pending at distance d, in a room of r. -/
def openPending (d r : Nat) : State :=
  { openTriplet with dec := { openTriplet.dec with
    pendL := 2, pendM := 3, nLits := 2, curD := BitVec.ofNat 32 d, cur := { openTriplet.dec.cur with dstEnd := BitVec.ofNat 64 r } } }

theorem witness_DecStepBlocks_raw :
    (let s := after .decStep (decExample 9 2)
     s.dec.block = .raw ∧ min s.dec.rawRemaining.toNat (min (s.dec.cur.srcEnd.toNat - s.dec.cur.srcPos.toNat)
       (s.dec.cur.dstEnd.toNat - s.dec.cur.dstPos.toNat)) < s.dec.rawRemaining.toNat) ∧
    (let s := after .decFeed (srcAt 0 0 16 (after .decStep (decExample 9 4)))
     s.dec.block = .raw ∧ min s.dec.rawRemaining.toNat (min (s.dec.cur.srcEnd.toNat - s.dec.cur.srcPos.toNat)
       (s.dec.cur.dstEnd.toNat - s.dec.cur.dstPos.toNat)) = s.dec.rawRemaining.toNat) := by decide

theorem witness_DecStepBlocks_open :
    (let s := openTriplet
     ready s ∧ s.dec.poisoned = false ∧ s.dec.endOfStream = false ∧ s.dec.block = .v2 ∧ s.dec.pendL = 0 ∧ s.dec.pendM = 0 ∧
     s.dec.nMatches ≠ 0 ∧ 0 < s.dec.cur.srcEnd.toNat ∧ 0 + s.dec.nLmdPayloadBytes.toNat ≤ s.dec.cur.srcEnd.toNat ∧
     (s.dec.litPos.toNat : Int) + 0 ≤ s.dec.nLits.toNat ∧ s.dec.nLits.toNat < 1 + 0) ∧
    (lmdPull openTriplet).map LmdPull.l = some 0 ∧ lmdPull { openTriplet with in1 := InAcc.zero } = none := by decide

theorem witness_DecStepBlocks_pending : (openPending 3 4).dec.pendL ≠ 0 ∧
    (distanceOk (openPending 2 4) 2 2 ∧ ¬distanceOk (openPending 3 4) 2 3) ∧
    (copyTriplet 2 3 2 (openPending 2 4)).1 = false ∧ (copyTriplet 2 3 2 (openPending 2 5)).1 = true := by
  refine ⟨by decide, ?_, by decide, by decide⟩
  unfold distanceOk
  decide

/-- A secondary block with p payload bytes to come, 8 of them there. -/
def openSecondary (p : Nat) : State :=
  { decExample 8 4 with dec := { (decExample 8 4).dec with block := .vn, vnPayload := BitVec.ofNat 32 p } }

/-- A secondary block whose payload is whole, and one whose payload is not. Which of the agent's answers is the one met is the
agent's to say (log entry 6). -/
theorem witness_DecStepBlocks_secondary : (openSecondary 8).dec.block = .vn ∧
    0 + (openSecondary 8).dec.vnPayload.toNat ≤ (openSecondary 8).dec.cur.srcEnd.toNat ∧
    (openSecondary 9).dec.cur.srcEnd.toNat < 0 + (openSecondary 9).dec.vnPayload.toNat := by decide

theorem witness_CopyTripletBytes : ∀ s ∈ [decExample 0 100, decExample 0 99, decExample 0 2],
    s.dec.litPos.toNat + 3 ≤ 40000 ∧ 97 < 2 ^ 32 ∧ 1 ≤ 3 ∧ s.dec.cur.dstPos.toNat ≤ s.dec.cur.dstEnd.toNat ∧
    3 ≤ s.dec.cur.dstPos.toNat + 3 - s.dec.cur.dstBegin.toNat := by decide

theorem witness_DecStepResumes :
    (let s := decExample 16 2
     ready s ∧ s.dec.poisoned = false ∧ s.dec.cur.dstPos.toNat ≤ s.dec.cur.dstEnd.toNat ∧ compressedOpen s = false ∧
     exec .decStep s = .next (after .decStep s) ∧ (after .decStep s).status = .dstFull ∧ (after .decStep s).dec.block ≠ .vn ∧
     (after .decStep s).dec.cur.dstEnd.toNat ≤ (4 : U64).toNat ∧ (4 : U64).toNat ≤ s.dstSize.toNat) ∧
    (let s := openPending 2 4
     ready s ∧ s.dec.poisoned = false ∧ compressedOpen s = true ∧ resumable s ∧ exec .decStep s = .next (after .decStep s) ∧
     (after .decStep s).status = .dstFull ∧ (after .decStep s).dec.block ≠ .vn) := by
  refine ⟨⟨by decide, by decide, by decide, by decide, exec_of_runs (by decide), by decide⟩, by decide, by decide, by decide,
    ⟨by decide, fun _ => ⟨by decide, fun sel j e h => ?_⟩⟩, exec_of_runs (by decide +kernel), by decide +kernel⟩
  have he : e = { totalBits := 0, valueBits := 0, delta := 0, valueBase := 0 } := by
    cases sel <;>
    · simp only [openPending, openTriplet, Triple.get, sparseFind] at h
      split at h <;> simp_all
  subst he
  decide

theorem witness_DecBufferIsInitThenStep : ready State.reset ∧ ¬srcOk (srcAt 1 0 0 State.reset) ∧
    (srcOk (dstAt 1 0 0 State.reset) ∧ ¬dstOk (dstAt 1 0 0 State.reset)) ∧
    (srcOk (decExample 16 100) ∧ dstOk (decExample 16 100)) := by decide

theorem witness_EncInitHashResults : ready State.reset ∧ 2 ^ 32 ≤ (args (2 ^ 32) 0 0 State.reset).arg0.toNat ∧
    (args (2 ^ 32 - 1) 0 0 State.reset).arg0.toNat < 2 ^ 32 ∧ ¬srcOk (srcAt 1 0 0 State.reset) ∧
    (srcOk (dstAt 1 0 0 State.reset) ∧ ¬dstOk (dstAt 1 0 0 State.reset)) ∧ (srcOk State.reset ∧ dstOk State.reset) := by decide

/-- An encoder context 6 bytes into its source. -/
def encAtSix : State :=
  let s := encOver textE3 1000
  { s with enc := { s.enc with srcEncodeI := 10, srcLiteral := 6 } }

theorem witness_EncTranslateMovesOrigin :
    (ready encAtSix ∧ sparseWf emptyBucket encAtSix.enc.hist = true ∧ encAtSix.enc.poisoned = false) ∧
    poisoned.enc.poisoned = true ∧ encAtSix.enc.srcLiteral.toInt < (args 7 0 0 encAtSix).arg0.toNat ∧
    ((args 0 0 0 encAtSix).arg0.toNat = 0 ∧ 0 ≤ encAtSix.enc.srcLiteral.toInt ∧ 0 ≤ encAtSix.enc.srcEncodeI.toInt) ∧
    (0 < (args 6 0 0 encAtSix).arg0.toNat ∧ (args 6 0 0 encAtSix).arg0.toNat ≤ encAtSix.enc.srcLiteral.toInt ∧
      (args 6 0 0 encAtSix).arg0.toNat ≤ encAtSix.enc.srcEncodeI.toInt ∧
      (args 6 0 0 encAtSix).arg0.toNat ≤ encAtSix.enc.srcLimit.toNat ∧
      (args 6 0 0 encAtSix).arg0.toNat ≤ encAtSix.enc.srcEnd.toNat ∧
      -(2 ^ 63) ≤ encAtSix.enc.pending.pos.toInt - 6 ∧ -(2 ^ 63) ≤ encAtSix.enc.pending.ref.toInt - 6) := by decide

theorem witness_PushLmdOutcomes :
    (ready poisoned ∧ poisoned.enc.poisoned = true) ∧ 315 < (args 316 0 1 State.reset).arg0.toNat ∧
    2359 < (args 315 2360 1 State.reset).arg1.toNat ∧ (args 315 2359 0 State.reset).arg2.toNat < 1 ∧
    262139 < (args 315 2359 262140 State.reset).arg2.toNat ∧
    (let s := args 0 4 4 { State.reset with enc := { State.reset.enc with nMatches := 9992 } }
     s.enc.poisoned = false ∧ 10000 < s.enc.nMatches.toNat + 1 + 8) ∧
    (let s := args 40 0 262139 (encOver textE3 100)
     ready s ∧ s.enc.poisoned = false ∧ encSourceOpen s ∧ ¬(10000 < s.enc.nMatches.toNat + 1 + 8 ∨ 40000 < s.enc.nLits.toNat + 40 + 16) ∧
     s.enc.srcLiteral.toInt + 40 ≤ s.enc.srcLimit.toNat ∧ s.enc.srcLiteral.toInt + 40 + 0 < 2 ^ 63) ∧
    (encOver textE3 100).enc.srcLimit.toNat < (encOver textE3 100).enc.srcLiteral.toInt + 41 ∧
    (let s := args 1 0 1 (encAtTop 0)
     encSourceOpen s ∧ s.enc.srcLimit.toNat < s.enc.srcLiteral.toInt + 1 ∧
     s.enc.srcBegin.toNat + max s.enc.srcLimit.toNat s.enc.srcLiteral.toInt.toNat = 2 ^ 64 - 1) := by decide

theorem witness_PushMatchSplits :
    (ready poisoned ∧ poisoned.enc.poisoned = true) ∧
    (let s := args 8 0 32 (encOver textE3 100)
     ready s ∧ encSourceOpen s ∧ s.enc.nMatches.toNat ≤ 10000 ∧ s.enc.nLits.toNat ≤ 40000 ∧ s.enc.poisoned = false ∧
     s.enc.srcLiteral.toInt.toNat ≤ 8 ∧ 0 < 8 ∧ 8 - 0 ≤ 262139 ∧ 8 + 32 ≤ s.enc.srcLimit.toNat ∧
     ¬(tripletsOf 8 32 8 ≠ [] ∧ (10000 < s.enc.nMatches.toNat + (tripletsOf 8 32 8).length + 8 ∨ 40000 < s.enc.nLits.toNat + 8 + 16))) ∧
    (let s := { encOver textE3 100 with enc := { (encOver textE3 100).enc with nMatches := 9992 } }
     encSourceOpen s ∧ tripletsOf 8 32 8 ≠ [] ∧ 10000 < s.enc.nMatches.toNat + (tripletsOf 8 32 8).length + 8) ∧
    (let s := { encOver textE3 100 with enc := { (encOver textE3 100).enc with srcLiteral := 9 } }
     encSourceOpen s ∧ 8 < s.enc.srcLiteral.toInt.toNat) ∧
    (encOver textE3 100).enc.srcLimit.toNat < 8 + 33 ∧
    (0 < (args 40 0 0 (encOver textE3 100)).arg0.toNat ∧ 0 + 40 ≤ (encOver textE3 100).enc.srcLimit.toNat ∧
      0 + (tripletsOf 40 0 1).length + 8 ≤ 10000 ∧ 0 + 40 + 16 ≤ 40000) := by decide

/-- An encoder context with `m` triplets of zeros in its block and a match (8, 0, 32) to push, in a room of r. -/
def heldBlock (m r : Nat) : State :=
  let s := encOver textE3 r
  args 8 0 32 { s with enc := { s.enc with nMatches := BitVec.ofNat 32 m } }

/-- A full block: PUSH_MATCH ends STATE_FULL. That EMIT_BLOCK after it ends DST_FULL below 752 bytes of room is
EmitBlockOtherwise, and that it ends OK in a room of 752 + 8 · 9992 bytes is EmitBlockCompletes. -/
theorem witness_PushMatchSplits_full :
    ∀ r ∈ [751, 80688], let s := heldBlock 9992 r
      exec .pushMatch s = .next (after .pushMatch s) ∧ (after .pushMatch s).status = .stateFull ∧
      ready (after .pushMatch s) ∧ (after .pushMatch s).enc.poisoned = false ∧ (after .pushMatch s).enc.nLits = 0 ∧
      (after .pushMatch s).enc.nMatches.toNat = 9992 ∧ (after .pushMatch s).enc.dstEnd.toNat = r := by
  intro r hr
  simp only [List.mem_cons, List.not_mem_nil, or_false] at hr
  rcases hr with rfl | rfl <;> exact ⟨exec_of_runs (by decide +kernel), by decide +kernel⟩

/-- The lengths of V-E3's block over empty arrays. -/
def blockLengths (r : Nat) : State :=
  { encOver textE3 r with enc := { (encOver textE3 r).enc with nMatches := 2, nLits := 24 } }

/-- The bytes written, given back as the source. -/
def dstAsSrc (t : State) : State := { t with src := t.dst }

theorem dstAsSrc_freq (t : State) : (dstAsSrc t).freq = t.freq := rfl

theorem dstAsSrc_src (t : State) : (dstAsSrc t).src = t.dst := rfl

theorem witness_EmitBlockCompletes :
    ready (blockLengths 816) ∧ (blockLengths 816).enc.poisoned = false ∧ arraysLegal (blockLengths 816) ∧
    ((blockLengths 816).enc.nLits ≠ 0 ∨ (blockLengths 816).enc.nMatches ≠ 0) ∧
    (blockLengths 816).enc.dstPos.toNat + 752 + 2 * (blockLengths 816).enc.nLits.toNat +
      8 * (blockLengths 816).enc.nMatches.toNat ≤ (blockLengths 816).enc.dstEnd.toNat ∧
    (∀ r ∈ [752, 816], exec .emitBlock (blockLengths r) = .next (after .emitBlock (blockLengths r)) ∧
      (after .emitBlock (blockLengths r)).status = .ok) ∧
    (let t := after .emitBlock (blockLengths 816)
     ready (dstAsSrc t) ∧ compressedOpen (dstAsSrc t) = false ∧ (dstAsSrc t).freq = t.freq ∧
     (blockLengths 816).enc.dstPos.toNat + (t.enc.dstPos.toNat - (blockLengths 816).enc.dstPos.toNat) < 2 ^ 64 ∧
     ∀ k, readByte (dstAsSrc t).src ((blockLengths 816).enc.dstPos.toNat + k) =
       readByte t.dst ((blockLengths 816).enc.dstPos.toNat + k)) := by
  refine ⟨by decide, by decide, arraysLegal_of_empty rfl rfl rfl (by decide), by decide, by decide, fun r hr => ?_,
    by decide +kernel, by decide +kernel, dstAsSrc_freq _, by decide +kernel, fun k => by rw [dstAsSrc_src]⟩
  simp only [List.mem_cons, List.not_mem_nil, or_false] at hr
  rcases hr with rfl | rfl <;> exact ⟨exec_of_runs (by decide +kernel), by decide +kernel⟩

/-- A block of n triplets with long extra bits, whose distances alternate, in a room of r. -/
def wideBlock (n r : Nat) : State :=
  let s := encOver textE3 r
  let vals (a b : Nat) : Arr U32 :=
    { cells := (List.range n).map fun i => (i, BitVec.ofNat 32 (if i % 2 = 0 then a else b)), spans := [] }
  { s with enc := { s.enc with
      lValues := vals 315 315, mValues := vals 2359 2359, dValues := vals 262139 262138, nMatches := BitVec.ofNat 32 n } }

theorem witness_EmitBlockOtherwise_payload :
    ready (wideBlock 145 752) ∧ (wideBlock 145 752).enc.poisoned = false ∧ (wideBlock 145 752).enc.nMatches ≠ 0 ∧
    arraysLegal (wideBlock 145 752) ∧
    ¬(wideBlock 145 752).enc.dstEnd.toNat < (wideBlock 145 752).enc.dstPos.toNat + 752 ∧
    exec .emitBlock (wideBlock 145 752) = .next (after .emitBlock (wideBlock 145 752)) ∧
    (after .emitBlock (wideBlock 145 752)).status = .dstFull :=
  ⟨by decide, by decide, by decide,
    arraysLegal_of_cells ⟨rfl, rfl, rfl⟩ (by decide +kernel) (by decide +kernel) (by decide +kernel) (by decide), by decide,
    exec_of_result (a := 0) (b := 0) (by decide +kernel)⟩

theorem witness_EmitBlockOtherwise :
    (ready (encOver textE3 9) ∧ (encOver textE3 9).enc.poisoned = false ∧ (encOver textE3 9).enc.nLits = 0 ∧
      (encOver textE3 9).enc.nMatches = 0) ∧
    ((blockLengths 751).enc.nLits ≠ 0 ∧ arraysLegal (blockLengths 751) ∧
      (blockLengths 751).enc.dstEnd.toNat < (blockLengths 751).enc.dstPos.toNat + 752) ∧
    (exec .emitBlock (blockLengths 751) = .next (after .emitBlock (blockLengths 751)) ∧
      (after .emitBlock (blockLengths 751)).status = .dstFull) :=
  ⟨by decide, ⟨by decide, arraysLegal_of_empty rfl rfl rfl (by decide), by decide⟩, exec_of_runs (by decide +kernel),
    by decide +kernel⟩

theorem witness_EncBaseCovered :
    (let s := args 41 0 0 (encOver textE3 100)
     ready s ∧ s.enc.poisoned = false ∧ s.enc.srcLimit.toNat < s.arg0.toNat) ∧
    2 ^ 31 - 2 < (args (2 ^ 31 - 1) 0 0 State.reset).arg0.toNat ∧
    (∀ s ∈ [args 14 0 0 encAtSix, args 0 0 0 encAtSix], s.arg0.toNat ≤ s.enc.srcLimit.toNat ∧ s.arg0.toNat ≤ 2 ^ 31 - 2 ∧
      encSourceSound s ∧ (s.arg0.toNat : Int) - 8 ≤ s.enc.srcLiteral.toInt ∧ (s.arg0.toNat : Int) - 8 ≤ s.enc.srcEncodeI.toInt) ∧
    (let s := args 14 0 0 { encAtSix with enc := { encAtSix.enc with srcEncodeI := 5 } }
     encSourceSound s ∧ (s.arg0.toNat : Int) - 8 ≤ s.enc.srcLiteral.toInt ∧ s.enc.srcEncodeI.toInt = s.arg0.toNat - 9) := by
  decide

/-- A history of invalid pairs is sound and real. -/
theorem invalid_of_emptyHist {s : State} (hh : s.enc.hist = []) (h : Nat) (e : HistEntry)
    (he : e ∈ bucketList (sparseGet emptyBucket s.enc.hist h)) : e.pos.toInt = -1048556 := by
  have : bucketList (sparseGet emptyBucket s.enc.hist h) = [invalidEntry, invalidEntry, invalidEntry, invalidEntry] := by
    rw [hh]
    rfl
  rw [this] at he
  simp at he
  subst he
  decide

/-- A context with an empty history, no pending match and an empty block holds nothing that does not stand in the source. -/
theorem encReal_of_empty {s : State} (hh : s.enc.hist = []) (hp : s.enc.pending.length = 0) (hn : s.enc.nMatches = 0)
    (hl : s.enc.nLits = 0) : encReal s :=
  ⟨fun h e he hne => absurd (invalid_of_emptyHist hh h e he) hne, .inl hp, s.enc.srcLiteral.toInt, by
    simp [blockTriplets, hn, hl, replays]⟩

/-- Such a context is sound if its source side is. -/
theorem encSound_of_empty {s : State} (hh : s.enc.hist = []) (hp : s.enc.pending.length = 0) (hq : s.enc.poisoned = false)
    (hs : encSourceSound s) (ha : arraysLegal s) : encSound s :=
  ⟨hq, hs, .inl hp, ha, fun h e he => .inl (invalid_of_emptyHist hh h e he)⟩

/-- ENC_INIT's context, and one 6 bytes into the source, are sound and real. -/
theorem encExamples_sound : ∀ s ∈ [args 40 0 0 (encOver textE3 100), args 6 0 0 encAtSix], ready s ∧ encSound s ∧ encReal s := by
  intro s hs
  simp only [List.mem_cons, List.not_mem_nil, or_false] at hs
  rcases hs with rfl | rfl <;>
    exact ⟨by decide, encSound_of_empty rfl rfl (by decide) (by decide) (arraysLegal_of_empty rfl rfl rfl (by decide)),
      encReal_of_empty rfl rfl rfl rfl⟩

theorem witness_EncBaseCovered_search :
    (let s := dstAt 0 0 100 (srcAt 0 0 40 (source textE3 State.reset))
     ready s ∧ exec .encInit s = .next (after .encInit s) ∧ (after .encInit s).fault = none) ∧
    (let s := args 40 0 0 (encOver textE3 100)
     encSound s ∧ encReal s ∧ s.enc.srcLiteral.toInt ≤ s.enc.srcEncodeI.toInt ∧
     s.enc.srcEncodeI.toInt + 8 < s.enc.srcEnd.toNat ∧
     exec .encBase s = .next (after .encBase s) ∧ (after .encBase s).status = .ok ∧
     exec .backendLiterals s = .next (after .backendLiterals s) ∧ (after .backendLiterals s).status = .ok) ∧
    (let s := args 6 0 0 encAtSix
     encSound s ∧ encReal s ∧ sparseWf emptyBucket s.enc.hist = true ∧ s.arg0.toNat ≤ s.enc.srcEnd.toNat ∧
     exec .encTranslate s = .next (after .encTranslate s) ∧ (after .encTranslate s).status = .ok) := by
  have h1 := encExamples_sound (args 40 0 0 (encOver textE3 100)) (by simp)
  have h2 := encExamples_sound (args 6 0 0 encAtSix) (by simp)
  exact ⟨⟨by decide, exec_of_runs (by decide), by decide⟩,
    ⟨h1.2.1, h1.2.2, by decide, by decide, exec_of_runs (by decide +kernel), by decide +kernel, exec_of_runs (by decide +kernel),
      by decide +kernel⟩,
    ⟨h2.2.1, h2.2.2, by decide, by decide, exec_of_runs (by decide), by decide⟩⟩

theorem witness_EncFinishWritesEos :
    ∀ s ∈ [encOver [] 3, encOver [] 4], ready s ∧ s.enc.poisoned = false ∧ s.enc.pending.length = 0 ∧
      (s.enc.srcEnd.toNat : Int) ≤ s.enc.srcLiteral.toInt ∧ s.enc.nLits = 0 ∧ s.enc.nMatches = 0 ∧
      (s.enc.dstEnd.toNat < s.enc.dstPos.toNat + 4 ∨ s.enc.dstPos.toNat + 4 ≤ s.enc.dstEnd.toNat) := by decide

theorem witness_EncoderNeverFaults :
    (let s := dstAt 0 0 100 (srcAt 0 0 40 (source textE3 State.reset))
     ready s ∧ srcOk s ∧ dstOk s ∧ s.cur.srcEnd.toNat - s.cur.srcPos.toNat ≤ 2 ^ 31 - 2 ∧ arraysLegal s) ∧
    (let s := args 40 0 0 (encOver textE3 100)
     ready s ∧ encSound s ∧ s.arg0.toNat ≤ s.enc.srcLimit.toNat ∧
     s.enc.srcLiteral.toInt + s.arg0.toNat ≤ s.enc.srcLimit.toNat) ∧
    (let s := args 6 0 0 encAtSix
     ready s ∧ encSound s ∧ sparseWf emptyBucket s.enc.hist = true ∧ s.arg0.toNat ≤ s.enc.srcEnd.toNat ∧
     s.arg0.toNat ≤ s.enc.srcLiteral.toInt ∧ s.arg0.toNat ≤ s.enc.srcEncodeI.toInt) := by
  have h1 := encExamples_sound (args 40 0 0 (encOver textE3 100)) (by simp)
  have h2 := encExamples_sound (args 6 0 0 encAtSix) (by simp)
  exact ⟨⟨by decide, by decide, by decide, by decide, arraysLegal_of_empty rfl rfl rfl (by decide)⟩,
    ⟨h1.1, h1.2.1, by decide⟩, h2.1, h2.2.1, by decide⟩

theorem witness_StoreRawOutcomes : ready State.reset ∧ ¬srcOk (srcAt 1 0 0 State.reset) ∧
    (srcOk (dstAt 1 0 0 State.reset) ∧ ¬dstOk (dstAt 1 0 0 State.reset)) ∧
    (let s := dstAt 0 0 15 (srcAt 0 0 4 State.reset)
     srcOk s ∧ dstOk s ∧ s.cur.dstEnd.toNat < 0 + 4 + 12) ∧
    (let s := dstAt 0 0 16 (srcAt 0 0 4 State.reset)
     srcOk s ∧ dstOk s ∧ 0 + 4 + 12 ≤ s.cur.dstEnd.toNat) ∧
    (let s := srcAt 0 0 (2 ^ 31 - 1) State.reset
     srcOk s ∧ 2 ^ 31 - 2 < s.cur.srcEnd.toNat - s.cur.srcPos.toNat) := by decide

theorem witness_EncBufferAllOrNothing :
    (let s := srcAt 0 0 (2 ^ 31 - 1) State.reset
     ready s ∧ srcOk s ∧ dstOk s ∧ arraysLegal s ∧ 2 ^ 31 - 2 < s.cur.srcEnd.toNat - s.cur.srcPos.toNat) ∧
    (∀ n ∈ [7, 8, 4095, 4096], let s := dstAt 0 0 (n + 12) (srcAt 0 0 n State.reset)
     ready s ∧ srcOk s ∧ dstOk s ∧ n ≤ 2 ^ 31 - 2 ∧ s.cur.dstPos.toNat + n + 12 ≤ s.cur.dstEnd.toNat) ∧
    (let s := dstAt 0 0 19 (srcAt 0 0 7 State.reset)
     exec .encBuffer s = .next (after .encBuffer s) ∧ (after .encBuffer s).fault = none) :=
  ⟨⟨by decide, by decide, by decide, arraysLegal_of_empty rfl rfl rfl (by decide), by decide⟩, by decide,
    exec_of_runs (by decide), by decide⟩

theorem witness_RawRoundTrip :
    let s := dstAt 0 0 16 (srcAt 0 0 4 (source [0x41, 0x41, 0x41, 0x41] State.reset))
    let u := dstAt 0 0 4 (srcAt 0 0 16 (source rawAAAA State.reset))
    ready s ∧ srcOk s ∧ dstOk s ∧ (4 : Nat) ≤ 2 ^ 31 - 2 ∧ s.cur.dstPos.toNat + 4 + 12 ≤ s.cur.dstEnd.toNat ∧
    exec .storeRaw s = .next (after .storeRaw s) ∧ ready u ∧ srcOk u ∧ dstOk u ∧
    u.cur.srcPos.toNat + 4 + 12 ≤ u.cur.srcEnd.toNat ∧ u.cur.dstPos.toNat + 4 ≤ u.cur.dstEnd.toNat ∧
    ∀ k, k < 4 + 12 → readByte u.src (u.cur.srcPos.toNat + k) = readByte (after .storeRaw s).dst (s.cur.dstPos.toNat + k) := by
  refine ⟨?_, ?_, ?_, ?_, ?_, exec_of_runs ?_, ?_, ?_, ?_, ?_, ?_, ?_⟩ <;> decide

end Sys2Proof.Tests
end

namespace Sys2Proof.Proofs

open Sys2Proof Sys2Proof.Machine Sys2Proof.Laws

/-! ## Bodies that may fault -/

/-- Whatever value the body answers meets `Q`; of a fault nothing is said. -/
def Ends {α : Type} (Q : α → Prop) (b : Except Trap α) : Prop := ∀ x, b = .ok x → Q x

@[simp] theorem ends_ok {α : Type} {Q : α → Prop} {x : α} : Ends Q (.ok x) ↔ Q x := by
  simp [Ends]

@[simp] theorem ends_error {α : Type} {Q : α → Prop} {t : Trap} : Ends Q (.error t) := by
  simp [Ends]

theorem ends_raiseIf {α : Type} {Q : α → Prop} {c : Bool} {k : Cause} {i : U64} {b : Except Trap α}
    (h : c = false → Ends Q b) : Ends Q (raiseIf c k i b) := fun x hx =>
  h (raiseIf_ok hx).1 x (raiseIf_ok hx).2

theorem ends_raiseOpt {α : Type} {Q : α → Prop} {o : Option Trap} {b : Except Trap α} (h : o = none → Ends Q b) :
    Ends Q (raiseOpt o b) := fun x hx =>
  h (raiseOpt_ok hx).1 x (raiseOpt_ok hx).2

theorem ends_map {α β : Type} {Q : β → Prop} {f : α → β} {b : Except Trap α} (h : Ends (fun x => Q (f x)) b) :
    Ends Q (b.map f) := by
  cases b with
  | error t => exact ends_error
  | ok x => exact ends_ok.mpr (h x rfl)

/-- The three ways a command can end (60_exceptions.md R280, R290, R291). -/
theorem command_next_cases {s t : State} {b : Except Trap (Status × State)} (h : command s b = .next t) :
    (s.fault ≠ none ∧ t = s) ∨ (s.fault = none ∧ ∃ e, b = .error e ∧ t = takeFault e s) ∨
      (s.fault = none ∧ ∃ st u, b = .ok (st, u) ∧ t = { u with status := st }) := by
  by_cases hf : s.fault = none
  · rw [command_ready hf] at h
    cases b with
    | error e => exact .inr (.inl ⟨hf, e, rfl, by injection h with h; exact h.symm⟩)
    | ok r => exact .inr (.inr ⟨hf, r.1, r.2, rfl, by injection h with h; exact h.symm⟩)
  · rw [command_held hf] at h
    exact .inl ⟨hf, by injection h with h; exact h.symm⟩

/-- A property that faulting and the new STATUS do not touch holds after a command when its body brings it about. -/
theorem command_ends {Q : State → Prop} {s t : State} {b : Except Trap (Status × State)} (h : command s b = .next t)
    (hs : Q s) (hf : ∀ e, Q s → Q (takeFault e s)) (hst : ∀ st u, Q u → Q { u with status := st })
    (hb : Ends (fun r => Q r.2) b) : Q t := by
  rcases command_next_cases h with ⟨_, rfl⟩ | ⟨_, e, _, rfl⟩ | ⟨_, st, u, rfl, rfl⟩
  · exact hs
  · exact hf e hs
  · exact hst st u (hb _ rfl)

/-! ## One component after another: what keeps a state sound -/

/-- begin ≤ pos ≤ end ≤ size of the SRC cursors. -/
abbrev srcTrio (c : Cursors) (size : U64) : Prop := trioOk c.srcBegin c.srcPos c.srcEnd size

/-- begin ≤ pos ≤ end ≤ size of the DST cursors. -/
abbrev dstTrio (c : Cursors) (size : U64) : Prop := trioOk c.dstBegin c.dstPos c.dstEnd size

/-- begin ≤ pos ≤ end ≤ size of the encoder context's DST cursors. -/
abbrev encTrio (c : EncCtx) (size : U64) : Prop := trioOk c.dstBegin c.dstPos c.dstEnd size

/-- Every entry of a triplet array, the unspecified ones too, is at most the maximum of its stream (R105). -/
def arrLegal (sel : VSel) (m : Arr U32) : Prop := ∀ i, (arrGet 0 (freeValue sel) m i).toNat ≤ maxValue sel

/-- The encoder's half of `arraysLegal`. -/
structure EncArraysLegal (c : EncCtx) : Prop where
  nMatches : c.nMatches.toNat ≤ 10000
  nLits : c.nLits.toNat ≤ 40000
  lValues : arrLegal .l c.lValues
  mValues : arrLegal .m c.mValues
  dValues : arrLegal .d c.dValues

theorem arraysLegal_iff {s : State} : arraysLegal s ↔ EncArraysLegal s.enc ∧ s.dec.nLits.toNat ≤ 40000 := by
  constructor
  · rintro ⟨hm, hl, hd, hv⟩
    exact ⟨⟨hm, hl, fun i => (hv i).1, fun i => (hv i).2.1, fun i => (hv i).2.2⟩, hd⟩
  · rintro ⟨h, hd⟩
    exact ⟨h.nMatches, h.nLits, hd, fun i => ⟨h.lValues i, h.mValues i, h.dValues i⟩⟩

/-- `t` is as sound as `s`, component by component: the accumulators, the cursors of the contexts, the per-block arrays. A
preorder, so that a run keeps what each of its pieces keeps. -/
structure Keeps (s t : State) : Prop where
  out : outSound s.out → outSound t.out
  in0 : inSound s.in0 → inSound t.in0
  in1 : inSound s.in1 → inSound t.in1
  srcSize : t.srcSize = s.srcSize
  dstSize : t.dstSize = s.dstSize
  decSrc : srcTrio s.dec.cur s.srcSize → srcTrio t.dec.cur t.srcSize
  decDst : dstTrio s.dec.cur s.dstSize → dstTrio t.dec.cur t.dstSize
  encDst : encTrio s.enc s.dstSize → encTrio t.enc t.dstSize
  decLits : s.dec.nLits.toNat ≤ 40000 → t.dec.nLits.toNat ≤ 40000
  encArrays : EncArraysLegal s.enc → EncArraysLegal t.enc

namespace Keeps

theorem refl (s : State) : Keeps s s := ⟨id, id, id, rfl, rfl, id, id, id, id, id⟩

theorem trans {s t u : State} (h : Keeps s t) (k : Keeps t u) : Keeps s u where
  out x := k.out (h.out x)
  in0 x := k.in0 (h.in0 x)
  in1 x := k.in1 (h.in1 x)
  srcSize := k.srcSize.trans h.srcSize
  dstSize := k.dstSize.trans h.dstSize
  decSrc x := k.decSrc (h.decSrc x)
  decDst x := k.decDst (h.decDst x)
  encDst x := k.encDst (h.encDst x)
  decLits x := k.decLits (h.decLits x)
  encArrays x := k.encArrays (h.encArrays x)

theorem accumulatorsSound {s t : State} (k : Keeps s t) (h : accumulatorsSound s) : accumulatorsSound t := by
  obtain ⟨ho, h0, h1⟩ := h
  exact ⟨k.out ho, k.in0 h0, k.in1 h1⟩

theorem contextsOrdered {s t : State} (k : Keeps s t) (h : contextsOrdered s) : contextsOrdered t := by
  obtain ⟨hs, hd, he⟩ := h
  exact ⟨k.decSrc hs, k.decDst hd, k.encDst he⟩

theorem arraysLegal {s t : State} (k : Keeps s t) (h : arraysLegal s) : arraysLegal t := by
  obtain ⟨he, hd⟩ := arraysLegal_iff.mp h
  exact arraysLegal_iff.mpr ⟨k.encArrays he, k.decLits hd⟩

end Keeps

/-- The pieces of state that the three invariants read. -/
def soundView (s : State) :=
  ((s.out, s.in0, s.in1, s.srcSize, s.dstSize), (s.dec.cur, s.dec.nLits), s.enc.dstBegin, s.enc.dstPos, s.enc.dstEnd,
    s.enc.nMatches, s.enc.nLits, s.enc.lValues, s.enc.mValues, s.enc.dValues)

theorem Keeps.of_view {s t : State} (h : soundView t = soundView s) : Keeps s t := by
  simp only [soundView, Prod.mk.injEq] at h
  obtain ⟨⟨ho, h0, h1, hs, hd⟩, ⟨hc, hl⟩, hb, hp, he, hn, hm, hvl, hvm, hvd⟩ := h
  exact {
    out := by rw [ho]; exact id
    in0 := by rw [h0]; exact id
    in1 := by rw [h1]; exact id
    srcSize := hs
    dstSize := hd
    decSrc := by rw [hc, hs]; exact id
    decDst := by rw [hc, hd]; exact id
    encDst := by unfold encTrio; rw [hb, hp, he, hd]; exact id
    decLits := by rw [hl]; exact id
    encArrays := fun ⟨a, b, c, d, e⟩ => ⟨by rwa [hn], by rwa [hm], by rwa [hvl], by rwa [hvm], by rwa [hvd]⟩ }

/-! ## The accumulators (10_state.md R38, R39, 40_bitstream.md R138) -/

/-- OUT holds bits, or none: R38 without the negative counts that OUT_FINISH leaves. -/
def outHeld (o : OutAcc) : Prop := 0 ≤ o.nbits ∧ o.nbits ≤ 64 ∧ o.accum.toNat < 2 ^ o.nbits.toNat

theorem outHeld.sound {o : OutAcc} (h : outHeld o) : outSound o := .inl h

theorem outHeld_of_sound {o : OutAcc} (h : outSound o) (h0 : 0 ≤ o.nbits) : outHeld o := by
  rcases h with h | ⟨_, hn, ha⟩
  · exact h
  · have hz : o.nbits = 0 := by omega
    simp [outHeld, hz, ha]

theorem outHeld_zero : outHeld OutAcc.zero := by
  simp [outHeld, OutAcc.zero]

/-- OUT_PUSH adds its field above the bits held (R132). -/
theorem outPush_held {o o' : OutAcc} {n b : Nat} (h : outPush o n b = .ok o') (ho : outSound o) : outHeld o' := by
  unfold outPush at h
  obtain ⟨hb, h⟩ := raiseIf_ok h
  obtain ⟨h0, h⟩ := raiseIf_ok h
  obtain ⟨h64, h⟩ := raiseIf_ok h
  simp only [decide_eq_false_iff_not, not_le, not_lt] at hb h0 h64
  obtain ⟨-, -, hacc⟩ := outHeld_of_sound ho h0
  simp only [Except.ok.injEq] at h
  subst h
  have hsum : (o.nbits + n).toNat = n + o.nbits.toNat := by omega
  refine ⟨by simp only; omega, by simp only; omega, ?_⟩
  simp only [BitVec.toNat_or, BitVec.toNat_ofNat, hsum]
  refine Nat.or_lt_two_pow (lt_of_lt_of_le hacc (Nat.pow_le_pow_right (by omega) (by omega))) ?_
  refine lt_of_le_of_lt (Nat.mod_le _ _) ?_
  rw [pow_add]
  exact Nat.mul_lt_mul_of_pos_right hb (by positivity)

/-- OUT_FLUSH leaves fewer than 8 bits (R134). -/
theorem outFlushed_held {o : OutAcc} (h : outHeld o) : outHeld (outFlushed o) ∧ (outFlushed o).nbits ≤ 7 := by
  obtain ⟨h0, h64, hacc⟩ := h
  have hk : (outFlushed o).nbits = o.nbits - 8 * (outWholeBytes o : Int) := rfl
  have hw : outWholeBytes o = o.nbits.toNat / 8 := rfl
  have hsum : o.nbits.toNat = 8 * outWholeBytes o + (outFlushed o).nbits.toNat := by omega
  refine ⟨⟨by omega, by omega, ?_⟩, by omega⟩
  have hlt : o.accum.toNat / 2 ^ (8 * outWholeBytes o) < 2 ^ (outFlushed o).nbits.toNat := by
    rw [Nat.div_lt_iff_lt_mul (by positivity), mul_comm, ← pow_add, ← hsum]
    exact hacc
  exact lt_of_le_of_lt (by simp [outFlushed, Nat.mod_le]) hlt

/-- OUT_FINISH leaves no bits, and says how many it padded (R136). -/
theorem outFinished_sound {o : OutAcc} (h0 : 0 ≤ o.nbits) : outSound (outFinished o) := by
  have hn : (outFinished o).nbits = o.nbits - 8 * (outFinishCount o : Int) := rfl
  have hc : outFinishCount o = (o.nbits.toNat + 7) / 8 := rfl
  exact .inr ⟨by omega, by omega, rfl⟩

theorem inInvalid_sound {x : InAcc} (h : inSound x) : inSound (inInvalid x) := ⟨h.1, fun hv => by cases hv⟩

theorem inLoad_sound {m : Memory} {x : InAcc} {stop lo count nbits : Nat} (h : inSound x) (hn : nbits ≤ 63) :
    inSound (inLoad m x stop lo count nbits).2 := by
  unfold inLoad
  split
  · exact inInvalid_sound h
  · dsimp only
    split
    · rename_i hv
      have hlt := (Nat.div_eq_zero_iff_lt (by positivity)).mp hv
      exact ⟨hn, fun _ => lt_of_le_of_lt (by simp [nat64, Nat.mod_le]) hlt⟩
    · exact ⟨hn, fun hv => by cases hv⟩

/-- IN_INIT loads 56 to 63 bits (R139). -/
theorem inInit_sound {m : Memory} {x : InAcc} {n : Int} {stop lo : Nat} (h : inSound x) :
    inSound (inInit m x n stop lo).2 := by
  unfold inInit
  split
  · exact inInvalid_sound h
  · split
    · exact inLoad_sound h (by omega)
    · exact inLoad_sound h (by omega)

/-- IN_FLUSH fills up to at most 63 bits (R141). -/
theorem inFlush_sound {m : Memory} {x y : InAcc} (e : inFlush m x = some y) (h : inSound x) : inSound y := by
  obtain ⟨hn, ha⟩ := h
  unfold inFlush at e
  dsimp only at e
  split at e
  · cases e
  · simp only [Option.some.injEq] at e
    subst e
    generalize hk : (63 - x.nbits) / 8 = k
    refine ⟨by simp only; omega, fun hv => ?_⟩
    have hx := ha hv
    have hm := leValue_lt (readBytes m (x.pos.toNat - k) k)
    rw [readBytes_length, show (256 : Nat) = 2 ^ 8 from rfl, ← pow_mul] at hm
    refine lt_of_le_of_lt (by simpa using Nat.mod_le _ _) (?_ : x.accum.toNat * 2 ^ (8 * k) + memRead m _ k < _)
    rw [pow_add]
    unfold memRead
    calc x.accum.toNat * 2 ^ (8 * k) + leValue (readBytes m (x.pos.toNat - k) k)
        < x.accum.toNat * 2 ^ (8 * k) + 2 ^ (8 * k) := by omega
      _ = (x.accum.toNat + 1) * 2 ^ (8 * k) := by ring
      _ ≤ 2 ^ x.nbits * 2 ^ (8 * k) := Nat.mul_le_mul_right _ hx

/-- IN_PULL takes bits off the top (R143). -/
theorem inPull_sound {x y : InAcc} {n v : Nat} (e : inPull x n = .ok (v, y)) (h : inSound x) : inSound y := by
  unfold inPull at e
  replace e := (raiseIf_ok (raiseIf_ok e).2).2
  simp only [Except.ok.injEq, Prod.mk.injEq] at e
  obtain ⟨-, rfl⟩ := e
  have hn := h.1
  refine ⟨by simp only; omega, fun _ => ?_⟩
  exact lt_of_le_of_lt (by simpa using Nat.mod_le _ _) (Nat.mod_lt x.accum.toNat (by positivity))

theorem fseEncode_held {tab : Sparse EncEntry} {o o' : OutAcc} {s i nb : Nat} {next : Int}
    (e : fseEncode tab o s i = .ok (o', next, nb)) (h : outSound o) : outHeld o' := by
  unfold fseEncode at e
  split at e
  · cases e
  · dsimp only at e
    split at e
    · cases e
    · rename_i hp
      simp only [Except.ok.injEq, Prod.mk.injEq] at e
      obtain ⟨rfl, -, -⟩ := e
      exact outPush_held hp h

theorem fseDecode_sound {tab : Sparse DecEntry} {x y : InAcc} {i n : Nat} {next : Int}
    (e : fseDecode tab x i = .ok (next, n, y)) (h : inSound x) : inSound y := by
  unfold fseDecode at e
  split at e
  · cases e
  · split at e
    · cases e
    · rename_i hp
      simp only [Except.ok.injEq, Prod.mk.injEq] at e
      obtain ⟨-, -, rfl⟩ := e
      exact inPull_sound hp h

theorem fseVdecode_sound {tab : Sparse VEntry} {x y : InAcc} {i : Nat} {next v : Int}
    (e : fseVdecode tab x i = .ok (next, v, y)) (h : inSound x) : inSound y := by
  unfold fseVdecode at e
  split at e
  · cases e
  · split at e
    · cases e
    · rename_i hp
      simp only [Except.ok.injEq, Prod.mk.injEq] at e
      obtain ⟨-, -, rfl⟩ := e
      exact inPull_sound hp h

/-! ## The triplet arrays with unspecified entries (10_state.md R57, log entry 5) -/

/-- A released range reads as free values inside it. -/
theorem arrGet_release_inside {α : Type} (d : α) (f : Nat → Nat → α) (m : Arr α) {lo hi i : Nat} (tag : Nat)
    (h : lo ≤ i ∧ i < hi) : arrGet d f (arrRelease m lo hi tag) i = f tag i := by
  have hc := sparseFind_filter m.cells (fun k => decide ¬(lo ≤ k ∧ k < hi)) i
  rw [if_neg (by simpa using h)] at hc
  simp only [arrGet, arrRelease, spanAt, if_pos h]
  rw [hc]

theorem freeValue_le (sel : VSel) (tag i : Nat) : (freeValue sel tag i).toNat ≤ maxValue sel := by
  have hmin : minValue sel ≤ maxValue sel := by cases sel <;> decide
  have hmod := Nat.mod_lt (Config.freeWord32 tag i).toNat (show 0 < maxValue sel + 1 - minValue sel by omega)
  unfold freeValue
  rw [BitVec.toNat_ofNat]
  exact (Nat.mod_le _ _).trans (by omega)

theorem arrLegal_empty (sel : VSel) : arrLegal sel Arr.empty := fun i => by
  simp [Arr.empty, arrGet, sparseFind, spanAt]

theorem arrLegal_set {sel : VSel} {m : Arr U32} {v : U32} (h : arrLegal sel m) (i : Nat) (hv : v.toNat ≤ maxValue sel) :
    arrLegal sel (arrSet 0 m i v) := fun j => by
  by_cases hj : j = i
  · subst hj
    rw [arrGet_set_same]
    exact hv
  · rw [arrGet_set_other _ _ _ _ hj]
    exact h j

theorem arrLegal_setAll {sel : VSel} {m : Arr U32} {l : List U32} (h : arrLegal sel m) (i : Nat)
    (hl : ∀ v ∈ l, v.toNat ≤ maxValue sel) : arrLegal sel (arrSetAll 0 m i l) := by
  induction l generalizing m i with
  | nil => exact h
  | cons v r ih =>
    exact ih (arrLegal_set h i (hl v (by simp))) (i + 1) fun w hw => hl w (List.mem_cons_of_mem _ hw)

theorem arrLegal_release {sel : VSel} {m : Arr U32} (h : arrLegal sel m) (lo hi tag : Nat) :
    arrLegal sel (arrRelease m lo hi tag) := fun i => by
  by_cases hi' : lo ≤ i ∧ i < hi
  · rw [arrGet_release_inside _ _ _ _ hi']
    exact freeValue_le sel tag i
  · rw [arrGet_release_outside _ _ _ _ _ _ _ hi']
    exact h i

theorem ofNat32_toNat_le {v n : Nat} (h : v ≤ n) : (BitVec.ofNat 32 v).toNat ≤ n := by
  rw [BitVec.toNat_ofNat]
  exact (Nat.mod_le _ _).trans h

/-! ## Updates of one component -/

theorem keeps_out {s : State} {o : OutAcc} (h : outSound s.out → outSound o) : Keeps s { s with out := o } :=
  { Keeps.refl s with out := h }

theorem keeps_in0 {s : State} {x : InAcc} (h : inSound s.in0 → inSound x) : Keeps s { s with in0 := x } :=
  { Keeps.refl s with in0 := h }

theorem keeps_in1 {s : State} {x : InAcc} (h : inSound s.in1 → inSound x) : Keeps s { s with in1 := x } :=
  { Keeps.refl s with in1 := h }

theorem keeps_withInAcc {s : State} {sel : InSel} {x : InAcc} (h : inSound (s.inAcc sel) → inSound x) :
    Keeps s (s.withInAcc sel x) := by
  cases sel with
  | lit => exact keeps_in0 h
  | lmd => exact keeps_in1 h

theorem keeps_dec {s : State} {d : DecCtx} (hs : srcTrio s.dec.cur s.srcSize → srcTrio d.cur s.srcSize)
    (hd : dstTrio s.dec.cur s.dstSize → dstTrio d.cur s.dstSize)
    (hl : s.dec.nLits.toNat ≤ 40000 → d.nLits.toNat ≤ 40000) : Keeps s { s with dec := d } :=
  { Keeps.refl s with decSrc := hs, decDst := hd, decLits := hl }

theorem keeps_enc {s : State} {c : EncCtx} (hd : encTrio s.enc s.dstSize → encTrio c s.dstSize)
    (ha : EncArraysLegal s.enc → EncArraysLegal c) : Keeps s { s with enc := c } :=
  { Keeps.refl s with encDst := hd, encArrays := ha }

theorem releaseDst_view (lo hi : Nat) (s : State) : soundView (releaseDst lo hi s) = soundView s := by
  rw [releaseDst_eq]
  rfl

theorem keeps_releaseDst (lo hi : Nat) (s : State) : Keeps s (releaseDst lo hi s) := .of_view (releaseDst_view lo hi s)

/-! ## Cursors that advance -/

theorem srcTrio_advance {c : Cursors} {size : U64} {p : Nat} (hp : c.srcPos.toNat ≤ p) (he : p ≤ c.srcEnd.toNat)
    (h : srcTrio c size) : srcTrio { c with srcPos := nat64 p } size := by
  obtain ⟨h1, -, h3⟩ := h
  have e := nat64_toNat_le he
  exact ⟨h1.trans (by rw [e]; exact hp), by rw [e]; exact he, h3⟩

/-- The new position may be the old one even where that lies beyond the end. -/
theorem dstTrio_advance {c : Cursors} {size : U64} {p : Nat} (hp : c.dstPos.toNat ≤ p)
    (he : p ≤ max c.dstPos.toNat c.dstEnd.toNat) (h : dstTrio c size) : dstTrio { c with dstPos := nat64 p } size := by
  obtain ⟨h1, h2, h3⟩ := h
  rw [max_eq_right h2] at he
  have e := nat64_toNat_le he
  exact ⟨h1.trans (by rw [e]; exact hp), by rw [e]; exact he, h3⟩

theorem keeps_srcAdvance {s : State} {d : DecCtx} {p : Nat} (hc : d.cur = { s.dec.cur with srcPos := nat64 p })
    (hl : d.nLits = s.dec.nLits) (hp : s.dec.cur.srcPos.toNat ≤ p) (he : p ≤ s.dec.cur.srcEnd.toNat) :
    Keeps s { s with dec := d } :=
  keeps_dec (fun h => hc ▸ srcTrio_advance hp he h) (fun h => hc ▸ h) (fun h => hl ▸ h)

/-! ## Literals (44_decoder_engine.md R207) -/

theorem literalStep_keeps {i x n : Nat} {s t : State} (h : literalStep i x s = some (n, t)) : Keeps s t := by
  unfold literalStep decodeLiteral at h
  cases e : fseDecode s.decTab s.in0 x with
  | error _ => rw [e] at h; cases h
  | ok r =>
    obtain ⟨next, symbol, st⟩ := r
    rw [e] at h
    simp only [Option.some.injEq, Prod.mk.injEq] at h
    obtain ⟨-, rfl⟩ := h
    exact (keeps_in0 (fseDecode_sound e)).trans (.of_view rfl)

theorem literalGroup_keeps (g : Nat) (x : LitStates) (s : State) : Keeps s (literalGroup g x s).2.2 := by
  unfold literalGroup
  split
  · exact .refl s
  · rename_i st hst
    have kF : Keeps s { s with in0 := st } := keeps_in0 (inFlush_sound hst)
    dsimp only
    split
    · exact kF
    · rename_i hA
      have kA := kF.trans (literalStep_keeps hA)
      split
      · exact kA
      · rename_i hB
        have kB := kA.trans (literalStep_keeps hB)
        split
        · exact kB
        · rename_i hC
          have kC := kB.trans (literalStep_keeps hC)
          split
          · exact kC
          · rename_i hD
            exact kC.trans (literalStep_keeps hD)

theorem literalGroups_keeps (count g : Nat) (x : LitStates) (s : State) : Keeps s (literalGroups count g x s).2 := by
  induction count generalizing g x s with
  | zero => exact .refl s
  | succ n ih =>
    have kg := literalGroup_keeps g x s
    rw [literalGroups]
    split
    · rename_i e; rw [e] at kg; exact kg
    · rename_i e; rw [e] at kg; exact kg.trans (ih _ _ _)

/-- DECODE_LITERALS takes HDR's count of literals for its own. -/
theorem decodeLiterals_keeps (q : Nat) (s : State) (hn : s.hdr.nLiterals.toNat ≤ 40000) :
    Keeps s (decodeLiterals q s).2 := by
  unfold decodeLiterals
  dsimp only
  have ki := inInit_sound (m := s.src) (x := s.in0) (n := s.hdr.literalBits.toInt)
    (stop := q + s.hdr.nLiteralPayloadBytes.toNat) (lo := s.dec.cur.srcBegin.toNat)
  split
  · rename_i e; rw [e] at ki; exact keeps_in0 ki
  · rename_i x e
    rw [e] at ki
    have kx : Keeps s { s with in0 := x } := keeps_in0 ki
    have kg := literalGroups_keeps (s.hdr.nLiterals.toNat / 4) 0
      { s0 := s.hdr.literalState0.toNat, s1 := s.hdr.literalState1.toNat, s2 := s.hdr.literalState2.toNat,
        s3 := s.hdr.literalState3.toNat } { s with in0 := x }
    split
    · rename_i e'; rw [e'] at kg; exact kx.trans kg
    · rename_i e'; rw [e'] at kg; exact kx.trans (kg.trans (keeps_dec id id fun _ => hn))

theorem initLmd_keeps (q : Nat) (s : State) : Keeps s (initLmd q s).2 := by
  unfold initLmd
  have ki := inInit_sound (m := s.src) (x := s.in1) (n := s.hdr.lmdBits.toInt)
    (stop := q + s.hdr.nLmdPayloadBytes.toNat) (lo := q)
  split
  · rename_i e; rw [e] at ki; exact keeps_in1 ki
  · rename_i e; rw [e] at ki; exact (keeps_in1 ki).trans (.of_view rfl)

/-! ## Opening a compressed block (R206) -/

theorem initLmd_cur (q : Nat) (s : State) : (initLmd q s).2.dec.cur = s.dec.cur :=
  congrArg (fun k => k.2.1) (initLmd_key q s)

theorem decodeLiterals_cur (q : Nat) (s : State) : (decodeLiterals q s).2.dec.cur = s.dec.cur :=
  congrArg (fun k => k.2.1) (decodeLiterals_key q s)

theorem openLmd_keeps (block : Block) {q : Nat} {s : State} (hp : s.dec.cur.srcPos.toNat ≤ q)
    (he : q ≤ s.dec.cur.srcEnd.toNat) : Keeps s (blockState (openLmd block q s)) := by
  have ki := initLmd_keeps q s
  have hc := initLmd_cur q s
  unfold openLmd
  split
  · rename_i e; rw [e] at ki; exact ki
  · rename_i s' e
    rw [e] at ki hc
    exact ki.trans (keeps_srcAdvance rfl rfl (by rw [hc]; exact hp) (by rw [hc]; exact he))

theorem nLiterals_le_of_mask {s : State} (h : headerMask s = 0) : s.hdr.nLiterals.toNat ≤ 40000 := by
  simp only [headerMask, headerChecks, failureMask] at h
  by_contra hn
  simp [literalsPerBlock, hn] at h

theorem openWith_keeps (block : Block) {p : Nat} (h : Hdr) (f : List Nat) (hs : Nat) {s : State}
    (hp : s.dec.cur.srcPos.toNat ≤ p) : Keeps s (blockState (openWith block p h f hs s)) := by
  unfold openWith
  split
  · exact .refl s
  · rename_i hlim
    dsimp only
    split
    · exact .of_view rfl
    · rename_i hmask
      have kH : Keeps s (buildBlockTables (loadHeader h f hs s)) := .of_view rfl
      have kd := kH.trans (decodeLiterals_keeps (p + hs) _ (nLiterals_le_of_mask (not_not.mp hmask)))
      have hc := decodeLiterals_cur (p + hs) (buildBlockTables (loadHeader h f hs s))
      split
      · rename_i e; rw [e] at kd; exact kd
      · rename_i s' e
        rw [e] at kd hc
        have hc' : s'.dec.cur = s.dec.cur := hc
        exact kd.trans (openLmd_keeps block (by rw [hc']; omega) (by rw [hc']; omega))

theorem openV1_keeps (s : State) : Keeps s (blockState (openV1 s)) := by
  unfold openV1
  dsimp only
  split
  · exact .refl s
  · exact openWith_keeps _ _ _ _ le_rfl

theorem openV2_keeps (s : State) : Keeps s (blockState (openV2 s)) := by
  unfold openV2
  dsimp only
  split
  · exact .refl s
  · exact .refl s
  · exact openWith_keeps _ _ _ _ le_rfl

theorem betweenBlocks_keeps (s : State) : Keeps s (blockState (betweenBlocks s)) := by
  unfold betweenBlocks
  dsimp only
  split
  · exact .refl s
  · split
    · exact keeps_srcAdvance rfl rfl (by omega) (by omega)
    · split
      · split
        · exact .refl s
        · exact keeps_srcAdvance rfl rfl (by omega) (by omega)
      · split
        · split
          · exact .refl s
          · exact keeps_srcAdvance rfl rfl (by omega) (by omega)
        · split
          · exact openV1_keeps s
          · split
            · exact openV2_keeps s
            · exact .refl s

/-! ## Uncompressed and secondary blocks (R205, R214) -/

/-- Both positions advance within their ends, and DST takes bytes. -/
theorem keeps_bothAdvance {s : State} {d : DecCtx} {m : Memory} {p q : Nat}
    (hc : d.cur = { s.dec.cur with srcPos := nat64 p, dstPos := nat64 q }) (hl : d.nLits = s.dec.nLits)
    (hp : s.dec.cur.srcPos.toNat ≤ p) (hpe : p ≤ s.dec.cur.srcEnd.toNat) (hq : s.dec.cur.dstPos.toNat ≤ q)
    (hqe : q ≤ max s.dec.cur.dstPos.toNat s.dec.cur.dstEnd.toNat) : Keeps s { s with dst := m, dec := d } :=
  Keeps.trans (t := { s with dec := d })
    (keeps_dec (fun h => hc ▸ srcTrio_advance hp hpe h) (fun h => hc ▸ dstTrio_advance hq hqe h) fun h => hl ▸ h)
    (.of_view rfl)

theorem rawBlock_keeps (s : State) : Keeps s (blockState (rawBlock s)) := by
  unfold rawBlock
  dsimp only
  split
  · exact .of_view rfl
  · split
    · exact .refl s
    · split
      · exact .refl s
      · exact keeps_bothAdvance rfl rfl (by omega) (by omega) (by omega) (by omega)

theorem secondaryApply_keeps {r : SecondaryResult} {out : List U8} {s : State}
    (hr : s.dec.cur.srcPos.toNat + r.consumed ≤ s.dec.cur.srcEnd.toNat)
    (ho : out.length ≤ s.dec.cur.dstEnd.toNat - s.dec.cur.dstPos.toNat) : Keeps s (secondaryApply r out s) :=
  keeps_bothAdvance rfl rfl (by omega) hr (by omega) (by omega)

theorem secondaryAnswer_keeps {r : SecondaryResult} {s : State}
    (hv : s.dec.cur.srcPos.toNat + s.dec.vnPayload.toNat ≤ s.dec.cur.srcEnd.toNat) :
    Keeps s (blockState (secondaryAnswer r s)) := by
  unfold secondaryAnswer
  split
  · exact .refl s
  · have hlim : (secondaryCall s).dstLim ≤ s.dec.cur.dstEnd.toNat := min_le_left _ _
    have k := secondaryApply_keeps (r := r) (s := s)
      (out := r.produced.take ((secondaryCall s).dstLim - s.dec.cur.dstPos.toNat)) (by omega)
      (by rw [List.length_take]; omega)
    dsimp only
    split
    · exact k.trans (.of_view rfl)
    · split
      · exact k
      · exact k

theorem secondaryBlock_keeps (s : State) : Keeps s (blockState (secondaryBlock s)) := by
  unfold secondaryBlock
  split
  · exact .refl s
  · exact secondaryAnswer_keeps (by omega)

/-! ## Compressed blocks (R209 to R211) -/

theorem putDstByte_keeps (b : U8) {s : State} (h : 0 < dstRoom s) : Keeps s (putDstByte b s) := by
  unfold dstRoom at h
  exact Keeps.trans (t := { s with dec := (putDstByte b s).dec })
    (keeps_dec id (fun k => dstTrio_advance (by omega) (by omega) k) id) (.of_view rfl)

theorem dstRoom_putDstByte (b : U8) {s : State} (h : 0 < dstRoom s) : dstRoom (putDstByte b s) = dstRoom s - 1 := by
  unfold dstRoom at h ⊢
  have e : (nat64 (s.dec.cur.dstPos.toNat + 1)).toNat = s.dec.cur.dstPos.toNat + 1 :=
    nat64_toNat_le (m := s.dec.cur.dstEnd) (by omega)
  simp only [putDstByte, e]
  omega

theorem copyLiterals_keeps (n : Nat) (s : State) (h : n ≤ dstRoom s) : Keeps s (copyLiterals n s) := by
  induction n generalizing s with
  | zero => exact .refl s
  | succ n ih =>
    rw [copyLiterals]
    have hr := dstRoom_putDstByte (litAt s.dec.lits s.dec.litPos.toNat) (s := s) (by omega)
    have kp := putDstByte_keeps (litAt s.dec.lits s.dec.litPos.toNat) (s := s) (by omega)
    generalize putDstByte (litAt s.dec.lits s.dec.litPos.toNat) s = u at hr kp ⊢
    have hn : n ≤ dstRoom u := by omega
    exact kp.trans (.trans (.of_view (by rfl)) (ih _ hn))

theorem copyMatch_keeps (d n : Nat) (s : State) (h : n ≤ dstRoom s) : Keeps s (copyMatch d n s) := by
  induction n generalizing s with
  | zero => exact .refl s
  | succ n ih =>
    rw [copyMatch]
    have hr := dstRoom_putDstByte (readByte s.dst (s.dec.cur.dstPos.toNat - d)) (s := s) (by omega)
    exact (putDstByte_keeps _ (by omega)).trans (ih _ (by omega))

theorem copyTriplet_keeps (l m : Nat) (d : Int) (s : State) : Keeps s (copyTriplet l m d s).2 := by
  have kl := copyLiterals_keeps (min l (dstRoom s)) s (min_le_right _ _)
  have km := kl.trans (copyMatch_keeps d.toNat (min m (dstRoom (copyLiterals (min l (dstRoom s)) s))) _ (min_le_right _ _))
  unfold copyTriplet
  dsimp only
  split
  · exact kl.trans (.of_view rfl)
  · split
    · exact km.trans (.of_view rfl)
    · exact km.trans (.of_view rfl)

theorem runTriplet_keeps (l m : Nat) (d : Int) (s : State) : Keeps s (lmdState (runTriplet l m d s)) := by
  have k := copyTriplet_keeps l m d s
  unfold runTriplet
  split
  · exact .refl s
  · split
    · rename_i e; rw [e] at k; exact k
    · rename_i e; rw [e] at k; exact k

theorem pullValue_keeps {sel : VSel} {x y : U16} {s t : State} {v : Int} (h : pullValue sel x s = some (v, y, t)) :
    Keeps s t := by
  unfold pullValue at h
  split at h
  · cases h
  · rename_i e
    simp only [Option.some.injEq, Prod.mk.injEq] at h
    obtain ⟨-, -, rfl⟩ := h
    exact keeps_in1 (fseVdecode_sound e)

theorem pullTriplet_keeps (s : State) : Keeps s (pulledState (pullTriplet s)) := by
  unfold pullTriplet
  split
  · exact .refl s
  · rename_i st hst
    have kF : Keeps s { s with in1 := st } := keeps_in1 fun h => inFlush_sound hst h
    dsimp only
    split
    · exact kF
    · rename_i hl
      have kL := kF.trans (pullValue_keeps hl)
      split
      · exact kL.trans (.of_view rfl)
      · split
        · exact kL.trans (.of_view rfl)
        · rename_i hm
          have kM := kL.trans (.trans (.of_view (by rfl)) (pullValue_keeps hm))
          split
          · exact kM.trans (.of_view rfl)
          · rename_i hd
            exact kM.trans (.trans (.of_view (by rfl)) ((pullValue_keeps hd).trans (.of_view rfl)))

theorem lmdTriplets_keeps (n : Nat) (s : State) : Keeps s (lmdState (lmdTriplets n s)) := by
  induction n generalizing s with
  | zero => exact .refl s
  | succ n ih =>
    have kp := pullTriplet_keeps s
    rw [lmdTriplets]
    split
    · rename_i e; rw [e] at kp; exact kp
    · rename_i l m d s' e
      rw [e] at kp
      have kr := kp.trans (runTriplet_keeps l m d s')
      split
      · rename_i e'; rw [e'] at kr; exact kr.trans (ih _)
      · rename_i e'; rw [e'] at kr; exact kr
      · rename_i e'; rw [e'] at kr; exact kr

theorem lmdLoop_keeps (s : State) : Keeps s (lmdState (lmdLoop s)) := by
  unfold lmdLoop
  split
  · exact lmdTriplets_keeps _ _
  · have kr := runTriplet_keeps s.dec.pendL.toNat s.dec.pendM.toNat s.dec.curD.toInt s
    split
    · rename_i e; rw [e] at kr; exact kr.trans (lmdTriplets_keeps _ _)
    · rename_i e; rw [e] at kr; exact kr
    · rename_i e; rw [e] at kr; exact kr

/-- LMD_LOOP leaves the source cursors and the payload's length alone, so that the block's end lies in the source. -/
theorem compressedBlock_keeps (s : State) : Keeps s (blockState (compressedBlock s)) := by
  unfold compressedBlock
  dsimp only
  split
  · exact .refl s
  · rename_i hc
    have kl := lmdLoop_keeps s
    have hk := lmdLoop_key s
    split
    · rename_i e; rw [e] at kl; exact kl
    · rename_i e; rw [e] at kl; exact kl
    · rename_i s' e
      rw [e] at kl hk
      have hp : s'.dec.cur.srcPos = s.dec.cur.srcPos := congrArg (fun k => k.2.2.1) hk
      have he : s'.dec.cur.srcEnd = s.dec.cur.srcEnd := congrArg (fun k => k.2.2.2.1) hk
      have hn : s'.dec.nLmdPayloadBytes = s.dec.nLmdPayloadBytes := congrArg (fun k => k.2.2.2.2.2.2.2.1) hk
      exact kl.trans (keeps_srcAdvance (s := s') rfl rfl (by omega) (by rw [hp, he, hn]; omega))

/-! ## DEC_STEP (R201, R202) -/

theorem blockStep_keeps (s : State) : Keeps s (blockState (blockStep s)) := by
  unfold blockStep
  split
  · exact betweenBlocks_keeps s
  · exact rawBlock_keeps s
  · exact compressedBlock_keeps s
  · exact compressedBlock_keeps s
  · exact secondaryBlock_keeps s

theorem blockLoop_keeps (fuel : Nat) (s : State) {st : Status} {t : State} (h : blockLoop fuel s = some (st, t)) :
    Keeps s t := by
  induction fuel generalizing s with
  | zero => cases h
  | succ n ih =>
    have kb := blockStep_keeps s
    rw [blockLoop] at h
    split at h
    · rename_i e
      rw [e] at kb
      simp only [Option.some.injEq, Prod.mk.injEq] at h
      obtain ⟨-, rfl⟩ := h
      exact kb
    · rename_i e
      rw [e] at kb
      exact kb.trans (ih _ h)

theorem keeps_poisonDecOnError (st : Status) (s : State) : Keeps s (poisonDecOnError st s) := by
  cases st <;> exact .of_view rfl

theorem keeps_releaseDecLits (s : State) : Keeps s (releaseDecLits s) := .of_view rfl

theorem keeps_writeBackDec (s : State) : Keeps s (writeBackDec s) := .of_view rfl

/-- The body of DEC_STEP. -/
theorem decRun_keeps {s t : State} {st : Status} (h : decRun s = some (st, t)) : Keeps s t := by
  unfold decRun at h
  split at h
  · simp only [Option.some.injEq, Prod.mk.injEq] at h
    obtain ⟨-, rfl⟩ := h
    exact .of_view rfl
  · split at h
    · cases h
    · rename_i st' s1 e
      simp only [Option.some.injEq, Prod.mk.injEq] at h
      obtain ⟨-, rfl⟩ := h
      have kp := (blockLoop_keeps _ _ e).trans (keeps_poisonDecOnError st' s1)
      exact kp.trans ((keeps_releaseDst _ _ _).trans ((keeps_releaseDecLits _).trans (keeps_writeBackDec _)))

/-! ## The length of a packed header (30_encoding.md R102) -/

/-- The number of bits of each frequency's code. -/
theorem freqRegionBits_snd (f : List Nat) : (freqRegionBits f).2 = (f.map fun v => (freqCode v).2).sum := by
  induction f with
  | nil => rfl
  | cons v r ih => simp [freqRegionBits, ih]

theorem freqCode_length_le (v : Nat) : (freqCode v).2 ≤ 14 := by
  unfold freqCode
  split
  · rename_i h
    interval_cases v <;> decide
  · split <;> simp

theorem freqCode_length_mod_le (v : Nat) : (freqCode (v % 2 ^ 16)).2 ≤ (freqCode v).2 := by
  by_cases hv : v < 2 ^ 16
  · rw [Nat.mod_eq_of_lt hv]
  · have hbig : (freqCode v).2 = 14 := by
      unfold freqCode
      rw [if_neg (by omega), if_neg (by omega)]
    rw [hbig]
    exact freqCode_length_le _

theorem freqRegionLength_mod_le (f : List Nat) : freqRegionLength (f.map (· % 2 ^ 16)) ≤ freqRegionLength f := by
  have h : (freqRegionBits (f.map (· % 2 ^ 16))).2 ≤ (freqRegionBits f).2 := by
    rw [freqRegionBits_snd, freqRegionBits_snd, List.map_map]
    exact List.sum_le_sum fun v _ => freqCode_length_mod_le v
  unfold freqRegionLength
  omega

theorem freqRegionLength_le (f : List Nat) : freqRegionLength f ≤ 2 * f.length + 1 := by
  have h : (freqRegionBits f).2 ≤ f.length * 14 := by
    rw [freqRegionBits_snd]
    refine (List.sum_le_card_nsmul _ 14 fun x hx => ?_).trans (by simp)
    obtain ⟨v, -, rfl⟩ := List.mem_map.mp hx
    exact freqCode_length_le v
  unfold freqRegionLength
  omega

theorem packedHeader_length (h : Hdr) (f : List Nat) : (packedHeader h f).length = 32 + freqRegionLength f := by
  simp only [packedHeader, freqRegion, List.length_append, leBytes_length]

/-! ## Normalised tables keep their length (41_fse_tables.md R150, R151) -/

theorem reducePass_length (shift : Nat) (f : List Nat) (overrun : Nat) :
    (reducePass shift f overrun).1.length = f.length := by
  induction f generalizing overrun with
  | nil => rfl
  | cons v r ih =>
    rw [reducePass]
    split
    · rfl
    · simp [ih]

theorem reduceFreqs_length {passes overrun : Nat} {f g : List Nat} (h : reduceFreqs passes f overrun = some g) :
    g.length = f.length := by
  induction passes generalizing f overrun with
  | zero =>
    rw [reduceFreqs] at h
    split at h
    · cases h; rfl
    · cases h
  | succ n ih =>
    rw [reduceFreqs] at h
    split at h
    · cases h; rfl
    · exact (ih h).trans (reducePass_length _ _ _)

theorem normalizeCounts_length {n : Nat} {t f : List Nat} {m : Nat} (h : normalizeCounts n t = .ok (f, m)) :
    f.length = t.length := by
  unfold normalizeCounts at h
  replace h := (raiseIf_ok h).2
  dsimp only at h
  generalize hfr : List.map _ t = fr at h
  have hl : fr.length = t.length := by rw [← hfr, List.length_map]
  split at h
  · cases h
    rw [List.length_set, hl]
  · split at h
    · rename_i e
      cases h
      rw [reduceFreqs_length e, hl]
    · cases h

theorem normalized_length {s : State} {sel : Sel} {f : List Nat} (h : normalized s sel = .ok f) : f.length = nsym sel := by
  unfold normalized at h
  split at h
  · cases h
  · rename_i e
    cases h
    rw [normalizeCounts_length e]
    simp [State.occList, sparseList]

/-- FREQ reads back a table of its own length, each entry as a u16. -/
theorem freqOfList_read (f : List Nat) (n : Nat) (h : f.length = n) :
    (sparseList 0 (freqOfList f) n).map BitVec.toNat = f.map (· % 2 ^ 16) := by
  apply List.ext_getElem
  · simp [sparseList, h]
  · intro i h1 h2
    have hi : i < f.length := by simpa using h2
    have e := sparseGet_from (0 : U16) (f.map (BitVec.ofNat 16)) 0 i
    rw [Nat.zero_add] at e
    simp only [sparseList, freqOfList, List.getElem_map, List.getElem_range, e]
    simp [hi]

/-- TABLES leaves a HDR_SIZE that has room for the packed header (R262). -/
theorem buildTables_header {s t : State} (h : buildTables s = .ok t) :
    32 + freqRegionLength t.allFreqs ≤ t.hdrSize.toNat ∧ t.enc = s.enc ∧ t.out = s.out := by
  unfold buildTables at h
  split at h
  · cases h
  · rename_i l hl
    split at h
    · cases h
    · rename_i m hm
      split at h
      · cases h
      · rename_i d hd
        split at h
        · cases h
        · rename_i lit hlit
          cases h
          have nl := normalized_length hl
          have nm := normalized_length hm
          have nd := normalized_length hd
          have nlit := normalized_length hlit
          refine ⟨?_, rfl, rfl⟩
          have hfreq : (setTables l m d lit s).allFreqs = (l ++ m ++ d ++ lit).map (· % 2 ^ 16) := by
            simp only [State.allFreqs, State.freqList, setTables, Quad.get, List.map_append]
            rw [freqOfList_read l _ nl, freqOfList_read m _ nm, freqOfList_read d _ nd, freqOfList_read lit _ nlit]
          have hlen := freqRegionLength_le (l ++ m ++ d ++ lit)
          simp only [List.length_append, nl, nm, nd, nlit, nsym] at hlen
          have hsize : (setTables l m d lit s).hdrSize.toNat = 32 + freqRegionLength (l ++ m ++ d ++ lit) := by
            simp only [setTables, v2FixedSize, BitVec.toNat_ofNat]
            omega
          rw [hfreq, hsize]
          exact Nat.add_le_add_left (freqRegionLength_mod_le _) _

/-! ## The payloads fit the room (46_encoder_backend.md R263, R264) -/

theorem encodeSymbol_held {tab : Sparse EncEntry} {o o' : OutAcc} {st sym y : Nat}
    (h : encodeSymbol tab o st sym = .ok (o', y)) (ho : outSound o) : outHeld o' := by
  unfold encodeSymbol at h
  split at h
  · cases h
  · rename_i e
    cases h
    exact fseEncode_held e ho

theorem encodeValue_held {sel : VSel} {tab : Sparse EncEntry} {o o' : OutAcc} {st y : Nat} {x : Nat × Nat}
    (h : encodeValue sel tab o st x = .ok (o', y)) (ho : outSound o) : outHeld o' := by
  unfold encodeValue at h
  split at h
  · cases h
  · rename_i e
    exact encodeSymbol_held h (outPush_held e ho).sound

theorem encodeGroup_held {tab : Sparse EncEntry} {x y : LitStates} {o o' : OutAcc} {b0 b1 b2 b3 : Nat}
    (h : encodeGroup tab x o b0 b1 b2 b3 = .ok (y, o')) (ho : outSound o) : outHeld o' := by
  unfold encodeGroup at h
  split at h
  · cases h
  · rename_i e3
    split at h
    · cases h
    · rename_i e2
      split at h
      · cases h
      · rename_i e1
        split at h
        · cases h
        · rename_i e0
          cases h
          have h3 := (encodeSymbol_held e3 ho).sound
          have h2 := (encodeSymbol_held e2 h3).sound
          exact encodeSymbol_held e0 (encodeSymbol_held e1 h2).sound

theorem encodeTriplet_held {q : Quad (Sparse EncEntry)} {x y : LmdStates} {o o' : OutAcc} {l m d : Nat × Nat}
    (h : encodeTriplet q x o l m d = .ok (y, o')) (ho : outSound o) : outHeld o' := by
  unfold encodeTriplet at h
  split at h
  · cases h
  · rename_i eD
    split at h
    · cases h
    · rename_i eM
      split at h
      · cases h
      · rename_i eL
        cases h
        exact encodeValue_held eL (encodeValue_held eM (encodeValue_held eD ho).sound).sound

/-- A payload between two groups: fewer than 8 bits wait in OUT, and with them it lies in the room, or is as long as the `n` bytes
it began with. -/
structure PayloadFits (room n : Nat) (p : Payload) : Prop where
  held : outHeld p.out
  few : p.out.nbits ≤ 7
  fits : p.bytes.length + outFinishCount p.out ≤ max room n

theorem payloadFits_start (room : Nat) (bytes : List U8) :
    PayloadFits room bytes.length { bytes := bytes, out := OutAcc.zero } :=
  ⟨outHeld_zero, by simp [OutAcc.zero], by simp [outFinishCount, OutAcc.zero]⟩

/-- A group writes at most 8 bytes of the 16 that its check found. -/
theorem payloadFits_flush {room n : Nat} {p : Payload} {o : OutAcc} (h : ¬room < p.bytes.length + 16) (ho : outHeld o) :
    PayloadFits room n (flushPayload { p with out := o }) := by
  obtain ⟨hh, h7⟩ := outFlushed_held ho
  obtain ⟨h0, h64, -⟩ := ho
  refine ⟨hh, h7, ?_⟩
  have hw : (outFlushBytes o).length = o.nbits.toNat / 8 := leBytes_length _ _
  have hc : outFinishCount (outFlushed o) ≤ 1 := by
    unfold outFinishCount
    omega
  simp only [flushPayload, List.length_append, hw]
  omega

theorem encodeGroups_fits {tab : Sparse EncEntry} {room n : Nat} {l : List Nat} {x y : LitStates} {p r : Payload} {b : Bool}
    (h : encodeGroups tab room l x p = .ok (b, y, r)) (hp : PayloadFits room n p) : PayloadFits room n r := by
  induction l, x, p using encodeGroups.induct tab room with
  | case1 b3 b2 b1 b0 t x p hroom =>
    rw [encodeGroups, if_pos hroom] at h
    cases h
    exact hp
  | case2 b3 b2 b1 b0 t x p hroom e he =>
    rw [encodeGroups, if_neg hroom, he] at h
    cases h
  | case3 b3 b2 b1 b0 t x p hroom x' o he ih =>
    rw [encodeGroups, if_neg hroom, he] at h
    exact ih h (payloadFits_flush hroom (encodeGroup_held he hp.held.sound))
  | case4 l x p hl =>
    rw [encodeGroups] at h
    · cases h
      exact hp
    · exact hl

theorem encodeTriplets_fits {q : Quad (Sparse EncEntry)} {room n : Nat} {l : List ((Nat × Nat) × (Nat × Nat) × (Nat × Nat))}
    {x y : LmdStates} {p r : Payload} {b : Bool} (h : encodeTriplets q room l x p = .ok (b, y, r))
    (hp : PayloadFits room n p) : PayloadFits room n r := by
  induction l generalizing x p with
  | nil =>
    rw [encodeTriplets] at h
    cases h
    exact hp
  | cons c t ih =>
    obtain ⟨l, m, d⟩ := c
    rw [encodeTriplets] at h
    split at h
    · cases h
      exact hp
    · rename_i hroom
      split at h
      · cases h
      · rename_i e
        exact ih h (payloadFits_flush hroom (encodeTriplet_held e hp.held.sound))

theorem PayloadFits.finish {room n : Nat} {p : Payload} (h : PayloadFits room n p) :
    (finishPayload p).bytes.length ≤ max room n ∧ outSound (finishPayload p).out := by
  have hb : (outFinishBytes p.out).length = outFinishCount p.out := leBytes_length _ _
  refine ⟨?_, outFinished_sound h.held.1⟩
  simp only [finishPayload, List.length_append, hb]
  exact h.fits

theorem encodeLiterals_keeps {q : Nat} {b : BlockSymbols} {s : State} {r : Stage} (h : encodeLiterals q b s = .ok r) :
    (outSound s.out → outSound (stageState r).out) ∧ (stageState r).enc = s.enc ∧ (stageState r).freq = s.freq := by
  unfold encodeLiterals at h
  split at h
  · cases h
  · rename_i p e
    cases h
    exact ⟨fun _ => (encodeGroups_fits e (payloadFits_start _ [])).held.sound, rfl, rfl⟩
  · rename_i x p e
    cases h
    exact ⟨fun _ => (encodeGroups_fits e (payloadFits_start _ [])).finish.2, rfl, rfl⟩

theorem encodeLmd_keeps {q : Nat} {b : BlockSymbols} {s : State} {r : Stage} (h : encodeLmd q b s = .ok r) :
    (outSound s.out → outSound (stageState r).out) ∧ (stageState r).enc = s.enc ∧ (stageState r).freq = s.freq := by
  unfold encodeLmd at h
  split at h
  · cases h
    exact ⟨id, rfl, rfl⟩
  · split at h
    · cases h
    · rename_i p e
      cases h
      exact ⟨fun _ => (encodeTriplets_fits e (payloadFits_start _ _)).held.sound, rfl, rfl⟩
    · rename_i x p e
      cases h
      exact ⟨fun _ => (encodeTriplets_fits e (payloadFits_start _ _)).finish.2, rfl, rfl⟩

/-- The LMD payload ends within the destination. -/
theorem encodeLmd_fits {q : Nat} {b : BlockSymbols} {s t : State} {bytes : List U8}
    (h : encodeLmd q b s = .ok (.done bytes t)) : q + bytes.length ≤ s.enc.dstEnd.toNat := by
  unfold encodeLmd at h
  split at h
  · cases h
  · split at h
    · cases h
    · cases h
    · rename_i x p e
      cases h
      have hf := (encodeTriplets_fits e (payloadFits_start _ _)).finish.1
      rw [List.length_replicate] at hf
      omega

/-! ## EMIT_BLOCK (46_encoder_backend.md R258 to R266) -/

/-- ENC's arrays as EMIT_BLOCK encodes them: padded, repeated distances replaced (R259, R260). -/
def preparedEnc (s : State) : EncCtx := (substituteDistances (padLiterals s)).enc

theorem histograms_enc (b : BlockSymbols) (s : State) : (histograms b s).enc = s.enc := rfl

theorem histograms_out (b : BlockSymbols) (s : State) : (histograms b s).out = s.out := rfl

theorem emitPayload_cases {s0 s t : State} {y : BlockSymbols} {b : Bool} (h : emitPayload s0 y s = .ok (b, t))
    (hhdr : 32 + freqRegionLength s.allFreqs ≤ s.hdrSize.toNat) (he : s.enc = preparedEnc s0) :
    ∃ u : State, (outSound s.out → outSound u.out) ∧ u.enc = preparedEnc s0 ∧
      ((b = false ∧ t = rollback s0 u) ∨
      (b = true ∧ ∃ payload, closeBlock s0.enc.nLits.toNat payload u = .ok t ∧
        s.enc.dstPos.toNat + (packedHeader (finalHeader u) u.allFreqs ++ payload).length ≤ s.enc.dstEnd.toNat)) := by
  unfold emitPayload at h
  dsimp only at h
  split at h
  · cases h
  · rename_i s1 e1
    obtain ⟨ho, hc, -⟩ := encodeLiterals_keeps e1
    cases h
    exact ⟨s1, ho, hc.trans he, .inl ⟨rfl, rfl⟩⟩
  · rename_i lits s1 e1
    obtain ⟨ho1, hc1, hf1⟩ := encodeLiterals_keeps e1
    simp only [stageState] at ho1 hc1 hf1
    split at h
    · cases h
    · rename_i s2 e2
      obtain ⟨ho2, hc2, -⟩ := encodeLmd_keeps e2
      cases h
      exact ⟨s2, fun hs => ho2 (ho1 hs), hc2.trans (hc1.trans he), .inl ⟨rfl, rfl⟩⟩
    · rename_i lmd s2 e2
      obtain ⟨ho2, hc2, hf2⟩ := encodeLmd_keeps e2
      simp only [stageState] at ho2 hc2 hf2
      have hfits := encodeLmd_fits e2
      cases hclose : closeBlock s0.enc.nLits.toNat (lits ++ lmd) s2 with
      | error x => rw [hclose] at h; cases h
      | ok u =>
        rw [hclose] at h
        cases h
        refine ⟨s2, fun hs => ho2 (ho1 hs), hc2.trans (hc1.trans he), .inr ⟨rfl, lits ++ lmd, hclose, ?_⟩⟩
        have hfreqs : s2.allFreqs = s.allFreqs := by
          simp only [State.allFreqs, State.freqList, hf2, hf1]
        rw [hc1] at hfits
        simp only [List.length_append, packedHeader_length, hfreqs]
        omega

/-- The ways EMIT_BLOCK ends: nothing to emit; rolled back; or a block that fits the destination. In the last two `u` is the state
the payload stages left. -/
theorem emitBlock_cases {s t : State} {b : Bool} (h : emitBlock s = .ok (b, t)) :
    (b = true ∧ t = s) ∨
    ∃ u : State, (outSound s.out → outSound u.out) ∧ u.enc = preparedEnc s ∧
      ((b = false ∧ t = rollback s u) ∨
      (b = true ∧ ∃ payload, closeBlock s.enc.nLits.toNat payload u = .ok t ∧
        s.enc.dstPos.toNat + (packedHeader (finalHeader u) u.allFreqs ++ payload).length ≤ s.enc.dstEnd.toNat)) := by
  unfold emitBlock at h
  split at h
  · cases h
    exact .inl ⟨rfl, rfl⟩
  · right
    unfold emitFilled at h
    dsimp only at h
    split at h
    · cases h
    · rename_i y _
      split at h
      · cases h
        refine ⟨histograms y (substituteDistances (padLiterals s)), ?_, histograms_enc _ _, .inl ⟨rfl, rfl⟩⟩
        rw [histograms_out]
        exact id
      · split at h
        · cases h
        · rename_i sT eT
          obtain ⟨hhdr, hc, ho⟩ := buildTables_header eT
          rw [histograms_enc] at hc
          rw [histograms_out] at ho
          obtain ⟨u, hu, hcu, hend⟩ := emitPayload_cases h hhdr hc
          rw [ho] at hu
          rw [hc] at hend
          exact ⟨u, hu, hcu, hend⟩

/-- A state that differs in what the encoder owns is as sound where OUT, the destination and the arrays are. -/
theorem Keeps.of_encKey {s t : State} (h : encKey t = encKey s) (ho : outSound s.out → outSound t.out)
    (hd : encTrio s.enc s.dstSize → encTrio t.enc s.dstSize) (ha : EncArraysLegal s.enc → EncArraysLegal t.enc) :
    Keeps s t := by
  simp only [encKey, Prod.mk.injEq] at h
  obtain ⟨-, -, -, -, -, -, -, -, -, -, -, h0, h1, -, -, hdec, -, hss, hds, -⟩ := h
  exact {
    out := ho
    in0 := by rw [h0]; exact id
    in1 := by rw [h1]; exact id
    srcSize := hss
    dstSize := hds
    decSrc := by rw [hdec, hss]; exact id
    decDst := by rw [hdec, hds]; exact id
    encDst := by rw [hds]; exact hd
    decLits := by rw [hdec]; exact id
    encArrays := ha }

theorem mem_substituteRepeats {dprev v : Nat} {l : List Nat} (h : v ∈ substituteRepeats dprev l) : v = 0 ∨ v ∈ l := by
  induction l generalizing dprev with
  | nil => simp [substituteRepeats] at h
  | cons d r ih =>
    rw [substituteRepeats] at h
    split at h
    · rcases List.mem_cons.mp h with rfl | h
      · exact .inl rfl
      · exact (ih h).imp id (List.mem_cons_of_mem _)
    · rcases List.mem_cons.mp h with rfl | h
      · exact .inr (by simp)
      · exact (ih h).imp id (List.mem_cons_of_mem _)

/-- Replacing repeated distances by 0 keeps the distances legal. -/
theorem preparedEnc_dValues {s : State} (h : arrLegal .d s.enc.dValues) : arrLegal .d (preparedEnc s).dValues := by
  refine arrLegal_setAll h 0 fun w hw => ?_
  obtain ⟨v, hv, rfl⟩ := List.mem_map.mp hw
  refine ofNat32_toNat_le ?_
  rcases mem_substituteRepeats hv with rfl | hv
  · exact Nat.zero_le _
  · obtain ⟨i, -, rfl⟩ := List.mem_map.mp hv
    exact h i

theorem rollback_enc (s0 s : State) :
    (rollback s0 s).enc = (releaseEncArrays s0.enc.nMatches.toNat s0.enc.nLits.toNat
      { s with enc := { s.enc with nLits := s0.enc.nLits, dValues := s0.enc.dValues } }).enc := by
  unfold rollback
  rw [releaseDst_eq]

theorem rollback_out (s0 s : State) : (rollback s0 s).out = s.out := by
  unfold rollback
  rw [releaseDst_eq]
  rfl

theorem closeBlock_ok {n : Nat} {p : List U8} {s t : State} (h : closeBlock n p s = .ok t) :
    t.out = s.out ∧
    t.enc = { s.enc with
      dstPos := nat64 (s.enc.dstPos.toNat + (packedHeader (finalHeader s) s.allFreqs ++ p).length),
      nMatches := 0, nLits := 0, lits := t.enc.lits } := by
  unfold closeBlock at h
  replace h := (raiseOpt_ok h).2
  dsimp only at h
  cases h
  rw [releaseDst_eq]
  exact ⟨rfl, rfl⟩

/-- A destination position that advances stays within the end. -/
theorem encTrio_advance {c : EncCtx} {size : U64} {p : Nat} (hp : c.dstPos.toNat ≤ p) (he : p ≤ c.dstEnd.toNat)
    (h : encTrio c size) : encTrio { c with dstPos := nat64 p } size := by
  obtain ⟨h1, -, h3⟩ := h
  have e := nat64_toNat_le he
  exact ⟨h1.trans (by rw [e]; exact hp), by rw [e]; exact he, h3⟩

/-- EMIT_BLOCK keeps a state sound. -/
theorem emitBlock_keeps {s t : State} {b : Bool} (h : emitBlock s = .ok (b, t)) : Keeps s t := by
  have hkey := emitBlock_key h
  rcases emitBlock_cases h with ⟨-, rfl⟩ | ⟨u, hout, henc, ⟨-, rfl⟩ | ⟨-, payload, hclose, hfits⟩⟩
  · exact .refl _
  · refine .of_encKey hkey (by rwa [rollback_out]) ?_ ?_
    · rw [rollback_enc]
      dsimp only [encTrio, releaseEncArrays]
      rw [henc]
      exact id
    · intro ha
      rw [rollback_enc]
      dsimp only [releaseEncArrays]
      rw [henc]
      exact ⟨ha.nMatches, ha.nLits, arrLegal_release ha.lValues _ _ _, arrLegal_release ha.mValues _ _ _,
        arrLegal_release ha.dValues _ _ _⟩
  · obtain ⟨ho, hc⟩ := closeBlock_ok hclose
    refine .of_encKey hkey (by rwa [ho]) ?_ ?_
    · intro hd
      rw [hc, henc]
      exact encTrio_advance (c := s.enc) (Nat.le_add_right _ _) hfits hd
    · intro ha
      rw [hc, henc]
      exact ⟨Nat.zero_le _, Nat.zero_le _, ha.lValues, ha.mValues, preparedEnc_dValues ha.dValues⟩

/-! ## Pushing triplets (R250, R252) -/

theorem room_of_not_stateFull {s : State} {l : Nat} (h : ¬stateFull s l = true) :
    s.enc.nMatches.toNat + 1 ≤ 10000 ∧ s.enc.nLits.toNat + l ≤ 40000 := by
  unfold stateFull matchesPerBlock literalsPerBlock matchMargin literalMargin at h
  rw [decide_eq_true_eq] at h
  omega

theorem pushLmd_keeps {l m d : Nat} {s t : State} {b : Bool} (h : pushLmd l m d s = .ok (b, t)) (hl : l ≤ maxLValue)
    (hm : m ≤ maxMValue) (hd : d ≤ maxDValue) : Keeps s t := by
  unfold pushLmd at h
  split at h
  · cases h
    exact .refl s
  · rename_i hroom
    split at h
    · cases h
    · cases h
      obtain ⟨hn, hl'⟩ := room_of_not_stateFull hroom
      exact keeps_enc id fun ha => ⟨ofNat32_toNat_le hn, ofNat32_toNat_le hl',
        arrLegal_set ha.lValues _ (ofNat32_toNat_le hl), arrLegal_set ha.mValues _ (ofNat32_toNat_le hm),
        arrLegal_set ha.dValues _ (ofNat32_toNat_le hd)⟩

theorem pushRuns_keeps {q : Nat} {s t : State} {b : Bool} (h : pushRuns q s = .ok (b, t)) : Keeps s t := by
  have k {s t : State} {b : Bool} (h : pushLmd maxLValue 0 1 s = .ok (b, t)) : Keeps s t :=
    pushLmd_keeps h le_rfl (Nat.zero_le _) (by decide)
  induction q generalizing s with
  | zero => cases h; exact .refl _
  | succ q ih =>
    rw [pushRuns] at h
    split at h
    · cases h
    · rename_i e; cases h; exact k e
    · rename_i e; exact (k e).trans (ih h)

theorem pushPieces_keeps {d m q l : Nat} {s t : State} {b : Bool} (h : pushPieces d m q l s = .ok (b, t))
    (hl : l ≤ maxLValue) (hm : m ≤ maxMValue) (hd : d ≤ maxDValue) : Keeps s t := by
  induction q generalizing l s with
  | zero =>
    rw [pushPieces] at h
    split at h
    · exact pushLmd_keeps h hl hm hd
    · cases h; exact .refl _
  | succ q ih =>
    rw [pushPieces] at h
    split at h
    · cases h
    · rename_i e; cases h; exact pushLmd_keeps e hl le_rfl hd
    · rename_i e; exact (pushLmd_keeps e hl le_rfl hd).trans (ih h (Nat.zero_le _))

/-- What the loops of R252 leave over is at most one piece. -/
theorem sub_fullPieces_le (v size : Nat) (h : 0 < size) : v - size * fullPieces v size ≤ size := by
  have hd := Nat.div_add_mod (v - 1) size
  have hm := Nat.mod_lt (v - 1) h
  unfold fullPieces
  omega

theorem pushSplit_keeps {l m d : Nat} {s t : State} {b : Bool} (h : pushSplit l m d s = .ok (b, t)) (hd : d ≤ maxDValue) :
    Keeps s t := by
  unfold pushSplit at h
  dsimp only at h
  split at h
  · cases h
  · rename_i e; cases h; exact pushRuns_keeps e
  · rename_i e
    exact (pushRuns_keeps e).trans (pushPieces_keeps h (sub_fullPieces_le l maxLValue (by decide))
      (sub_fullPieces_le m maxMValue (by decide)) hd)

theorem keeps_releaseEncArrays (nm nl : Nat) (s : State) : Keeps s (releaseEncArrays nm nl s) :=
  Keeps.trans (t := { s with enc := (releaseEncArrays nm nl s).enc })
    (keeps_enc id fun ha => ⟨ha.nMatches, ha.nLits, arrLegal_release ha.lValues _ _ _, arrLegal_release ha.mValues _ _ _,
      arrLegal_release ha.dValues _ _ _⟩) (.of_view rfl)

/-- FULL of R252 takes the lengths of the state before the pushes. -/
theorem undoPush_keeps {s s' : State} (h : Keeps s s') : Keeps s (undoPush s s') := by
  refine Keeps.trans (t := { s' with enc := { s'.enc with
    nMatches := s.enc.nMatches, nLits := s.enc.nLits, srcLiteral := s.enc.srcLiteral } }) ?_ (keeps_releaseEncArrays _ _ _)
  exact { h with
    encArrays := fun ha =>
      have ha' := h.encArrays ha
      ⟨ha.nMatches, ha.nLits, ha'.lValues, ha'.mValues, ha'.dValues⟩ }

theorem pushMatch_keeps {pos ref : Int} {n : Nat} {s t : State} {b : Bool} (h : pushMatch pos ref n s = .ok (b, t)) :
    Keeps s t := by
  unfold pushMatch at h
  obtain ⟨-, h⟩ := raiseIf_ok h
  obtain ⟨hdist, h⟩ := raiseIf_ok h
  obtain ⟨-, h⟩ := raiseIf_ok h
  simp only [decide_eq_false_iff_not, not_or, not_le, not_lt] at hdist
  have hd : (pos - ref).toNat ≤ maxDValue := by omega
  split at h
  · cases h
  · rename_i e; cases h; exact pushSplit_keeps e hd
  · rename_i e; cases h; exact undoPush_keeps (pushSplit_keeps e hd)

/-! ## BACKEND_MATCH and what calls it (R237, R239, R254, R256, R268) -/

theorem keeps_poisonEnc (s : State) : Keeps s (poisonEnc s) := .of_view rfl

theorem keeps_dropPending (s : State) : Keeps s (dropPending s) := .of_view rfl

theorem keeps_setPending (m : Match) (s : State) : Keeps s (setPending m s) := .of_view rfl

theorem keeps_writeBackEnc (s : State) : Keeps s (writeBackEnc s) := .of_view rfl

theorem backendMatch_keeps {pos ref : Int} {n : Nat} {s t : State} {b : Bool} (h : backendMatch pos ref n s = .ok (b, t)) :
    Keeps s t := by
  unfold backendMatch at h
  split at h
  · cases h
  · rename_i e; cases h; exact pushMatch_keeps e
  · rename_i e
    have k1 := pushMatch_keeps e
    split at h
    · cases h
    · rename_i e'; cases h; exact (k1.trans (emitBlock_keeps e')).trans (keeps_poisonEnc _)
    · rename_i e'
      have k2 := k1.trans (emitBlock_keeps e')
      split at h
      · cases h
      · rename_i e''; cases h; exact k2.trans (pushMatch_keeps e'')
      · rename_i e''; cases h; exact (k2.trans (pushMatch_keeps e'')).trans (keeps_poisonEnc _)

theorem backendLiterals_keeps {l : Nat} {s t : State} {b : Bool} (h : backendLiterals l s = .ok (b, t)) : Keeps s t :=
  backendMatch_keeps h

theorem sendPending_keeps {s t : State} {b : Bool} (h : sendPending s = .ok (b, t)) : Keeps s t := by
  unfold sendPending at h
  split at h
  · cases h
  · rename_i e; cases h; exact (backendMatch_keeps e).trans (keeps_dropPending _)
  · rename_i e; cases h; exact backendMatch_keeps e

theorem sendMatch_keeps {m : Match} {f : State → State} (hf : ∀ s, Keeps s (f s)) {s t : State} {b : Bool}
    (h : sendMatch m f s = .ok (b, t)) : Keeps s t := by
  unfold sendMatch at h
  split at h
  · cases h
  · rename_i e; cases h; exact (backendMatch_keeps e).trans (hf _)
  · rename_i e; cases h; exact backendMatch_keeps e

theorem finishPending_keeps {s t : State} {b : Bool} (h : finishPending s = .ok (b, t)) : Keeps s t := by
  unfold finishPending at h
  split at h
  · cases h; exact .refl _
  · exact sendPending_keeps h

theorem finishLiterals_keeps {s t : State} {b : Bool} (h : finishLiterals s = .ok (b, t)) : Keeps s t := by
  unfold finishLiterals at h
  dsimp only at h
  split at h
  · exact backendLiterals_keeps h
  · cases h; exact .refl _

theorem putEos_keeps {s : State} (h : s.enc.dstPos.toNat + 4 ≤ s.enc.dstEnd.toNat) : Keeps s (putEos s) := by
  refine Keeps.trans (t := { s with enc := { s.enc with dstPos := nat64 (s.enc.dstPos.toNat + 4), active := false } })
    (keeps_enc (fun hd => encTrio_advance (Nat.le_add_right _ _) h hd) fun ha => ⟨ha.1, ha.2, ha.3, ha.4, ha.5⟩) ?_
  exact .trans (.of_view (by rfl)) (keeps_releaseDst _ _ _)

theorem encFinish_keeps (s : State) : Ends (fun r => Keeps s r.2) (encFinish s) := by
  unfold encFinish
  split
  · exact ends_error
  · rename_i e; exact ends_ok.mpr ((finishPending_keeps e).trans (keeps_writeBackEnc _))
  · rename_i e
    have k1 := finishPending_keeps e
    split
    · exact ends_error
    · rename_i e'; exact ends_ok.mpr ((k1.trans (finishLiterals_keeps e')).trans (keeps_writeBackEnc _))
    · rename_i e'
      have k2 := k1.trans (finishLiterals_keeps e')
      split
      · exact ends_error
      · rename_i e''
        exact ends_ok.mpr ((k2.trans (emitBlock_keeps e'')).trans (.of_view rfl))
      · rename_i s3 e''
        have k3 := k2.trans (emitBlock_keeps e'')
        split
        · exact ends_ok.mpr (k3.trans (keeps_writeBackEnc _))
        · rename_i hroom
          exact ends_ok.mpr ((k3.trans (putEos_keeps (by omega))).trans (.of_view rfl))

/-! ## The match finder (45_encoder_frontend.md R234 to R239) -/

theorem chooseMatch_keeps {inc : Match} {s t : State} {b : Bool} (h : chooseMatch inc s = .ok (b, t)) : Keeps s t := by
  unfold chooseMatch at h
  dsimp only at h
  split at h
  · exact sendMatch_keeps keeps_dropPending h
  · split at h
    · cases h; exact keeps_setPending inc s
    · split at h
      · exact sendMatch_keeps (keeps_setPending inc) h
      · exact sendMatch_keeps keeps_dropPending h

theorem noCandidate_keeps {pos : Int} {s t : State} {b : Bool} (h : noCandidate pos s = .ok (b, t)) : Keeps s t := by
  unfold noCandidate at h
  split at h
  · cases h; exact .refl _
  · split at h
    · exact backendLiterals_keeps h
    · exact sendPending_keeps h

theorem positionStep_keeps {pos : Int} {x : Nat} {old : Bucket} {s t : State} {b : Bool}
    (h : positionStep pos x old s = .ok (b, t)) : Keeps s t := by
  unfold positionStep at h
  split at h
  · cases h; exact .refl _
  · split at h
    · cases h
    · split at h
      · exact noCandidate_keeps h
      · split at h
        · cases h
        · exact chooseMatch_keeps h

theorem failPosition_keeps (s : State) : Keeps s (failPosition s) :=
  ((keeps_releaseEncArrays _ _ s).trans (keeps_releaseDst _ _ _)).trans (keeps_poisonEnc _)

theorem basePosition_keeps {s t : State} {b : Bool} (h : basePosition s = .ok (b, t)) : Keeps s t := by
  unfold basePosition at h
  dsimp only at h
  split at h
  · cases h
  · split at h
    · cases h
    · cases h; exact failPosition_keeps s
    · rename_i e; cases h; exact (positionStep_keeps e).trans (.of_view rfl)

theorem baseLoop_keeps {n : Nat} {s t : State} {b : Bool} (h : baseLoop n s = .ok (b, t)) : Keeps s t := by
  induction n generalizing s with
  | zero => cases h; exact .refl _
  | succ n ih =>
    rw [baseLoop] at h
    split at h
    · cases h
    · rename_i e; cases h; exact basePosition_keeps e
    · rename_i e; exact (basePosition_keeps e).trans (ih h)

theorem encBase_keeps {e : Nat} {s t : State} {b : Bool} (h : encBase e s = .ok (b, t)) : Keeps s t := by
  unfold encBase at h
  exact .trans (.of_view (by rfl)) (baseLoop_keeps (raiseIf_ok h).2)

/-- ENC_INIT takes the DST cursors that its check found in order (R232). -/
theorem encInit_keeps {s : State} (h : dstOk s) : Keeps s (encInit s) := by
  obtain ⟨-, hp, he⟩ := h
  unfold encInit
  refine Keeps.trans (keeps_enc (fun _ => ?_) fun ha => ?_) (keeps_writeBackEnc _)
  · exact ⟨le_rfl, hp, he⟩
  · exact ⟨Nat.zero_le _, Nat.zero_le _, ha.lValues, ha.mValues, ha.dValues⟩

/-! ## What the primitive commands can change -/

/-- The accumulators, VDEC, the two contexts and the sizes of the spaces. -/
def coreKey (s : State) := (s.out, s.in0, s.in1, s.vdecTab, s.dec, s.enc, s.srcSize, s.dstSize)

theorem soundView_of_coreKey {s t : State} (h : coreKey t = coreKey s) : soundView t = soundView s := by
  simp only [coreKey, Prod.mk.injEq] at h
  obtain ⟨ho, h0, h1, -, hd, he, hs, hds⟩ := h
  simp only [soundView, ho, h0, h1, hd, he, hs, hds]

theorem Keeps.of_coreKey {s t : State} (h : coreKey t = coreKey s) : Keeps s t := .of_view (soundView_of_coreKey h)

theorem storeAtDstPos_key (l : List U8) (s : State) : coreKey (storeAtDstPos l s) = coreKey s := by
  rw [storeAtDstPos_eq]
  rfl

theorem withRes0_key (v : U64) (s : State) : coreKey (s.withRes0 v) = coreKey s := rfl

theorem withRes_key (v w : U64) (s : State) : coreKey (s.withRes v w) = coreKey s := rfl

/-- A command keeps the core's pieces when its body keeps them. -/
theorem command_key {s t : State} {b : Except Trap (Status × State)} (h : command s b = .next t)
    (hb : Ends (fun r => coreKey r.2 = coreKey s) b) : coreKey t = coreKey s :=
  command_ends (Q := fun u => coreKey u = coreKey s) h rfl (fun _ h => h) (fun _ _ h => h) hb

/-- A command keeps a state sound when its body does. -/
theorem command_keeps {s t : State} {b : Except Trap (Status × State)} (h : command s b = .next t)
    (hb : Ends (fun r => Keeps s r.2) b) : Keeps s t :=
  command_ends (Q := fun u => Keeps s u) h (.refl s) (fun _ _ => .of_view rfl) (fun _ _ k => k.trans (.of_view rfl)) hb

/-- The commands that work on tables, HDR, the result registers and DST alone. -/
inductive TableCommand : Instr → Prop
  | loadArray : TableCommand .loadArray
  | normalize (sel : Sel) : TableCommand (.normalize sel)
  | checkFreq (sel : Sel) : TableCommand (.checkFreq sel)
  | buildEnc (sel : Sel) : TableCommand (.buildEnc sel)
  | buildDec : TableCommand .buildDec
  | symbolOfValue (sel : VSel) : TableCommand (.symbolOfValue sel)
  | freqEnc : TableCommand .freqEnc
  | freqDec : TableCommand .freqDec
  | hdrPack : TableCommand .hdrPack
  | hdrUnpack : TableCommand .hdrUnpack
  | hdrCheck : TableCommand .hdrCheck
  | v1Load : TableCommand .v1Load
  | v1Store : TableCommand .v1Store
  | hash : TableCommand .hash
  | storeRaw : TableCommand .storeRaw

theorem storeRaw_key (s : State) : coreKey (storeRaw s).2 = coreKey s := by
  unfold storeRaw
  dsimp only
  split
  · rfl
  · rw [storeAtDstPos_eq]
    rfl

theorem exec_table_key {i : Instr} {s t : State} (hi : TableCommand i) (h : exec i s = .next t) :
    coreKey t = coreKey s := by
  cases hi with
  | loadArray =>
    refine command_key h ?_
    split
    · exact ends_error
    · exact ends_raiseIf fun _ => ends_ok.mpr (withRes0_key _ s)
  | normalize sel =>
    refine command_key h ?_
    split
    · exact ends_error
    · exact ends_ok.mpr (by rfl)
  | checkFreq sel =>
    simp only [exec, execCheckFreq] at h
    refine command_key h ?_
    exact ends_ok.mpr (withRes0_key _ s)
  | buildEnc sel => exact command_key h (ends_raiseIf fun _ => ends_ok.mpr (by rfl))
  | buildDec =>
    refine command_key h ?_
    split
    · exact ends_ok.mpr (by rfl)
    · exact ends_ok.mpr (by rfl)
  | symbolOfValue sel =>
    refine command_key h ?_
    split
    · exact ends_error
    · exact ends_ok.mpr (withRes_key _ _ s)
  | freqEnc => exact command_key h (ends_raiseIf fun _ => ends_ok.mpr (withRes_key _ _ s))
  | freqDec =>
    simp only [exec, execFreqDec] at h
    refine command_key h ?_
    exact ends_ok.mpr (withRes_key _ _ s)
  | hdrPack =>
    refine command_key h (ends_raiseOpt fun _ => ends_raiseOpt fun _ => ?_)
    dsimp only
    split
    · exact ends_ok.mpr (by rfl)
    · rw [storeAtDstPos_eq]
      exact ends_ok.mpr rfl
  | hdrUnpack =>
    refine command_key h (ends_raiseOpt fun _ => ?_)
    split
    · exact ends_ok.mpr (by rfl)
    · exact ends_ok.mpr (by rfl)
    · exact ends_ok.mpr (by dsimp only [coreKey, loadHeader])
  | hdrCheck =>
    simp only [exec, execHdrCheck] at h
    refine command_key h ?_
    exact ends_ok.mpr (withRes0_key _ s)
  | v1Load =>
    refine command_key h (ends_raiseOpt fun _ => ?_)
    dsimp only
    split
    · exact ends_ok.mpr (by rfl)
    · exact ends_ok.mpr (by dsimp only [coreKey, loadHeader])
  | v1Store =>
    refine command_key h (ends_raiseOpt fun _ => ?_)
    split
    · exact ends_ok.mpr (by rfl)
    · exact ends_ok.mpr ((withRes0_key _ _).trans (storeAtDstPos_key _ s))
  | hash => exact command_key h (ends_raiseIf fun _ => ends_ok.mpr (withRes0_key _ s))
  | storeRaw => exact command_key h (ends_raiseOpt fun _ => ends_ok.mpr (storeRaw_key s))

/-- The commands that work on OUT. -/
inductive OutCommand : Instr → Prop
  | outInit : OutCommand .outInit
  | outPush (n : Nat) : OutCommand (.outPush n)
  | outFlush : OutCommand .outFlush
  | outFinish : OutCommand .outFinish
  | fseEncode (sel : Sel) : OutCommand (.fseEncode sel)

/-- `t` differs from `s` in OUT at most, which is sound if it was. -/
def OutOnly (s t : State) : Prop := ∃ o, (outSound s.out → outSound o) ∧ coreKey t = coreKey { s with out := o }

theorem exec_out {i : Instr} {s t : State} (hi : OutCommand i) (h : exec i s = .next t) : OutOnly s t := by
  have same : OutOnly s s := ⟨s.out, id, rfl⟩
  have close {b} (h : command s b = .next t) (hb : Ends (fun r => OutOnly s r.2) b) : OutOnly s t :=
    command_ends (Q := OutOnly s) h same (fun _ h => h) (fun _ _ h => h) hb
  cases hi with
  | outInit =>
    simp only [exec, execOutInit] at h
    refine close h ?_
    exact ends_ok.mpr ⟨OutAcc.zero, fun _ => outHeld_zero.sound, rfl⟩
  | outPush n =>
    refine close h (ends_raiseIf fun _ => ?_)
    split
    · exact ends_error
    · rename_i o e
      exact ends_ok.mpr ⟨o, fun ho => (outPush_held e ho).sound, rfl⟩
  | outFlush =>
    refine close h (ends_raiseIf fun h0 => ends_raiseOpt fun _ => ?_)
    split
    · exact ends_ok.mpr same
    · refine ends_ok.mpr ⟨outFlushed s.out, fun ho => ?_, ?_⟩
      · exact (outFlushed_held (outHeld_of_sound ho (by simpa using h0))).1.sound
      · rw [storeAtDstPos_eq]
        rfl
  | outFinish =>
    refine close h (ends_raiseIf fun h0 => ends_raiseOpt fun _ => ?_)
    split
    · exact ends_ok.mpr same
    · refine ends_ok.mpr ⟨outFinished s.out, fun _ => outFinished_sound (by simpa using h0), ?_⟩
      rw [storeAtDstPos_eq]
      rfl
  | fseEncode sel =>
    refine close h (ends_raiseIf fun _ => ends_raiseIf fun _ => ?_)
    split
    · exact ends_error
    · rename_i o next nb e
      exact ends_ok.mpr ⟨o, fun ho => (fseEncode_held e ho).sound, rfl⟩

/-- The commands that work on IN[0] or IN[1]. -/
inductive InCommand : Instr → Prop
  | inInit (sel : InSel) : InCommand (.inInit sel)
  | inFlush (sel : InSel) : InCommand (.inFlush sel)
  | inPull (sel : InSel) (n : Nat) : InCommand (.inPull sel n)
  | fseDecode : InCommand .fseDecode
  | fseVdecode (sel : VSel) : InCommand (.fseVdecode sel)

/-- `t` differs from `s` in one input accumulator at most, which is sound if it was; it is not the one of an open block. -/
def InOnly (s t : State) : Prop :=
  ∃ sel x, (inSound (s.inAcc sel) → inSound x) ∧ coreKey t = coreKey (s.withInAcc sel x) ∧
    (compressedOpen s = true → sel = .lmd → x = s.in1)

theorem ends_raiseInBusy {α : Type} {Q : α → Prop} {s : State} {sel : InSel} {n : Nat} {b : Except Trap α}
    (h : (compressedOpen s = true → sel ≠ .lmd) → Ends Q b) : Ends Q (raiseInBusy s sel n b) := by
  cases sel with
  | lit => exact h fun _ => by simp
  | lmd => exact ends_raiseIf fun hc => h fun ho => absurd ho (by simp [hc])

theorem exec_in {i : Instr} {s t : State} (hi : InCommand i) (h : exec i s = .next t) : InOnly s t := by
  have same : InOnly s s := ⟨.lit, s.in0, id, rfl, fun _ h => by cases h⟩
  have close {b} (h : command s b = .next t) (hb : Ends (fun r => InOnly s r.2) b) : InOnly s t :=
    command_ends (Q := InOnly s) h same (fun _ h => h) (fun _ _ h => h) hb
  cases hi with
  | inInit sel =>
    refine close h (ends_raiseInBusy fun hfree => ends_raiseOpt fun _ => ends_raiseIf fun _ => ?_)
    have hsound := inInit_sound (m := s.src) (x := s.inAcc sel) (n := argInt s.arg0) (stop := argNat s.arg1)
      (lo := argNat s.arg2)
    split
    · rename_i x e
      rw [e] at hsound
      exact ends_ok.mpr ⟨sel, x, hsound, rfl, fun ho hs => absurd hs (hfree ho)⟩
    · rename_i x e
      rw [e] at hsound
      exact ends_ok.mpr ⟨sel, x, hsound, rfl, fun ho hs => absurd hs (hfree ho)⟩
  | inFlush sel =>
    refine close h (ends_raiseInBusy fun hfree => ends_raiseIf fun _ => ?_)
    split
    · exact ends_ok.mpr same
    · rename_i x e
      exact ends_ok.mpr ⟨sel, x, inFlush_sound e, rfl, fun ho hs => absurd hs (hfree ho)⟩
  | inPull sel n =>
    refine close h (ends_raiseInBusy fun hfree => ?_)
    split
    · exact ends_error
    · rename_i v x e
      exact ends_ok.mpr ⟨sel, x, inPull_sound e, rfl, fun ho hs => absurd hs (hfree ho)⟩
  | fseDecode =>
    refine close h (ends_raiseIf fun _ => ?_)
    split
    · exact ends_error
    · rename_i next symbol x e
      exact ends_ok.mpr ⟨.lit, x, fseDecode_sound e, rfl, fun _ h => by cases h⟩
  | fseVdecode sel =>
    refine close h (ends_raiseIf fun hc => ends_raiseIf fun _ => ?_)
    split
    · exact ends_error
    · rename_i next v x e
      exact ends_ok.mpr ⟨.lmd, x, fseVdecode_sound e, rfl, fun ho => absurd ho (by simp [hc])⟩

/-- BUILD_VDEC changes VDEC alone, and not that of an open block. -/
theorem exec_buildVdec {sel : VSel} {s t : State} (h : exec (.buildVdec sel) s = .next t) :
    ∃ v, coreKey t = coreKey { s with vdecTab := v } ∧ (compressedOpen s = true → v = s.vdecTab) := by
  refine command_ends (Q := fun u => ∃ v, coreKey u = coreKey { s with vdecTab := v } ∧
    (compressedOpen s = true → v = s.vdecTab)) h ⟨s.vdecTab, rfl, fun _ => rfl⟩ (fun _ h => h) (fun _ _ h => h) ?_
  refine ends_raiseIf fun hc => ?_
  split
  · exact ends_ok.mpr ⟨_, rfl, fun ho => absurd ho (by simp [hc])⟩
  · exact ends_ok.mpr ⟨_, rfl, fun ho => absurd ho (by simp [hc])⟩

/-- STORE_ARRAY writes one element, with a legal value, and not one that belongs to an open block. -/
theorem exec_storeArray {s t : State} (h : exec .storeArray s = .next t) :
    coreKey t = coreKey s ∨ ∃ id i v, arrayLegal id v = true ∧ (blockArray id && compressedOpen s) = false ∧
      coreKey t = coreKey (storeElement s id i v) := by
  refine command_ends (Q := fun u => coreKey u = coreKey s ∨ ∃ id i v, arrayLegal id v = true ∧
    (blockArray id && compressedOpen s) = false ∧ coreKey u = coreKey (storeElement s id i v)) h (.inl rfl)
    (fun _ h => h) (fun _ _ h => h) ?_
  split
  · exact ends_error
  · rename_i id _
    refine ends_raiseIf fun hb => ends_raiseIf fun _ => ends_raiseIf fun hl => ?_
    exact ends_ok.mpr (.inr ⟨id, _, _, by simpa using hl, hb, rfl⟩)

theorem storeElement_keeps {s : State} {id : ArrayId} {v : Nat} (i : Nat) (hv : arrayLegal id v = true) :
    Keeps s (storeElement s id i v) := by
  cases id with
  | occ sel => exact .of_view rfl
  | freq sel => exact .of_view rfl
  | decLits => exact .of_view rfl
  | encLits => exact .of_view rfl
  | lValues =>
    exact keeps_enc id fun ha =>
      ⟨ha.1, ha.2, arrLegal_set ha.3 i (ofNat32_toNat_le (of_decide_eq_true hv)), ha.4, ha.5⟩
  | mValues =>
    exact keeps_enc id fun ha =>
      ⟨ha.1, ha.2, ha.3, arrLegal_set ha.4 i (ofNat32_toNat_le (of_decide_eq_true hv)), ha.5⟩
  | dValues =>
    exact keeps_enc id fun ha =>
      ⟨ha.1, ha.2, ha.3, ha.4, arrLegal_set ha.5 i (ofNat32_toNat_le (of_decide_eq_true hv).2)⟩
  | nMatches =>
    exact keeps_enc id fun ha => ⟨ofNat32_toNat_le (of_decide_eq_true hv), ha.2, ha.3, ha.4, ha.5⟩
  | nLits =>
    exact keeps_enc id fun ha => ⟨ha.1, ofNat32_toNat_le (of_decide_eq_true hv), ha.3, ha.4, ha.5⟩
  | decNLits => exact keeps_dec id id fun _ => ofNat32_toNat_le (of_decide_eq_true hv)

/-! ## Every command, and every step -/

theorem cursorFault_eq_none {s : State} (h : cursorFault s = none) : srcOk s ∧ dstOk s := by
  by_cases hs : srcOk s
  · refine ⟨hs, by_contra fun hd => ?_⟩
    obtain ⟨k, -, e⟩ := cursorFault_dst hs hd
    rw [h] at e
    cases e
  · obtain ⟨k, -, e⟩ := cursorFault_src hs
    rw [h] at e
    cases e

/-- DEC_INIT takes the cursors that its check found in order (44_decoder_engine.md R200). -/
theorem decInit_keeps {s : State} (hs : srcOk s) (hd : dstOk s) : Keeps s (decInit s) := by
  have kd : Keeps s { s with dec := (decInit s).dec } :=
    keeps_dec (fun _ => ⟨le_rfl, hs.2⟩) (fun _ => ⟨le_rfl, hd.2⟩) fun _ => Nat.zero_le _
  have k1 : Keeps { s with dec := (decInit s).dec } { s with dec := (decInit s).dec, in1 := InAcc.zero } :=
    keeps_in1 fun _ => ⟨Nat.zero_le _, fun h => by cases h⟩
  exact (kd.trans k1).trans (.of_view rfl)

theorem execDecInit_keeps {s t : State} (h : exec .decInit s = .next t) : Keeps s t := by
  refine command_keeps h (ends_raiseOpt fun hc => ends_ok.mpr ?_)
  obtain ⟨hs, hd⟩ := cursorFault_eq_none hc
  exact (decInit_keeps hs hd).trans (.of_view rfl)

theorem execDecStep_keeps {s t : State} (h : exec .decStep s = .next t) : Keeps s t := by
  unfold exec execDecStep at h
  dsimp only at h
  split at h
  · exact command_keeps h ends_error
  · split at h
    · cases h
    · rename_i e
      exact command_keeps h (ends_ok.mpr ((decRun_keeps e).trans (.of_view rfl)))

theorem execDecFeed_keeps {s t : State} (h : exec .decFeed s = .next t) : Keeps s t := by
  refine command_keeps h (ends_raiseIf fun _ => ends_raiseIf fun hc => ends_ok.mpr ?_)
  simp only [decide_eq_false_iff_not, not_or, not_lt] at hc
  refine (keeps_dec (d := { s.dec with cur := { s.dec.cur with srcEnd := s.cur.srcEnd } }) (fun ho => ?_) id id).trans
    (keeps_writeBackDec _)
  exact ⟨ho.1, ho.2.1.trans hc.1, hc.2⟩

theorem execDecGrow_keeps {s t : State} (h : exec .decGrow s = .next t) : Keeps s t := by
  refine command_keeps h (ends_raiseIf fun _ => ends_raiseIf fun hc => ends_ok.mpr ?_)
  simp only [decide_eq_false_iff_not, not_or, not_lt] at hc
  refine (keeps_dec (d := { s.dec with cur := { s.dec.cur with dstEnd := s.cur.dstEnd } }) id (fun ho => ?_) id).trans
    (keeps_writeBackDec _)
  exact ⟨ho.1, ho.2.1.trans hc.1, hc.2⟩

theorem execDecBuffer_keeps {s t : State} (h : exec .decBuffer s = .next t) : Keeps s t := by
  unfold exec execDecBuffer at h
  dsimp only at h
  split at h
  · cases h
    exact .refl _
  · split at h
    · exact command_keeps h ends_error
    · rename_i hc
      obtain ⟨hs, hd⟩ := cursorFault_eq_none hc
      split at h
      · cases h
      · rename_i e
        have kr := (decInit_keeps hs hd).trans (.trans (.of_view (by rfl)) (decRun_keeps e))
        exact command_keeps h (ends_ok.mpr (kr.trans (.of_view rfl)))

theorem endPush_keeps (r : Bool × State) : Keeps r.2 (endPush r).2 := by
  obtain ⟨_ | _, s⟩ := r
  · exact .of_view rfl
  · exact .of_view rfl

theorem endBackend_keeps (r : Bool × State) : Keeps r.2 (endBackend r).2 := by
  obtain ⟨_ | _, s⟩ := r
  · exact .of_view rfl
  · exact .of_view rfl

theorem endBase_keeps (r : Bool × State) : Keeps r.2 (endBase r).2 := by
  obtain ⟨_ | _, s⟩ := r
  · exact .of_view rfl
  · exact .of_view rfl

theorem endEmit_keeps (s0 : State) (r : Bool × State) : Keeps r.2 (endEmit s0 r).2 := by
  obtain ⟨_ | _, s⟩ := r
  · exact .of_view rfl
  · refine Keeps.trans ?_ (keeps_writeBackEnc _)
    split
    · exact .of_view rfl
    · exact .of_view rfl

theorem encTranslate_keeps (delta : Nat) (s : State) : Keeps s (encTranslate delta s) := .of_view rfl

theorem storeRaw_keeps (s : State) : Keeps s (storeRaw s).2 := .of_coreKey (storeRaw_key s)

theorem rawFallback_keeps (s0 s : State) : Keeps s (rawFallback s0 s).2 := by
  have k := storeRaw_keeps { s with cur := { s.cur with dstPos := s0.cur.dstPos, srcPos := s0.cur.srcPos } }
  unfold rawFallback
  split
  · rename_i e
    rw [e] at k
    exact .trans (.of_view (by rfl)) (k.trans (.of_view rfl))
  · rename_i e
    rw [e] at k
    exact .trans (.of_view (by rfl)) (k.trans (.of_view rfl))

theorem secondaryPath_keeps (n : Nat) (s : State) : Ends (fun o => ∀ t, o = some t → Keeps s t) (secondaryPath n s) := by
  unfold secondaryPath
  dsimp only
  split
  · exact ends_ok.mpr fun t h => by cases h
  · split
    · exact ends_ok.mpr fun t h => by cases h
    · split
      · exact ends_ok.mpr fun t h => by cases h
      · refine ends_raiseIf fun _ => ends_ok.mpr fun t h => ?_
        cases h
        exact (Keeps.of_coreKey (storeAtDstPos_key _ s)).trans (.of_view rfl)

theorem fsePath_keeps (n : Nat) {s : State} (h : dstOk s) : Ends (fun r => Keeps s r.2) (fsePath n s) := by
  have ki := (encInit_keeps h).trans (.of_view (t := (encInit s).withRes 0 0) rfl)
  unfold fsePath
  split
  · exact ends_error
  · rename_i e
    exact ends_ok.mpr ((ki.trans (encBase_keeps e)).trans (keeps_writeBackEnc _))
  · rename_i s1 e
    have kb := (ki.trans (encBase_keeps e)).trans
      (.of_view (t := (writeBackEnc s1).withRes s1.enc.srcEncodeI s1.enc.srcLiteral) rfl)
    split
    · exact ends_error
    · rename_i e'
      exact ends_ok.mpr (kb.trans (encFinish_keeps _ _ e'))

theorem encBuffer_keeps (n : Nat) {s : State} (h : dstOk s) : Ends (fun r => Keeps s r.2) (encBuffer n s) := by
  unfold encBuffer
  split
  · exact ends_ok.mpr (rawFallback_keeps s s)
  · split
    · split
      · exact ends_error
      · rename_i e
        exact ends_ok.mpr ((secondaryPath_keeps n s _ e _ rfl).trans (.of_view rfl))
      · exact ends_ok.mpr (rawFallback_keeps s s)
    · split
      · exact ends_error
      · rename_i e
        exact ends_ok.mpr ((fsePath_keeps n h _ e).trans (.of_view rfl))
      · rename_i e
        have kf := (fsePath_keeps n h _ e).trans (keeps_releaseDst s.cur.dstPos.toNat s.cur.dstEnd.toNat _)
        exact ends_ok.mpr (kf.trans (.trans (.of_view (by rfl)) (rawFallback_keeps s _)))

theorem fullReset_keeps (s : State) : Keeps s (fullReset s) where
  out _ := outHeld_zero.sound
  in0 _ := ⟨Nat.zero_le _, fun h => by cases h⟩
  in1 _ := ⟨Nat.zero_le _, fun h => by cases h⟩
  srcSize := rfl
  dstSize := rfl
  decSrc _ := ⟨Nat.zero_le _, Nat.zero_le _, Nat.zero_le _⟩
  decDst _ := ⟨Nat.zero_le _, Nat.zero_le _, Nat.zero_le _⟩
  encDst _ := ⟨Nat.zero_le _, Nat.zero_le _, Nat.zero_le _⟩
  decLits _ := Nat.zero_le _
  encArrays _ := ⟨Nat.zero_le _, Nat.zero_le _, arrLegal_empty .l, arrLegal_empty .m, arrLegal_empty .d⟩

theorem execReset_keeps {s t : State} (h : exec .reset s = .next t) : Keeps s t := by
  unfold exec execReset at h
  dsimp only at h
  split at h
  · cases h
    exact fullReset_keeps s
  · split at h
    · cases h
      exact .of_view rfl
    · cases h
      exact .of_view rfl

theorem OutOnly.keeps {s t : State} (h : OutOnly s t) : Keeps s t := by
  obtain ⟨o, ho, hk⟩ := h
  exact (keeps_out ho).trans (.of_coreKey hk)

theorem InOnly.keeps {s t : State} (h : InOnly s t) : Keeps s t := by
  obtain ⟨sel, x, hx, hk, -⟩ := h
  exact (keeps_withInAcc hx).trans (.of_coreKey hk)

/-- Every command keeps a state sound, component by component. -/
theorem exec_keeps {i : Instr} {s t : State} (h : exec i s = .next t) : Keeps s t := by
  cases i with
  | reset => exact execReset_keeps h
  | storeArray =>
    rcases exec_storeArray h with hk | ⟨id, i, v, hv, -, hk⟩
    · exact .of_coreKey hk
    · exact (storeElement_keeps i hv).trans (.of_coreKey hk)
  | loadArray => exact .of_coreKey (exec_table_key .loadArray h)
  | outInit => exact (exec_out .outInit h).keeps
  | outPush n => exact (exec_out (.outPush n) h).keeps
  | outFlush => exact (exec_out .outFlush h).keeps
  | outFinish => exact (exec_out .outFinish h).keeps
  | inInit sel => exact (exec_in (.inInit sel) h).keeps
  | inFlush sel => exact (exec_in (.inFlush sel) h).keeps
  | inPull sel n => exact (exec_in (.inPull sel n) h).keeps
  | normalize sel => exact .of_coreKey (exec_table_key (.normalize sel) h)
  | checkFreq sel => exact .of_coreKey (exec_table_key (.checkFreq sel) h)
  | buildEnc sel => exact .of_coreKey (exec_table_key (.buildEnc sel) h)
  | buildDec => exact .of_coreKey (exec_table_key .buildDec h)
  | buildVdec sel =>
    obtain ⟨v, hk, -⟩ := exec_buildVdec h
    exact .trans (.of_view (by rfl)) (.of_coreKey hk)
  | symbolOfValue sel => exact .of_coreKey (exec_table_key (.symbolOfValue sel) h)
  | fseEncode sel => exact (exec_out (.fseEncode sel) h).keeps
  | fseDecode => exact (exec_in .fseDecode h).keeps
  | fseVdecode sel => exact (exec_in (.fseVdecode sel) h).keeps
  | freqEnc => exact .of_coreKey (exec_table_key .freqEnc h)
  | freqDec => exact .of_coreKey (exec_table_key .freqDec h)
  | hdrPack => exact .of_coreKey (exec_table_key .hdrPack h)
  | hdrUnpack => exact .of_coreKey (exec_table_key .hdrUnpack h)
  | hdrCheck => exact .of_coreKey (exec_table_key .hdrCheck h)
  | v1Load => exact .of_coreKey (exec_table_key .v1Load h)
  | v1Store => exact .of_coreKey (exec_table_key .v1Store h)
  | decInit => exact execDecInit_keeps h
  | decStep => exact execDecStep_keeps h
  | decFeed => exact execDecFeed_keeps h
  | decGrow => exact execDecGrow_keeps h
  | decBuffer => exact execDecBuffer_keeps h
  | encInit =>
    refine command_keeps h (ends_raiseOpt fun hc => ends_ok.mpr ?_)
    exact (encInit_keeps (cursorFault_eq_none hc).2).trans (.of_view rfl)
  | hash => exact .of_coreKey (exec_table_key .hash h)
  | encBase =>
    exact command_keeps h (ends_raiseIf fun _ => ends_map fun r e => (encBase_keeps e).trans (endBase_keeps r))
  | encTranslate =>
    refine command_keeps h (ends_raiseIf fun _ => ends_raiseIf fun _ => ?_)
    split
    · exact ends_ok.mpr (keeps_writeBackEnc s)
    · exact ends_ok.mpr ((encTranslate_keeps _ s).trans (keeps_writeBackEnc _))
  | pushLmd =>
    refine command_keeps h (ends_raiseIf fun _ => ends_raiseIf fun hl => ends_raiseIf fun hm => ends_raiseIf fun hd =>
      ends_map fun r e => ?_)
    simp only [decide_eq_false_iff_not, not_or, not_lt] at hl hm hd
    exact (pushLmd_keeps e hl hm hd.2).trans (endPush_keeps r)
  | pushMatch =>
    exact command_keeps h (ends_raiseIf fun _ => ends_map fun r e => (pushMatch_keeps e).trans (endPush_keeps r))
  | backendMatch =>
    exact command_keeps h (ends_raiseIf fun _ => ends_map fun r e => (backendMatch_keeps e).trans (endBackend_keeps r))
  | backendLiterals =>
    refine command_keeps h (ends_raiseIf fun _ => ?_)
    split
    · exact ends_ok.mpr (keeps_writeBackEnc s)
    · exact ends_map fun r e => (backendLiterals_keeps e).trans (endBackend_keeps r)
  | emitBlock =>
    exact command_keeps h (ends_raiseIf fun _ => ends_map fun r e => (emitBlock_keeps e).trans (endEmit_keeps s r))
  | encFinish => exact command_keeps h (ends_raiseIf fun _ => encFinish_keeps s)
  | storeRaw => exact .of_coreKey (exec_table_key .storeRaw h)
  | encBuffer =>
    exact command_keeps h (ends_raiseOpt fun hc => ends_raiseIf fun _ => encBuffer_keeps _ (cursorFault_eq_none hc).2)

theorem runWord_keeps {w : U32} {s t : State} (h : runWord w s = .next t) : Keeps s t := by
  unfold runWord at h
  split at h
  · cases h
    exact .refl _
  · split at h
    · cases h
      exact .of_view rfl
    · exact exec_keeps h

theorem writeReg_keeps (r : PortReg) (v : U64) (s : State) : Keeps s (writeReg r v s) := by
  cases r <;> exact .of_view rfl

/-- Every step keeps a state sound, component by component. -/
theorem step_keeps {s t : State} (h : step s = .next t) : Keeps s t := by
  rcases step_next h with ⟨-, rfl⟩ | ⟨m, r, -, h⟩
  · exact .refl _
  · have ks : Keeps s { s with script := r } := .of_view rfl
    refine ks.trans ?_
    rcases hostMove_next h with ⟨w, -, h⟩ | ⟨p, v, -, rfl⟩ | ⟨a, b, -, h⟩ | ⟨a, b, -, h⟩
    · exact .trans (.of_view (by rfl)) (runWord_keeps (issue_next h).1)
    · exact writeReg_keeps p v _
    · rcases (placeSrc_next h).2 with ⟨-, rfl⟩ | ⟨-, rfl⟩
      · exact .refl _
      · exact .of_view rfl
    · rcases (placeDst_next h).2 with ⟨-, rfl⟩ | ⟨-, rfl⟩
      · exact .refl _
      · exact .of_view rfl

/-- Settles O6: the accumulators are three of the components that every step keeps sound. -/
theorem accumulatorsKept : Obligations.AccumulatorsKept :=
  fun _ _ hs h => (step_keeps h).accumulatorsSound hs

/-- Settles O7: so are the cursors of the two contexts. -/
theorem contextCursorsKept : Obligations.ContextCursorsKept :=
  fun _ _ hs h => (step_keeps h).contextsOrdered hs

/-- Settles O8: so are the per-block arrays, their unspecified entries included. -/
theorem arraysKeptLegal : Obligations.ArraysKeptLegal :=
  fun _ _ hs h => (step_keeps h).arraysLegal hs

/-! ## What the encoder's commands leave alone -/

/-- What no encoder command changes: the operands, IN, the decoder's tables and context, SRC and the sizes of the spaces. -/
def encFrame (s : State) :=
  (s.cmd, s.arg0, s.arg1, s.arg2, s.arg3, s.in0, s.in1, s.decTab, s.vdecTab, s.dec, s.src, s.srcSize, s.dstSize, s.script)

theorem encFrame_of_key {s t : State} (h : encKey t = encKey s) : encFrame t = encFrame s := by
  simp only [encKey, Prod.mk.injEq] at h
  obtain ⟨hc, h0, h1, h2, h3, -, -, -, -, -, -, hi0, hi1, hd, hv, hdec, hsrc, hss, hds, hsc⟩ := h
  simp only [encFrame, hc, h0, h1, h2, h3, hi0, hi1, hd, hv, hdec, hsrc, hss, hds, hsc]

theorem writeBackEnc_frame (s : State) : encFrame (writeBackEnc s) = encFrame s := rfl

theorem withRes_frame (v w : U64) (s : State) : encFrame (s.withRes v w) = encFrame s := rfl

theorem withRes0_frame (v : U64) (s : State) : encFrame (s.withRes0 v) = encFrame s := rfl

theorem encInit_frame (s : State) : encFrame (encInit s) = encFrame s := by
  unfold encInit
  exact writeBackEnc_frame _

theorem encTranslate_frame (delta : Nat) (s : State) : encFrame (encTranslate delta s) = encFrame s := rfl

theorem endPush_frame (r : Bool × State) : encFrame (endPush r).2 = encFrame r.2 := by
  obtain ⟨_ | _, s⟩ := r <;> rfl

theorem endBackend_frame (r : Bool × State) : encFrame (endBackend r).2 = encFrame r.2 := by
  obtain ⟨_ | _, s⟩ := r <;> rfl

theorem endBase_frame (r : Bool × State) : encFrame (endBase r).2 = encFrame r.2 := by
  obtain ⟨_ | _, s⟩ := r <;> rfl

theorem endEmit_frame (s0 : State) (r : Bool × State) : encFrame (endEmit s0 r).2 = encFrame r.2 := by
  obtain ⟨_ | _, s⟩ := r
  · rfl
  · refine (writeBackEnc_frame _).trans ?_
    split <;> rfl

theorem finishPending_key {s t : State} {b : Bool} (h : finishPending s = .ok (b, t)) : encKey t = encKey s := by
  unfold finishPending at h
  split at h
  · cases h; rfl
  · exact sendPending_key h

theorem finishLiterals_key {s t : State} {b : Bool} (h : finishLiterals s = .ok (b, t)) : encKey t = encKey s := by
  unfold finishLiterals at h
  dsimp only at h
  split at h
  · exact backendLiterals_key h
  · cases h; rfl

theorem putEos_key (s : State) : encKey (putEos s) = encKey s := by
  unfold putEos
  dsimp only
  rw [releaseDst_key]
  rfl

theorem encFinish_frame (s : State) : Ends (fun r => encFrame r.2 = encFrame s) (encFinish s) := by
  unfold encFinish
  split
  · exact ends_error
  · rename_i e
    exact ends_ok.mpr ((writeBackEnc_frame _).trans (encFrame_of_key (finishPending_key e)))
  · rename_i e
    have k1 := finishPending_key e
    split
    · exact ends_error
    · rename_i e'
      exact ends_ok.mpr ((writeBackEnc_frame _).trans (encFrame_of_key ((finishLiterals_key e').trans k1)))
    · rename_i e'
      have k2 := (finishLiterals_key e').trans k1
      split
      · exact ends_error
      · rename_i e''
        have k3 := (emitBlock_key e'').trans k2
        exact ends_ok.mpr ((writeBackEnc_frame _).trans (encFrame_of_key ((poisonEnc_key _).trans k3)))
      · rename_i e''
        have k3 := (emitBlock_key e'').trans k2
        split
        · exact ends_ok.mpr ((writeBackEnc_frame _).trans (encFrame_of_key k3))
        · refine ends_ok.mpr ((withRes0_frame _ _).trans ((writeBackEnc_frame _).trans ?_))
          exact encFrame_of_key ((putEos_key _).trans k3)

theorem storeAtDstPos_frame (l : List U8) (s : State) : encFrame (storeAtDstPos l s) = encFrame s := by
  rw [storeAtDstPos_eq]
  rfl

theorem storeRaw_frame (s : State) : encFrame (storeRaw s).2 = encFrame s := by
  unfold storeRaw
  dsimp only
  split
  · exact withRes0_frame _ _
  · rw [storeAtDstPos_eq]
    rfl

theorem rawFallback_frame (s0 s : State) : encFrame (rawFallback s0 s).2 = encFrame s := by
  have k := storeRaw_frame { s with cur := { s.cur with dstPos := s0.cur.dstPos, srcPos := s0.cur.srcPos } }
  unfold rawFallback
  split
  · rename_i e
    rw [e] at k
    exact k
  · rename_i e
    rw [e] at k
    exact (encFrame_of_key (endEncode_key _ _)).trans ((withRes0_frame _ _).trans k)

theorem secondaryPath_frame (n : Nat) (s : State) :
    Ends (fun o => ∀ t, o = some t → encFrame t = encFrame s) (secondaryPath n s) := by
  unfold secondaryPath
  dsimp only
  split
  · exact ends_ok.mpr fun t h => by cases h
  · split
    · exact ends_ok.mpr fun t h => by cases h
    · split
      · exact ends_ok.mpr fun t h => by cases h
      · refine ends_raiseIf fun _ => ends_ok.mpr fun t h => ?_
        cases h
        exact (withRes0_frame _ _).trans (storeAtDstPos_frame _ s)

theorem fsePath_frame (n : Nat) (s : State) : Ends (fun r => encFrame r.2 = encFrame s) (fsePath n s) := by
  have ki : encFrame ((encInit s).withRes 0 0) = encFrame s := (withRes_frame _ _ _).trans (encInit_frame s)
  unfold fsePath
  split
  · exact ends_error
  · rename_i e
    exact ends_ok.mpr ((writeBackEnc_frame _).trans ((encFrame_of_key (encBase_key e)).trans ki))
  · rename_i e
    split
    · exact ends_error
    · rename_i e'
      refine ends_ok.mpr ((encFinish_frame _ _ e').trans ((withRes_frame _ _ _).trans ((writeBackEnc_frame _).trans ?_)))
      exact (encFrame_of_key (encBase_key e)).trans ki

theorem encBuffer_frame (n : Nat) (s : State) : Ends (fun r => encFrame r.2 = encFrame s) (encBuffer n s) := by
  unfold encBuffer
  split
  · exact ends_ok.mpr (rawFallback_frame s s)
  · split
    · split
      · exact ends_error
      · rename_i e
        exact ends_ok.mpr ((encFrame_of_key (endEncode_key _ _)).trans (secondaryPath_frame n s _ e _ rfl))
      · exact ends_ok.mpr (rawFallback_frame s s)
    · split
      · exact ends_error
      · rename_i e
        exact ends_ok.mpr ((encFrame_of_key (endEncode_key _ _)).trans (fsePath_frame n s _ e))
      · rename_i e
        refine ends_ok.mpr ((rawFallback_frame s _).trans ((encFrame_of_key (leaveEncode_key _)).trans ?_))
        exact (encFrame_of_key (releaseDst_key _ _ _)).trans (fsePath_frame n s _ e)

/-- The commands of the encoder context, ENC_BUFFER among them. -/
inductive EncoderCommand : Instr → Prop
  | encInit : EncoderCommand .encInit
  | encBase : EncoderCommand .encBase
  | encTranslate : EncoderCommand .encTranslate
  | pushLmd : EncoderCommand .pushLmd
  | pushMatch : EncoderCommand .pushMatch
  | backendMatch : EncoderCommand .backendMatch
  | backendLiterals : EncoderCommand .backendLiterals
  | emitBlock : EncoderCommand .emitBlock
  | encFinish : EncoderCommand .encFinish
  | encBuffer : EncoderCommand .encBuffer

theorem exec_encoder_frame {i : Instr} {s t : State} (hi : EncoderCommand i) (h : exec i s = .next t) :
    encFrame t = encFrame s := by
  have close {b} (h : command s b = .next t) (hb : Ends (fun r => encFrame r.2 = encFrame s) b) : encFrame t = encFrame s :=
    command_ends (Q := fun u => encFrame u = encFrame s) h rfl (fun _ h => h) (fun _ _ h => h) hb
  cases hi with
  | encInit => exact close h (ends_raiseOpt fun _ => ends_ok.mpr ((withRes_frame _ _ _).trans (encInit_frame s)))
  | encBase =>
    exact close h (ends_raiseIf fun _ => ends_map fun r e => (endBase_frame r).trans (encFrame_of_key (encBase_key e)))
  | encTranslate =>
    refine close h (ends_raiseIf fun _ => ends_raiseIf fun _ => ?_)
    split
    · exact ends_ok.mpr (writeBackEnc_frame s)
    · exact ends_ok.mpr ((writeBackEnc_frame _).trans (encTranslate_frame _ s))
  | pushLmd =>
    exact close h (ends_raiseIf fun _ => ends_raiseIf fun _ => ends_raiseIf fun _ => ends_raiseIf fun _ =>
      ends_map fun r e => (endPush_frame r).trans (encFrame_of_key (pushLmd_key e)))
  | pushMatch =>
    exact close h (ends_raiseIf fun _ => ends_map fun r e => (endPush_frame r).trans (encFrame_of_key (pushMatch_key e)))
  | backendMatch =>
    exact close h (ends_raiseIf fun _ => ends_map fun r e =>
      (endBackend_frame r).trans (encFrame_of_key (backendMatch_key e)))
  | backendLiterals =>
    refine close h (ends_raiseIf fun _ => ?_)
    split
    · exact ends_ok.mpr (writeBackEnc_frame s)
    · exact ends_map fun r e => (endBackend_frame r).trans (encFrame_of_key (backendLiterals_key e))
  | emitBlock =>
    exact close h (ends_raiseIf fun _ => ends_map fun r e =>
      (endEmit_frame s r).trans (encFrame_of_key (emitBlock_key e)))
  | encFinish => exact close h (ends_raiseIf fun _ => encFinish_frame s)
  | encBuffer => exact close h (ends_raiseOpt fun _ => ends_raiseIf fun _ => encBuffer_frame _ s)

/-! ## The interlock (10_state.md R64) -/

/-- What belongs to an open compressed block. -/
def blockLock (s : State) := (s.in1, s.vdecTab, s.dec.lits, s.dec.nLits, s.dec.block)

theorem blockLock_of_coreKey {s t : State} (h : coreKey t = coreKey s) : blockLock t = blockLock s := by
  simp only [coreKey, Prod.mk.injEq] at h
  obtain ⟨-, -, h1, hv, hd, -⟩ := h
  simp only [blockLock, h1, hv, hd]

theorem blockLock_of_encFrame {s t : State} (h : encFrame t = encFrame s) : blockLock t = blockLock s := by
  simp only [encFrame, Prod.mk.injEq] at h
  obtain ⟨-, -, -, -, -, -, h1, -, hv, hd, -⟩ := h
  simp only [blockLock, h1, hv, hd]

theorem OutOnly.blockLock {s t : State} (h : OutOnly s t) : blockLock t = blockLock s := by
  obtain ⟨o, -, hk⟩ := h
  exact (blockLock_of_coreKey hk).trans rfl

theorem InOnly.blockLock {s t : State} (h : InOnly s t) (ho : compressedOpen s = true) : blockLock t = blockLock s := by
  obtain ⟨sel, x, -, hk, hfree⟩ := h
  refine (blockLock_of_coreKey hk).trans ?_
  cases sel with
  | lit => rfl
  | lmd => rw [hfree ho rfl]; rfl

theorem storeElement_blockLock {s : State} {id : ArrayId} (i v : Nat) (h : blockArray id = false) :
    blockLock (storeElement s id i v) = blockLock s := by
  cases id with
  | decLits => cases h
  | decNLits => cases h
  | occ sel => rfl
  | freq sel => rfl
  | encLits => rfl
  | lValues => rfl
  | mValues => rfl
  | dValues => rfl
  | nMatches => rfl
  | nLits => rfl

/-- While a block is open only the decoder's commands and RESET change what belongs to it. -/
theorem exec_blockLock {i : Instr} {s t : State} (ho : compressedOpen s = true)
    (hi : i ∉ [Instr.decInit, .decStep, .decBuffer, .reset]) (h : exec i s = .next t) : blockLock t = blockLock s := by
  have close {b} (h : command s b = .next t) (hb : Ends (fun r => blockLock r.2 = blockLock s) b) :
      blockLock t = blockLock s :=
    command_ends (Q := fun u => blockLock u = blockLock s) h rfl (fun _ h => h) (fun _ _ h => h) hb
  cases i with
  | reset => simp at hi
  | decInit => simp at hi
  | decStep => simp at hi
  | decBuffer => simp at hi
  | decFeed => exact close h (ends_raiseIf fun _ => ends_raiseIf fun _ => ends_ok.mpr rfl)
  | decGrow => exact close h (ends_raiseIf fun _ => ends_raiseIf fun _ => ends_ok.mpr rfl)
  | storeArray =>
    rcases exec_storeArray h with hk | ⟨id, i, v, -, hb, hk⟩
    · exact blockLock_of_coreKey hk
    · exact (blockLock_of_coreKey hk).trans (storeElement_blockLock i v (by simpa [ho] using hb))
  | buildVdec sel =>
    obtain ⟨v, hk, hv⟩ := exec_buildVdec h
    refine (blockLock_of_coreKey hk).trans ?_
    rw [hv ho]
  | loadArray => exact blockLock_of_coreKey (exec_table_key .loadArray h)
  | normalize sel => exact blockLock_of_coreKey (exec_table_key (.normalize sel) h)
  | checkFreq sel => exact blockLock_of_coreKey (exec_table_key (.checkFreq sel) h)
  | buildEnc sel => exact blockLock_of_coreKey (exec_table_key (.buildEnc sel) h)
  | buildDec => exact blockLock_of_coreKey (exec_table_key .buildDec h)
  | symbolOfValue sel => exact blockLock_of_coreKey (exec_table_key (.symbolOfValue sel) h)
  | freqEnc => exact blockLock_of_coreKey (exec_table_key .freqEnc h)
  | freqDec => exact blockLock_of_coreKey (exec_table_key .freqDec h)
  | hdrPack => exact blockLock_of_coreKey (exec_table_key .hdrPack h)
  | hdrUnpack => exact blockLock_of_coreKey (exec_table_key .hdrUnpack h)
  | hdrCheck => exact blockLock_of_coreKey (exec_table_key .hdrCheck h)
  | v1Load => exact blockLock_of_coreKey (exec_table_key .v1Load h)
  | v1Store => exact blockLock_of_coreKey (exec_table_key .v1Store h)
  | hash => exact blockLock_of_coreKey (exec_table_key .hash h)
  | storeRaw => exact blockLock_of_coreKey (exec_table_key .storeRaw h)
  | outInit => exact (exec_out .outInit h).blockLock
  | outPush n => exact (exec_out (.outPush n) h).blockLock
  | outFlush => exact (exec_out .outFlush h).blockLock
  | outFinish => exact (exec_out .outFinish h).blockLock
  | fseEncode sel => exact (exec_out (.fseEncode sel) h).blockLock
  | inInit sel => exact (exec_in (.inInit sel) h).blockLock ho
  | inFlush sel => exact (exec_in (.inFlush sel) h).blockLock ho
  | inPull sel n => exact (exec_in (.inPull sel n) h).blockLock ho
  | fseDecode => exact (exec_in .fseDecode h).blockLock ho
  | fseVdecode sel => exact (exec_in (.fseVdecode sel) h).blockLock ho
  | encInit => exact blockLock_of_encFrame (exec_encoder_frame .encInit h)
  | encBase => exact blockLock_of_encFrame (exec_encoder_frame .encBase h)
  | encTranslate => exact blockLock_of_encFrame (exec_encoder_frame .encTranslate h)
  | pushLmd => exact blockLock_of_encFrame (exec_encoder_frame .pushLmd h)
  | pushMatch => exact blockLock_of_encFrame (exec_encoder_frame .pushMatch h)
  | backendMatch => exact blockLock_of_encFrame (exec_encoder_frame .backendMatch h)
  | backendLiterals => exact blockLock_of_encFrame (exec_encoder_frame .backendLiterals h)
  | emitBlock => exact blockLock_of_encFrame (exec_encoder_frame .emitBlock h)
  | encFinish => exact blockLock_of_encFrame (exec_encoder_frame .encFinish h)
  | encBuffer => exact blockLock_of_encFrame (exec_encoder_frame .encBuffer h)

theorem command_busy {s : State} (hr : ready s) (ho : compressedOpen s = true) (n : Nat)
    (b : Except Trap (Status × State)) : command s (raiseBusy s n b) = .next (faulted .resourceBusy n s) := by
  rw [raiseBusy_open ho, command_error hr, takeFault_nat]

/-- STORE_ARRAY to DEC.lits or DEC.n_lits (60_exceptions.md R298). -/
theorem exec_storeArray_busy {s : State} (hr : ready s) (ho : compressedOpen s = true) {id : ArrayId}
    (hid : arrayOfId s.arg0.toNat = some id) (hb : blockArray id = true) :
    exec .storeArray s = .next (faulted .resourceBusy 0x02 s) := by
  show command s _ = _
  unfold argNat
  rw [hid]
  dsimp only
  rw [raiseIf_pos (by simp [hb, ho]), command_error hr, takeFault_two]

/-- A command that ran and did not fault did what its body did. -/
theorem command_ran {Q : State → Prop} {s t : State} {b : Except Trap (Status × State)} (h : command s b = .next t)
    (hr : ready s) (hf : t.fault = none) (hst : ∀ st u, Q u → Q { u with status := st }) (hb : Ends (fun r => Q r.2) b) :
    Q t := by
  rcases command_next_cases h with ⟨hn, -⟩ | ⟨-, e, -, rfl⟩ | ⟨-, st, u, rfl, rfl⟩
  · exact absurd hr hn
  · cases hf
  · exact hst st u (hb _ rfl)

theorem exec_decInit_closed {s t : State} (hr : ready s) (h : exec .decInit s = .next t) (hf : t.fault = none) :
    compressedOpen t = false := by
  refine command_ran (Q := fun u => compressedOpen u = false) h hr hf (fun _ _ h => h) ?_
  exact ends_raiseOpt fun _ => ends_ok.mpr rfl

theorem decRun_fault {s t : State} {st : Status} (h : decRun s = some (st, t)) : t.fault = s.fault := by
  unfold decRun at h
  split at h
  · cases h
    rfl
  · split at h
    · cases h
    · rename_i st' s1 e
      cases h
      have hk : s1.fault = s.fault := congrArg (fun k => k.2.2.2.2.2.2.2.2.1) (blockLoop_key _ _ e)
      rw [writeBackDec_fault, releaseDec, releaseDecLits_fault, releaseDst_eq]
      exact (poisonDecOnError_fault _ s1).trans hk

/-- DEC_BUFFER begins with DEC_INIT, so that it runs whether a block is open or not. -/
theorem exec_decBuffer_runs {s : State} (hr : ready s) (hs : srcOk s) (hd : dstOk s) :
    ∃ t, exec .decBuffer s = .next t ∧ t.fault = none := by
  obtain ⟨⟨st, u⟩, hu⟩ := Option.isSome_iff_exists.mp (decRun_isSome { (decInit s).withRes 0 0 with status := .ok })
  have hfault : u.fault = none := (decRun_fault hu).trans hr
  refine ⟨{ u.withRes (word64 (decBufferCount st u)) (word64 (decConsumed u)) with status := st }, ?_, hfault⟩
  unfold exec execDecBuffer
  dsimp only
  rw [isSome_of_ready hr, cursorFault_none hs hd, hu]
  exact command_ok hr _ _

/-- Settles O12: the commands that would touch the open block's pieces fault, the others keep them, and DEC_INIT (with
DEC_BUFFER) and RESET release the block. -/
theorem interlockGuardsOpenBlock : Obligations.InterlockGuardsOpenBlock := by
  refine ⟨fun s hr ho => ⟨?_, ?_, fun n => ?_, fun sel => ?_, fun sel => ?_, ?_⟩, ?_, ?_, ?_, ?_⟩
  · exact command_busy hr ho _ _
  · exact command_busy hr ho _ _
  · exact command_busy hr ho _ _
  · exact command_busy hr ho _ _
  · exact command_busy hr ho _ _
  · rintro (ha | ha)
    · exact exec_storeArray_busy (id := .decLits) hr ho (by rw [ha]; rfl) rfl
    · exact exec_storeArray_busy (id := .decNLits) hr ho (by rw [ha]; rfl) rfl
  · intro i s t ho hi h
    simpa only [blockLock, Prod.mk.injEq] using exec_blockLock ho hi h
  · exact fun s t hr h hf => exec_decInit_closed hr h hf
  · exact fun s hr hs hd => exec_decBuffer_runs hr hs hd
  · intro s t ha h
    unfold exec execReset argNat at h
    rw [ha] at h
    cases h
    rfl

/-! ## The cursor registers after a command of a context (10_state.md R33, R53) -/

theorem decRun_cur {s t : State} {st : Status} (h : decRun s = some (st, t)) : t.cur = t.dec.cur := by
  unfold decRun at h
  split at h
  · cases h
    rfl
  · split at h
    · cases h
    · cases h
      rfl

/-- The cursor registers show the decoder context's cursors. -/
abbrev showsDec (s : State) : Prop := s.cur = s.dec.cur

/-- The cursor registers show the encoder context's cursors. -/
abbrev showsEnc (s : State) : Prop := s.cur = encCursors s.enc

theorem exec_decoder_showsDec {s t : State} (hr : ready s) {i : Instr}
    (hi : i ∈ [Instr.decInit, .decStep, .decFeed, .decGrow, .decBuffer]) (h : exec i s = .next t) (hf : t.fault = none) :
    showsDec t := by
  have close {b} (h : command s b = .next t) (hb : Ends (fun r => showsDec r.2) b) : showsDec t :=
    command_ran (Q := showsDec) h hr hf (fun _ _ h => h) hb
  simp only [List.mem_cons, List.not_mem_nil, or_false] at hi
  rcases hi with rfl | rfl | rfl | rfl | rfl
  · exact close h (ends_raiseOpt fun _ => ends_ok.mpr rfl)
  · unfold exec execDecStep at h
    dsimp only at h
    split at h
    · exact close h ends_error
    · split at h
      · cases h
      · rename_i e
        have hc := decRun_cur e
        exact close h (ends_ok.mpr hc)
  · exact close h (ends_raiseIf fun _ => ends_raiseIf fun _ => ends_ok.mpr rfl)
  · exact close h (ends_raiseIf fun _ => ends_raiseIf fun _ => ends_ok.mpr rfl)
  · unfold exec execDecBuffer at h
    dsimp only at h
    rw [isSome_of_ready hr] at h
    split at h
    · cases ‹false = true›
    · split at h
      · exact close h ends_error
      · split at h
        · cases h
        · rename_i e
          have hc := decRun_cur e
          exact close h (ends_ok.mpr hc)

theorem endPush_showsEnc (r : Bool × State) : showsEnc (endPush r).2 := by
  obtain ⟨_ | _, s⟩ := r <;> rfl

theorem endBackend_showsEnc (r : Bool × State) : showsEnc (endBackend r).2 := by
  obtain ⟨_ | _, s⟩ := r <;> rfl

theorem endBase_showsEnc (r : Bool × State) : showsEnc (endBase r).2 := by
  obtain ⟨_ | _, s⟩ := r <;> rfl

theorem endEmit_showsEnc (s0 : State) (r : Bool × State) : showsEnc (endEmit s0 r).2 := by
  obtain ⟨_ | _, s⟩ := r <;> rfl

theorem encFinish_showsEnc (s : State) : Ends (fun r => showsEnc r.2) (encFinish s) := by
  unfold encFinish
  split
  · exact ends_error
  · exact ends_ok.mpr rfl
  · split
    · exact ends_error
    · exact ends_ok.mpr rfl
    · split
      · exact ends_error
      · exact ends_ok.mpr rfl
      · split
        · exact ends_ok.mpr rfl
        · exact ends_ok.mpr rfl

/-- Every encoder command but ENC_BUFFER ends by writing the context's cursors back. -/
theorem exec_encoder_showsEnc {i : Instr} {s t : State} (hi : EncoderCommand i) (hb : i ≠ .encBuffer) (hr : ready s)
    (h : exec i s = .next t) (hf : t.fault = none) : showsEnc t := by
  have close {b} (h : command s b = .next t) (hb : Ends (fun r => showsEnc r.2) b) : showsEnc t :=
    command_ran (Q := showsEnc) h hr hf (fun _ _ h => h) hb
  cases hi with
  | encInit => exact close h (ends_raiseOpt fun _ => ends_ok.mpr rfl)
  | encBase => exact close h (ends_raiseIf fun _ => ends_map fun r _ => endBase_showsEnc r)
  | encTranslate =>
    refine close h (ends_raiseIf fun _ => ends_raiseIf fun _ => ?_)
    split
    · exact ends_ok.mpr rfl
    · exact ends_ok.mpr rfl
  | pushLmd =>
    exact close h (ends_raiseIf fun _ => ends_raiseIf fun _ => ends_raiseIf fun _ => ends_raiseIf fun _ =>
      ends_map fun r _ => endPush_showsEnc r)
  | pushMatch => exact close h (ends_raiseIf fun _ => ends_map fun r _ => endPush_showsEnc r)
  | backendMatch => exact close h (ends_raiseIf fun _ => ends_map fun r _ => endBackend_showsEnc r)
  | backendLiterals =>
    refine close h (ends_raiseIf fun _ => ?_)
    split
    · exact ends_ok.mpr rfl
    · exact ends_map fun r _ => endBackend_showsEnc r
  | emitBlock => exact close h (ends_raiseIf fun _ => ends_map fun r _ => endEmit_showsEnc s r)
  | encFinish => exact close h (ends_raiseIf fun _ => encFinish_showsEnc s)
  | encBuffer => exact absurd rfl hb

/-- Settles O14: each of these commands ends by writing its context's cursors back. -/
theorem cursorsWrittenBack : Obligations.CursorsWrittenBack := by
  refine ⟨fun s t hr i hi h hf => exec_decoder_showsDec hr hi h hf, fun s t hr i hi h hf => ?_⟩
  have hc : EncoderCommand i ∧ i ≠ .encBuffer := by
    simp only [List.mem_cons, List.not_mem_nil, or_false] at hi
    rcases hi with rfl | rfl | rfl | rfl | rfl | rfl | rfl | rfl | rfl <;> exact ⟨by constructor, by simp⟩
  have hcur := exec_encoder_showsEnc hc.1 hc.2 hr h hf
  refine ⟨?_, fun v hv hlt => ?_, fun hlt => ?_⟩
  · rw [hcur]
    dsimp only [encCursors]
  · rw [hcur]
    exact encCursors_srcPos hv hlt
  · rw [hcur]
    exact encCursors_srcEnd hlt

/-! ## A command word (10_state.md R31, R36, 60_exceptions.md R291) -/

/-- While a fault is held every command but RESET does nothing. -/
theorem exec_held {i : Instr} {s : State} (hf : s.fault ≠ none) (hi : i ≠ .reset) : exec i s = .next s := by
  have hs := isSome_of_held hf
  cases i with
  | reset => exact absurd rfl hi
  | decStep =>
    unfold exec execDecStep
    dsimp only
    rw [if_pos (.inl hs)]
    exact command_held hf _
  | decBuffer =>
    unfold exec execDecBuffer
    dsimp only
    rw [if_pos hs]
  | outInit => simp only [exec, execOutInit, command_held hf]
  | checkFreq sel => simp only [exec, execCheckFreq, command_held hf]
  | freqDec => simp only [exec, execFreqDec, command_held hf]
  | hdrCheck => simp only [exec, execHdrCheck, command_held hf]
  | _ => exact command_held hf _

theorem plainForm_ne_reset {sel n : Nat} {i : Instr} (hi : i ≠ .reset) : plainForm sel n i ≠ .ok .reset := by
  unfold plainForm
  split <;> simp [hi]

theorem litForm_ne_reset {sel n : Nat} {i : Instr} (hi : i ≠ .reset) : litForm sel n i ≠ .ok .reset := by
  unfold litForm
  split <;> simp [hi]

theorem selForm_ne_reset {α : Type} {sel : Except Reject α} {n : Nat} {mk : α → Instr} (hmk : ∀ x, mk x ≠ .reset) :
    selForm sel n mk ≠ .ok .reset := by
  unfold selForm
  split
  · split <;> simp [hmk]
  · simp

theorem pushForm_ne_reset (sel n : Nat) : pushForm sel n ≠ .ok .reset := by
  unfold pushForm
  split <;> simp

theorem pullForm_ne_reset (sel n : Nat) : pullForm sel n ≠ .ok .reset := by
  unfold pullForm
  split
  · split <;> simp
  · simp

/-- Only a word with RESET's OPC decodes to RESET (30_encoding.md R93). -/
theorem opcOf_of_decode_reset {w : U32} (h : decode w = .ok .reset) : opcOf w = 0x01 := by
  unfold decode at h
  split at h
  · revert h
    generalize opcOf w = opc
    unfold decodeFields
    split
    · exact fun _ => rfl
    all_goals
      intro h
      simp [plainForm_ne_reset, litForm_ne_reset, selForm_ne_reset, pushForm_ne_reset, pullForm_ne_reset] at h
  · cases h

/-- A word that decodes runs as its command: one that a held fault lets the core ignore is a command that would do nothing. -/
theorem runWord_decoded {w : U32} {i : Instr} (h : decode w = .ok i) (s : State) : runWord w s = exec i s := by
  unfold runWord
  split
  · rename_i hign
    simp only [ignored, Bool.and_eq_true, decide_eq_true_eq] at hign
    obtain ⟨hf, hopc⟩ := hign
    refine (exec_held (fun hn => ?_) fun hi => hopc (opcOf_of_decode_reset (hi ▸ h))).symm
    simp [hn] at hf
  · rw [h]

theorem keepDuty_decoded {w : U32} {i : Instr} (h : decode w = .ok i) (s t : State) :
    keepDuty w s t = if overwritesProduced i s t then .refused (.hostDuty .producedBytes) else .next t := by
  unfold keepDuty
  rw [h]

/-- A command word whose command overwrites nothing that a decode has produced is just run (70_reset_and_hazards.md R317). -/
theorem issue_keeping {w : U32} {i : Instr} (h : decode w = .ok i) {s : State}
    (hk : ∀ t, exec i { s with cmd := w } = .next t → overwritesProduced i { s with cmd := w } t = false) :
    issue w s = exec i { s with cmd := w } := by
  unfold issue
  dsimp only
  rw [runWord_decoded h]
  cases e : exec i { s with cmd := w } with
  | next t =>
    dsimp only
    rw [keepDuty_decoded h, hk t e]
    rfl
  | fault f => rfl
  | refused r => rfl

theorem issue_breaking {w : U32} {i : Instr} (h : decode w = .ok i) {s t : State} (e : exec i { s with cmd := w } = .next t)
    (hk : overwritesProduced i { s with cmd := w } t = true) : issue w s = .refused (.hostDuty .producedBytes) := by
  unfold issue
  dsimp only
  rw [runWord_decoded h, e]
  dsimp only
  rw [keepDuty_decoded h, hk]
  rfl

/-- A step takes the host's next move. -/
theorem step_move {s : State} {m : HostMove} {r : List HostMove} (h : s.script = m :: r) :
    step s = hostMove m { s with script := r } := by
  unfold step
  rw [h]

theorem withFetchWord_toNat (s : State) (w : U32) : s.withFetchWord 32 w.toNat = { s with script := .cmd w :: s.script } := by
  unfold State.withFetchWord
  rw [Nat.mod_eq_of_lt w.isLt, BitVec.ofNat_toNat, BitVec.setWidth_eq]

/-! ## The registers (R31, R32) -/

/-- The registers that the host only reads (R31). -/
def readOnly : List PortReg := [.res0, .res1, .status, .fault, .faultInfo]

theorem writeReg_readOnly {p : PortReg} (h : p ∈ readOnly) (v : U64) (s : State) : writeReg p v s = s := by
  simp only [readOnly, List.mem_cons, List.not_mem_nil, or_false] at h
  rcases h with rfl | rfl | rfl | rfl | rfl <;> rfl

theorem readReg_writeReg_same {p : PortReg} (h : p ∉ readOnly) (v : U64) (s : State) : readReg p (writeReg p v s) = v := by
  cases p with
  | res0 => simp [readOnly] at h
  | res1 => simp [readOnly] at h
  | status => simp [readOnly] at h
  | fault => simp [readOnly] at h
  | faultInfo => simp [readOnly] at h
  | _ => rfl

/-- No two of the 15 registers share a place: a finite table, checked pair by pair. -/
theorem readReg_writeReg_other {p q : PortReg} (h : q ≠ p) (v : U64) (s : State) :
    readReg q (writeReg p v s) = readReg q s := by
  cases p <;> cases q <;> simp_all [readReg, writeReg]

/-- A register write reaches ARG0 to ARG3 and the cursor registers at most. -/
theorem writeReg_frame (p : PortReg) (v : U64) (s : State) :
    writeReg p v s = { s with
      arg0 := (writeReg p v s).arg0, arg1 := (writeReg p v s).arg1, arg2 := (writeReg p v s).arg2,
      arg3 := (writeReg p v s).arg3, cur := (writeReg p v s).cur } := by
  cases p <;> rfl

/-! ## Bytes the host places (20_memory.md R70, R83) -/

theorem placeSrc_beyond {s : State} {a : Nat} (b : U8) (h : s.srcSize.toNat ≤ a) : placeSrc a b s = .fault .noSuchSrcByte := by
  unfold placeSrc
  rw [if_pos h]

theorem placeSrc_guarded {s : State} {a : Nat} {b : U8} (ha : a < s.srcSize.toNat) (hg : srcGuarded s a)
    (hb : readByte s.src a ≠ b) : ∃ d, placeSrc a b s = .refused (.hostDuty d) := by
  cases hd : srcDuty a s with
  | none => exact absurd hg (srcDuty_eq_none_iff.mp hd)
  | some d =>
    refine ⟨d, ?_⟩
    unfold placeSrc
    rw [if_neg (by omega), if_neg hb, hd]

/-- Where no duty guards the byte, or it is there already, it stands there and no other byte changes. -/
theorem placeSrc_places {s : State} {a : Nat} {b : U8} (ha : a < s.srcSize.toNat)
    (h : ¬srcGuarded s a ∨ readByte s.src a = b) :
    ∃ t, placeSrc a b s = .next t ∧ t = { s with src := t.src } ∧ readByte t.src a = b ∧
      ∀ c, c ≠ a → readByte t.src c = readByte s.src c := by
  unfold placeSrc
  rw [if_neg (by omega)]
  by_cases hb : readByte s.src a = b
  · rw [if_pos hb]
    exact ⟨s, rfl, rfl, hb, fun _ _ => rfl⟩
  · rw [if_neg hb, srcDuty_eq_none_iff.mpr (h.resolve_right hb)]
    exact ⟨_, rfl, rfl, readByte_writeByte_same _ _ _, fun c hc => readByte_writeByte_other _ _ hc⟩

theorem placeDst_beyond {s : State} {a : Nat} (b : U8) (h : s.dstSize.toNat ≤ a) : placeDst a b s = .fault .noSuchDstByte := by
  unfold placeDst
  rw [if_pos h]

theorem placeDst_guarded {s : State} {a : Nat} {b : U8} (ha : a < s.dstSize.toNat) (hg : dstGuarded s a)
    (hb : readByte s.dst a ≠ b) : placeDst a b s = .refused (.hostDuty .producedBytes) := by
  have hd : dstDuty a s = some .producedBytes := by
    obtain ⟨hdec, hlo, hhi⟩ := hg
    unfold dstDuty
    rw [if_pos (by simp [hdec, hlo, hhi])]
  unfold placeDst
  rw [if_neg (by omega), if_neg hb, hd]

theorem placeDst_places {s : State} {a : Nat} {b : U8} (ha : a < s.dstSize.toNat)
    (h : ¬dstGuarded s a ∨ readByte s.dst a = b) :
    ∃ t, placeDst a b s = .next t ∧ t = { s with dst := t.dst } ∧ readByte t.dst a = b ∧
      ∀ c, c ≠ a → readByte t.dst c = readByte s.dst c := by
  unfold placeDst
  rw [if_neg (by omega)]
  by_cases hb : readByte s.dst a = b
  · rw [if_pos hb]
    exact ⟨s, rfl, rfl, hb, fun _ _ => rfl⟩
  · rw [if_neg hb, dstDuty_eq_none_iff.mpr (h.resolve_right hb)]
    exact ⟨_, rfl, rfl, readByte_writeByte_same _ _ _, fun c hc => readByte_writeByte_other _ _ hc⟩

/-- Settles O15, kind of move by kind of move. -/
theorem stepRunsDecoded : Obligations.StepRunsDecoded := by
  refine ⟨?_, ?_, ?_, ?_, ?_, ?_, ?_, ?_, ?_⟩
  · intro s w r i hs hw s'
    have hstep : step s = issue w { s with script := r } := step_move hs
    refine ⟨fun hd => ?_, fun hk => ?_, fun t e hk => ?_⟩
    · exact hstep.trans ((issue_of_not_decoding (s := { s with script := r }) hd).trans (runWord_decoded hw _))
    · rw [hstep]
      exact issue_keeping hw hk
    · rw [hstep]
      exact issue_breaking hw e hk
  · intro s w i hw hk
    rw [withFetchWord_toNat, step_move rfl]
    exact issue_keeping hw hk
  · intro s hs
    unfold step
    rw [hs]
  · exact fun s v r hs => step_move hs
  · intro s v r p hs hp
    rw [step_move hs]
    exact congrArg _ (writeReg_readOnly hp v _)
  · exact fun s v p hp => readReg_writeReg_same hp v s
  · intro s v r p hs
    have hstep : step s = .next (writeReg p v { s with script := r }) := step_move hs
    refine ⟨hstep, fun hp => ⟨_, hstep, writeReg_frame p v { s with script := r }, readReg_writeReg_same hp v _, ?_⟩⟩
    intro q hq
    rw [readReg_writeReg_other hq]
    cases q <;> rfl
  · intro s a b r hs
    have hstep : step s = placeSrc a.toNat b { s with script := r } := step_move hs
    rw [hstep]
    exact ⟨placeSrc_beyond (s := { s with script := r }) b, placeSrc_guarded (s := { s with script := r }),
      placeSrc_places (s := { s with script := r })⟩
  · intro s a b r hs
    have hstep : step s = placeDst a.toNat b { s with script := r } := step_move hs
    rw [hstep]
    exact ⟨placeDst_beyond (s := { s with script := r }) b, placeDst_guarded (s := { s with script := r }),
      placeDst_places (s := { s with script := r })⟩

/-! ## The cursor checks (10_state.md R32, 60_exceptions.md R283) -/

/-- A command whose cursor check finds a register beyond its bound faults BAD_CURSOR with its index. -/
theorem command_badCursor {s : State} (hr : ready s) {o : Option Trap} {k : Nat}
    (ho : o = some { cause := .badCursor, info := nat64 k }) (b : Except Trap (Status × State)) :
    command s (raiseOpt o b) = .next (faulted .badCursor k s) := by
  rw [ho, raiseOpt_some, command_error hr, takeFault_nat]

theorem cursorFault_of_src {s : State} {t : Trap} (h : srcCursorFault s = some t) : cursorFault s = some t := by
  unfold cursorFault
  rw [h]

theorem srcCursorFault_begin {s : State} (h : s.cur.srcPos.toNat < s.cur.srcBegin.toNat) :
    srcCursorFault s = some { cause := .badCursor, info := nat64 0 } := by
  unfold srcCursorFault orderFault
  rw [if_pos h]

theorem srcCursorFault_pos {s : State} (hb : s.cur.srcBegin.toNat ≤ s.cur.srcPos.toNat)
    (h : s.cur.srcEnd.toNat < s.cur.srcPos.toNat) : srcCursorFault s = some { cause := .badCursor, info := nat64 1 } := by
  unfold srcCursorFault orderFault
  rw [if_neg (by omega), if_pos h]

theorem srcCursorFault_end {s : State} (hb : s.cur.srcBegin.toNat ≤ s.cur.srcPos.toNat)
    (hp : s.cur.srcPos.toNat ≤ s.cur.srcEnd.toNat) (h : s.srcSize.toNat < s.cur.srcEnd.toNat) :
    srcCursorFault s = some { cause := .badCursor, info := nat64 2 } := by
  unfold srcCursorFault orderFault
  rw [if_neg (by omega), if_neg (by omega), if_pos h]

/-- The commands that check both trios. -/
theorem exec_badCursor {i : Instr} (hi : i ∈ [Instr.decInit, .decBuffer, .encInit, .storeRaw, .encBuffer]) {s : State}
    (hr : ready s) {k : Nat} (h : cursorFault s = some { cause := .badCursor, info := nat64 k }) :
    exec i s = .next (faulted .badCursor k s) := by
  simp only [List.mem_cons, List.not_mem_nil, or_false] at hi
  rcases hi with rfl | rfl | rfl | rfl | rfl
  · exact command_badCursor hr h _
  · unfold exec execDecBuffer
    dsimp only
    rw [isSome_of_ready hr, h]
    exact command_error hr _
  · exact command_badCursor hr h _
  · exact command_badCursor hr h _
  · exact command_badCursor hr h _

/-- Settles O20: each command raises what the check of the trio it uses finds. -/
theorem cursorChecks : Obligations.CursorChecks := by
  intro s hr
  refine ⟨fun i hi h0 hd => ?_, fun i hi hd => ?_, fun i hi hs => ?_, fun i hi => ⟨?_, ?_, ?_, ?_⟩⟩
  · obtain ⟨k, hk, e⟩ := dstCursorFault_some hd
    have hn : decide (s.out.nbits < 0) = false := by simpa using h0
    refine ⟨k, hk, ?_⟩
    simp only [List.mem_cons, List.not_mem_nil, or_false] at hi
    rcases hi with rfl | rfl
    · exact (congrArg (command s) (raiseIf_neg hn _ _ _)).trans (command_badCursor hr e _)
    · exact (congrArg (command s) (raiseIf_neg hn _ _ _)).trans (command_badCursor hr e _)
  · obtain ⟨k, hk, e⟩ := dstCursorFault_some hd
    refine ⟨k, hk, ?_⟩
    simp only [List.mem_cons, List.not_mem_nil, or_false] at hi
    rcases hi with rfl | rfl
    · exact command_badCursor hr e _
    · exact command_badCursor hr e _
  · obtain ⟨k, hk, e⟩ := srcCursorFault_some hs
    refine ⟨k, hk, ?_⟩
    simp only [List.mem_cons, List.not_mem_nil, or_false] at hi
    rcases hi with rfl | rfl | rfl
    · exact command_badCursor hr e _
    · exact command_badCursor hr e _
    · exact command_badCursor hr e _
  · exact fun h => exec_badCursor hi hr (cursorFault_of_src (srcCursorFault_begin h))
  · exact fun hb h => exec_badCursor hi hr (cursorFault_of_src (srcCursorFault_pos hb h))
  · exact fun hb hp h => exec_badCursor hi hr (cursorFault_of_src (srcCursorFault_end hb hp h))
  · intro hs hd
    obtain ⟨k, hk, e⟩ := cursorFault_dst hs hd
    exact ⟨k, hk, exec_badCursor hi hr e⟩

end Sys2Proof.Proofs

namespace Sys2Proof.Proofs

open Sys2Proof Sys2Proof.Machine Sys2Proof.Laws

/-! ## The canonical form of the arrays (20_memory.md R70, 10_state.md R41 to R45, R51, R56, R57) -/

section SparseForm

variable {α : Type}

theorem rising_iff_pairwise {m : Sparse α} : Machine.rising m ↔ Laws.rising m := List.pairwise_map

theorem rising_nil : Machine.rising ([] : Sparse α) := List.Pairwise.nil

theorem le_of_mem_sparseOfEntries {l : List (Option α)} {i : Nat} {c : Nat × α} (h : c ∈ sparseOfEntries i l) :
    i ≤ c.1 := by
  induction l generalizing i with
  | nil => cases h
  | cons o r ih =>
    cases o with
    | none => exact (Nat.le_succ i).trans (ih h)
    | some v =>
      rcases List.mem_cons.mp h with rfl | h
      · exact le_rfl
      · exact (Nat.le_succ i).trans (ih h)

/-- A table made of a list of entries lists them in order (R43 to R45). -/
theorem rising_sparseOfEntries (i : Nat) (l : List (Option α)) : Machine.rising (sparseOfEntries i l) := by
  rw [rising_iff_pairwise]
  induction l generalizing i with
  | nil => exact List.Pairwise.nil
  | cons o r ih =>
    cases o with
    | none => exact ih (i + 1)
    | some v => exact List.pairwise_cons.mpr ⟨fun c hc => le_of_mem_sparseOfEntries hc, ih (i + 1)⟩

variable [DecidableEq α]

/-- A sparse array is an array with no unspecified entry. -/
theorem sparseWf_eq_arrWf (d : α) (m : Sparse α) : sparseWf d m = arrWf d { cells := m, spans := [] } := by
  induction m with
  | nil => rfl
  | cons c r ih =>
    cases r with
    | nil => simp [sparseWf, arrWf, cellsWf, spanAt]
    | cons c' r' =>
      simp only [arrWf] at ih
      simp [sparseWf, arrWf, cellsWf, spanAt, ih]

theorem sparseWf_iff (d : α) (m : Sparse α) : sparseWf d m = true ↔ Laws.rising m ∧ ∀ c ∈ m, c.2 ≠ d := by
  rw [sparseWf_eq_arrWf, arrWf_iff]
  simp [spanAt]

theorem sparseWf_nil (d : α) : sparseWf d ([] : Sparse α) = true := rfl

theorem sparseSet_eq_arrSet (d : α) (m : Sparse α) (i : Nat) (v : α) :
    arrSet d { cells := m, spans := [] } i v = { cells := sparseSet d m i v, spans := [] } := by
  by_cases hv : v = d <;> simp [arrSet, sparseSet, spanAt, hv]

theorem sparseSet_wf {d : α} {m : Sparse α} (i : Nat) (v : α) (h : sparseWf d m = true) :
    sparseWf d (sparseSet d m i v) = true := by
  rw [sparseWf_eq_arrWf] at h ⊢
  rw [← sparseSet_eq_arrSet]
  exact arrSet_wf d _ i v h

theorem of_mem_sparseFrom {d : α} {l : List α} {i : Nat} {c : Nat × α} (h : c ∈ sparseFrom d i l) :
    i ≤ c.1 ∧ c.2 ≠ d := by
  induction l generalizing i with
  | nil => cases h
  | cons v r ih =>
    have next (h : c ∈ sparseFrom d (i + 1) r) : i ≤ c.1 ∧ c.2 ≠ d := ⟨(Nat.le_succ i).trans (ih h).1, (ih h).2⟩
    rw [sparseFrom] at h
    split at h
    · exact next h
    · rename_i hv
      rcases List.mem_cons.mp h with rfl | h
      · exact ⟨le_rfl, hv⟩
      · exact next h

theorem sparseFrom_wf (d : α) (i : Nat) (l : List α) : sparseWf d (sparseFrom d i l) = true := by
  refine (sparseWf_iff d _).mpr ⟨?_, fun c hc => (of_mem_sparseFrom hc).2⟩
  induction l generalizing i with
  | nil => exact List.Pairwise.nil
  | cons v r ih =>
    rw [sparseFrom]
    split
    · exact ih (i + 1)
    · exact List.pairwise_cons.mpr ⟨fun c hc => (of_mem_sparseFrom hc).1, ih (i + 1)⟩

end SparseForm

/-- ENC_TRANSLATE moves every bucket and leaves out those that become empty (45_encoder_frontend.md R242). -/
theorem shiftHistory_eq (delta : Nat) (m : Sparse Bucket) :
    shiftHistory delta m = (m.map fun c => (c.1, shiftBucket delta c.2)).filter fun c => c.2 ≠ emptyBucket := by
  induction m with
  | nil => rfl
  | cons c r ih =>
    simp only [shiftHistory, List.map_cons, List.filter_cons, ih]
    by_cases hb : shiftBucket delta c.2 = emptyBucket <;> simp [hb]

theorem shiftHistory_wf {m : Sparse Bucket} (delta : Nat) (h : sparseWf emptyBucket m = true) :
    sparseWf emptyBucket (shiftHistory delta m) = true := by
  obtain ⟨hr, -⟩ := (sparseWf_iff _ _).mp h
  have hm : Laws.rising (m.map fun c => (c.1, shiftBucket delta c.2)) := List.pairwise_map.mpr hr
  rw [shiftHistory_eq]
  exact (sparseWf_iff _ _).mpr ⟨rising_filter hm _, fun c hc => of_decide_eq_true (List.mem_filter.mp hc).2⟩

theorem freqOfList_wf (f : List Nat) : sparseWf 0 (freqOfList f) = true := sparseFrom_wf _ _ _

theorem occOfList_wf (f : List Nat) : sparseWf 0 (occOfList f) = true := sparseFrom_wf _ _ _

theorem encTable_rising (n : Nat) (f : List Nat) : Machine.rising (encTable n f) := rising_sparseOfEntries _ _

/-- A decoder table is rising, and so is the empty one that stands for a failure (41_fse_tables.md R157, R159). -/
theorem rising_map_tableOf {α : Type} (o : Option (List α)) : Machine.rising ((o.map tableOf).getD []) := by
  cases o with
  | none => exact rising_nil
  | some l => exact rising_sparseOfEntries _ _

theorem decTable_rising (f : List Nat) : Machine.rising ((decTable f).getD []) := rising_map_tableOf _

theorem vdecTable_rising (sel : VSel) (f : List Nat) : Machine.rising ((vdecTable sel f).getD []) := rising_map_tableOf _

/-! ## The four streams (10_state.md R40, R45) -/

section Streams

variable {α : Type} {P : α → Prop}

theorem forall_quad {q : Quad α} (hl : P q.l) (hm : P q.m) (hd : P q.d) (hlit : P q.lit) : ∀ sel, P (q.get sel)
  | .l => hl
  | .m => hm
  | .d => hd
  | .lit => hlit

theorem forall_triple {q : Triple α} (hl : P q.l) (hm : P q.m) (hd : P q.d) : ∀ sel, P (q.get sel)
  | .l => hl
  | .m => hm
  | .d => hd

theorem quad_get_put (q : Quad α) (a b : Sel) (x : α) : (q.put a x).get b = if b = a then x else q.get b := by
  cases a <;> cases b <;> rfl

theorem triple_get_put (q : Triple α) (a b : VSel) (x : α) : (q.put a x).get b = if b = a then x else q.get b := by
  cases a <;> cases b <;> rfl

theorem forall_quad_put {q : Quad α} (h : ∀ sel, P (q.get sel)) {x : α} (hx : P x) (a : Sel) :
    ∀ sel, P ((q.put a x).get sel) := fun b => by
  rw [quad_get_put]
  split
  · exact hx
  · exact h b

theorem forall_triple_put {q : Triple α} (h : ∀ sel, P (q.get sel)) {x : α} (hx : P x) (a : VSel) :
    ∀ sel, P ((q.put a x).get sel) := fun b => by
  rw [triple_get_put]
  split
  · exact hx
  · exact h b

end Streams

theorem quadOfFreqs_wf (f : List Nat) : ∀ sel, sparseWf 0 ((quadOfFreqs f).get sel) = true :=
  forall_quad (P := fun m => sparseWf 0 m = true) (freqOfList_wf _) (freqOfList_wf _) (freqOfList_wf _) (freqOfList_wf _)

/-! ## The canonical form, array by array -/

/-- The encoder context's part of `canonical`. -/
structure EncCanonical (c : EncCtx) : Prop where
  lits : arrWf 0 c.lits = true
  lValues : arrWf 0 c.lValues = true
  mValues : arrWf 0 c.mValues = true
  dValues : arrWf 0 c.dValues = true
  hist : sparseWf emptyBucket c.hist = true

/-- `canonical` with a name for each of its parts. -/
structure Canonical (s : State) : Prop where
  src : s.src.wf = true
  dst : s.dst.wf = true
  decLits : arrWf 0 s.dec.lits = true
  enc : EncCanonical s.enc
  occ : ∀ sel, sparseWf 0 (s.occ.get sel) = true
  freq : ∀ sel, sparseWf 0 (s.freq.get sel) = true
  encTab : ∀ sel, Machine.rising (s.encTab.get sel)
  decTab : Machine.rising s.decTab
  vdecTab : ∀ sel, Machine.rising (s.vdecTab.get sel)

theorem canonical_iff {s : State} : canonical s ↔ Canonical s := by
  constructor
  · rintro ⟨hsrc, hdst, hdl, hel, hv, hh, ht, hd, hvd⟩
    exact ⟨hsrc, hdst, hdl, ⟨hel, hv .l, hv .m, hv .d, hh⟩, fun sel => (ht sel).1, fun sel => (ht sel).2.1,
      fun sel => (ht sel).2.2, hd, hvd⟩
  · intro h
    have hv : ∀ sel, arrWf 0 (s.values sel) = true
      | .l => h.enc.lValues
      | .m => h.enc.mValues
      | .d => h.enc.dValues
    exact ⟨h.src, h.dst, h.decLits, h.enc.lits, hv, h.enc.hist, fun sel => ⟨h.occ sel, h.freq sel, h.encTab sel⟩,
      h.decTab, h.vdecTab⟩

/-- SRC and every array but DST. -/
def arraysKey (s : State) :=
  (s.src, s.dec.lits, (s.enc.lits, s.enc.lValues, s.enc.mValues, s.enc.dValues, s.enc.hist), s.occ, s.freq, s.encTab,
    s.decTab, s.vdecTab)

theorem Canonical.of_key {s t : State} (h : Canonical s) (hk : arraysKey t = arraysKey s) (hd : t.dst.wf = true) :
    Canonical t := by
  simp only [arraysKey, Prod.mk.injEq] at hk
  obtain ⟨hs, hl, ⟨he, hvl, hvm, hvd, hh⟩, ho, hf, het, hdt, hvt⟩ := hk
  exact {
    src := hs ▸ h.src
    dst := hd
    decLits := hl ▸ h.decLits
    enc := ⟨he ▸ h.enc.lits, hvl ▸ h.enc.lValues, hvm ▸ h.enc.mValues, hvd ▸ h.enc.dValues, hh ▸ h.enc.hist⟩
    occ := ho ▸ h.occ
    freq := hf ▸ h.freq
    encTab := het ▸ h.encTab
    decTab := hdt ▸ h.decTab
    vdecTab := hvt ▸ h.vdecTab }

/-! ## Stores in a region (20_memory.md R71, R79) -/

/-- A position and an end in DST, of the cursor registers or of a context: storing bytes moves neither. -/
structure Region where
  pos : State → U64
  stop : State → U64
  pos_dst : ∀ (s : State) (m : Memory) (n : Nat), pos { s with dst := m, freeTag := n } = pos s
  stop_dst : ∀ (s : State) (m : Memory) (n : Nat), stop { s with dst := m, freeTag := n } = stop s

/-- The region of the DST cursor registers (10_state.md R32). -/
def curRegion : Region := ⟨fun s => s.cur.dstPos, fun s => s.cur.dstEnd, fun _ _ _ => rfl, fun _ _ _ => rfl⟩

/-- The region of the decoder context (R50). -/
def decRegion : Region := ⟨fun s => s.dec.cur.dstPos, fun s => s.dec.cur.dstEnd, fun _ _ _ => rfl, fun _ _ _ => rfl⟩

/-- The region of the encoder context (R53). -/
def encRegion : Region := ⟨fun s => s.enc.dstPos, fun s => s.enc.dstEnd, fun _ _ _ => rfl, fun _ _ _ => rfl⟩

/-- From `s` to `t` DST and the region stand still, and the arrays stay canonical. A preorder. -/
structure Builds (r : Region) (s t : State) : Prop where
  canon : Canonical s → Canonical t
  dst : t.dst = s.dst
  pos : r.pos t = r.pos s
  stop : r.stop t = r.stop s

/-- From `s` to `t` DST changes inside the region alone, whose position does not fall, and the arrays stay canonical.
A preorder, so that a run stores in the region it began with. -/
structure Stores (r : Region) (s t : State) : Prop where
  canon : Canonical s → Canonical t
  stop : r.stop t = r.stop s
  pos : (r.pos s).toNat ≤ (r.pos t).toNat
  outside : sameOutside (r.pos s).toNat (r.stop s).toNat s.dst t.dst

theorem sameOutside_refl (lo hi : Nat) (m : Memory) : sameOutside lo hi m m := fun _ _ => rfl

section Preorders

variable {r : Region} {s t u : State}

theorem Builds.refl (s : State) : Builds r s s := ⟨id, rfl, rfl, rfl⟩

theorem Builds.trans (h : Builds r s t) (k : Builds r t u) : Builds r s u :=
  ⟨fun x => k.canon (h.canon x), k.dst.trans h.dst, k.pos.trans h.pos, k.stop.trans h.stop⟩

theorem Builds.of_key (hk : arraysKey t = arraysKey s) (hd : t.dst = s.dst) (hp : r.pos t = r.pos s)
    (he : r.stop t = r.stop s) : Builds r s t :=
  ⟨fun h => h.of_key hk (hd ▸ h.dst), hd, hp, he⟩

theorem Builds.stores (h : Builds r s t) : Stores r s t :=
  ⟨h.canon, h.stop, by rw [h.pos], h.dst ▸ sameOutside_refl _ _ _⟩

theorem Stores.refl (s : State) : Stores r s s := (Builds.refl s).stores

theorem Stores.trans (h : Stores r s t) (k : Stores r t u) : Stores r s u where
  canon x := k.canon (h.canon x)
  stop := k.stop.trans h.stop
  pos := h.pos.trans k.pos
  outside a ha := by
    have hp := h.pos
    have ht : ¬((r.pos t).toNat ≤ a ∧ a < (r.stop t).toNat) := by
      rw [h.stop]
      omega
    exact (k.outside a ht).trans (h.outside a ha)

theorem Stores.of_key (hk : arraysKey t = arraysKey s) (hd : t.dst = s.dst) (hp : r.pos t = r.pos s)
    (he : r.stop t = r.stop s) : Stores r s t :=
  (Builds.of_key hk hd hp he).stores

/-- Bytes that fit are stored at the position, which passes them. -/
theorem Stores.of_writeBytes (l : List U8) (hfit : l.length ≤ (r.stop s).toNat - (r.pos s).toNat)
    (hd : t.dst = writeBytes s.dst (r.pos s).toNat l) (hp : r.pos t = nat64 ((r.pos s).toNat + l.length))
    (he : r.stop t = r.stop s) (hk : arraysKey t = arraysKey s) : Stores r s t where
  canon h := h.of_key hk (hd ▸ writeBytes_wf _ _ _ h.dst)
  stop := he
  pos := by
    have hpos := (r.pos s).isLt
    have hstop := (r.stop s).isLt
    simp only [hp, nat64, BitVec.toNat_ofNat]
    omega
  outside a ha := by
    rw [hd]
    exact readByte_writeBytes_outside _ _ _ _ (by omega)

/-- Releasing the rest of the region (R79, log entry 4). -/
theorem stores_releaseDst (r : Region) (s : State) : Stores r s (releaseDst (r.pos s).toNat (r.stop s).toNat s) where
  canon h := h.of_key (by rw [releaseDst_eq]; rfl) (releaseDst_wf _ _ _ h.dst)
  stop := by
    rw [releaseDst_eq]
    exact r.stop_dst s _ _
  pos := by
    rw [releaseDst_eq]
    exact (congrArg BitVec.toNat (r.pos_dst s _ _)).ge
  outside a ha := releaseDst_outside _ _ _ _ ha

end Preorders

/-! ## The decoder engine stores in its region (44_decoder_engine.md R205 to R214) -/

theorem literalStep_builds {i x n : Nat} {s t : State} (h : literalStep i x s = some (n, t)) : Builds decRegion s t := by
  unfold literalStep at h
  split at h
  · cases h
  · cases h
    exact ⟨fun h => { h with decLits := arrSet_wf _ _ _ _ h.decLits }, rfl, rfl, rfl⟩

theorem literalGroup_builds (g : Nat) (x : LitStates) (s : State) : Builds decRegion s (literalGroup g x s).2.2 := by
  unfold literalGroup
  split
  · exact .refl s
  · rename_i st _
    have bF : Builds decRegion s { s with in0 := st } := .of_key rfl rfl rfl rfl
    dsimp only
    split
    · exact bF
    · rename_i hA
      have bA := bF.trans (literalStep_builds hA)
      split
      · exact bA
      · rename_i hB
        have bB := bA.trans (literalStep_builds hB)
        split
        · exact bB
        · rename_i hC
          have bC := bB.trans (literalStep_builds hC)
          split
          · exact bC
          · rename_i hD
            exact bC.trans (literalStep_builds hD)

theorem literalGroups_builds (count g : Nat) (x : LitStates) (s : State) :
    Builds decRegion s (literalGroups count g x s).2 := by
  induction count generalizing g x s with
  | zero => exact .refl s
  | succ n ih =>
    have bg := literalGroup_builds g x s
    rw [literalGroups]
    split
    · rename_i e; rw [e] at bg; exact bg
    · rename_i e; rw [e] at bg; exact bg.trans (ih _ _ _)

theorem decodeLiterals_builds (q : Nat) (s : State) : Builds decRegion s (decodeLiterals q s).2 := by
  unfold decodeLiterals
  dsimp only
  split
  · exact .of_key rfl rfl rfl rfl
  · rename_i x _
    have bx : Builds decRegion s { s with in0 := x } := .of_key rfl rfl rfl rfl
    have bg := literalGroups_builds (s.hdr.nLiterals.toNat / 4) 0
      { s0 := s.hdr.literalState0.toNat, s1 := s.hdr.literalState1.toNat, s2 := s.hdr.literalState2.toNat,
        s3 := s.hdr.literalState3.toNat } { s with in0 := x }
    split
    · rename_i e; rw [e] at bg; exact bx.trans bg
    · rename_i e; rw [e] at bg; exact bx.trans (bg.trans (.of_key rfl rfl rfl rfl))

theorem openLmd_builds (block : Block) (q : Nat) (s : State) : Builds decRegion s (blockState (openLmd block q s)) := by
  unfold openLmd initLmd
  cases inInit s.src s.in1 s.hdr.lmdBits.toInt (q + s.hdr.nLmdPayloadBytes.toNat) q with
  | mk ok x =>
    cases ok with
    | false => exact .of_key rfl rfl rfl rfl
    | true => exact .of_key rfl rfl rfl rfl

theorem Canonical.loadHeader {s : State} (h : Canonical s) (d : Hdr) (f : List Nat) (n : Nat) :
    Canonical (loadHeader d f n s) :=
  { h with freq := quadOfFreqs_wf f }

theorem Canonical.buildBlockTables {s : State} (h : Canonical s) : Canonical (buildBlockTables s) :=
  { h with
    decTab := decTable_rising _
    vdecTab := forall_triple (vdecTable_rising _ _) (vdecTable_rising _ _) (vdecTable_rising _ _) }

theorem openWith_builds (block : Block) (p : Nat) (h : Hdr) (f : List Nat) (hs : Nat) (s : State) :
    Builds decRegion s (blockState (openWith block p h f hs s)) := by
  unfold openWith
  split
  · exact .refl s
  · dsimp only
    split
    · exact ⟨fun c => c.loadHeader _ _ _, rfl, rfl, rfl⟩
    · have bH : Builds decRegion s (buildBlockTables (loadHeader h f hs s)) :=
        ⟨fun c => (c.loadHeader _ _ _).buildBlockTables, rfl, rfl, rfl⟩
      have bd := bH.trans (decodeLiterals_builds (p + hs) _)
      split
      · rename_i e; rw [e] at bd; exact bd
      · rename_i e; rw [e] at bd; exact bd.trans (openLmd_builds _ _ _)

theorem betweenBlocks_builds (s : State) : Builds decRegion s (blockState (betweenBlocks s)) := by
  unfold betweenBlocks
  dsimp only
  split
  · exact .refl s
  · split
    · exact .of_key rfl rfl rfl rfl
    · split
      · split
        · exact .refl s
        · exact .of_key rfl rfl rfl rfl
      · split
        · split
          · exact .refl s
          · exact .of_key rfl rfl rfl rfl
        · split
          · unfold openV1
            dsimp only
            split
            · exact .refl s
            · exact openWith_builds _ _ _ _ _ _
          · split
            · unfold openV2
              dsimp only
              split
              · exact .refl s
              · exact .refl s
              · exact openWith_builds _ _ _ _ _ _
            · exact .refl s

theorem rawBlock_stores (s : State) : Stores decRegion s (blockState (rawBlock s)) := by
  unfold rawBlock
  dsimp only
  split
  · exact .of_key rfl rfl rfl rfl
  · split
    · exact .refl s
    · split
      · exact .refl s
      · generalize hn : min (min s.dec.rawRemaining.toNat _) _ = n
        have hfit : n ≤ s.dec.cur.dstEnd.toNat - s.dec.cur.dstPos.toNat := hn ▸ min_le_right _ _
        refine .of_writeBytes (readBytes s.src s.dec.cur.srcPos.toNat n) ?_ rfl ?_ rfl rfl
        · rw [readBytes_length]
          exact hfit
        · rw [readBytes_length]
          rfl

theorem secondaryApply_stores {r : SecondaryResult} {out : List U8} {s : State}
    (h : out.length ≤ s.dec.cur.dstEnd.toNat - s.dec.cur.dstPos.toNat) : Stores decRegion s (secondaryApply r out s) :=
  .of_writeBytes out h rfl rfl rfl rfl

theorem secondaryBlock_stores (s : State) : Stores decRegion s (blockState (secondaryBlock s)) := by
  unfold secondaryBlock
  split
  · exact .refl s
  · generalize Config.secondaryDecode (secondaryCall s) = r
    unfold secondaryAnswer
    split
    · exact .refl s
    · have hlim : (secondaryCall s).dstLim ≤ s.dec.cur.dstEnd.toNat := min_le_left _ _
      have k := secondaryApply_stores (r := r) (s := s)
        (out := r.produced.take ((secondaryCall s).dstLim - s.dec.cur.dstPos.toNat)) (by rw [List.length_take]; omega)
      dsimp only
      split
      · exact k.trans (.of_key rfl rfl rfl rfl)
      · split
        · exact k
        · exact k

theorem putDstByte_stores (b : U8) {s : State} (h : 0 < dstRoom s) : Stores decRegion s (putDstByte b s) :=
  .of_writeBytes [b] h rfl rfl rfl rfl

theorem copyLiterals_stores (n : Nat) (s : State) (h : n ≤ dstRoom s) : Stores decRegion s (copyLiterals n s) := by
  induction n generalizing s with
  | zero => exact .refl s
  | succ n ih =>
    rw [copyLiterals]
    have hr := dstRoom_putDstByte (litAt s.dec.lits s.dec.litPos.toNat) (s := s) (by omega)
    have kp := putDstByte_stores (litAt s.dec.lits s.dec.litPos.toNat) (s := s) (by omega)
    generalize putDstByte (litAt s.dec.lits s.dec.litPos.toNat) s = u at hr kp ⊢
    have hn : n ≤ dstRoom u := by omega
    exact kp.trans (.trans (.of_key (by rfl) (by rfl) (by rfl) (by rfl)) (ih _ hn))

theorem copyMatch_stores (d n : Nat) (s : State) (h : n ≤ dstRoom s) : Stores decRegion s (copyMatch d n s) := by
  induction n generalizing s with
  | zero => exact .refl s
  | succ n ih =>
    rw [copyMatch]
    have hr := dstRoom_putDstByte (readByte s.dst (s.dec.cur.dstPos.toNat - d)) (s := s) (by omega)
    exact (putDstByte_stores _ (by omega)).trans (ih _ (by omega))

theorem runTriplet_stores (l m : Nat) (d : Int) (s : State) : Stores decRegion s (lmdState (runTriplet l m d s)) := by
  have k : Stores decRegion s (copyTriplet l m d s).2 := by
    have kl := copyLiterals_stores (min l (dstRoom s)) s (min_le_right _ _)
    have km := kl.trans
      (copyMatch_stores d.toNat (min m (dstRoom (copyLiterals (min l (dstRoom s)) s))) _ (min_le_right _ _))
    unfold copyTriplet
    dsimp only
    split
    · exact kl.trans (.of_key rfl rfl rfl rfl)
    · split
      · exact km.trans (.of_key rfl rfl rfl rfl)
      · exact km.trans (.of_key rfl rfl rfl rfl)
  unfold runTriplet
  split
  · exact .refl s
  · split
    · rename_i e; rw [e] at k; exact k
    · rename_i e; rw [e] at k; exact k

/-- The pieces that pulling a triplet leaves alone, beside those of `lmdKey`. -/
def pullKey (s : State) := (arraysKey s, s.dst, s.dec.cur)

theorem pullValue_pullKey {sel : VSel} {x y : U16} {s t : State} {v : Int} (h : pullValue sel x s = some (v, y, t)) :
    pullKey t = pullKey s := by
  unfold pullValue at h
  split at h
  · cases h
  · cases h
    rfl

theorem pullTriplet_pullKey (s : State) : pullKey (pulledState (pullTriplet s)) = pullKey s := by
  unfold pullTriplet
  split
  · rfl
  · dsimp only
    split
    · rfl
    · rename_i hl
      have el := pullValue_pullKey hl
      split
      · exact Eq.trans rfl el
      · split
        · exact Eq.trans rfl el
        · rename_i hm
          have em := (pullValue_pullKey hm).trans (Eq.trans rfl el)
          split
          · exact Eq.trans rfl em
          · rename_i hd
            exact Eq.trans rfl ((pullValue_pullKey hd).trans (Eq.trans rfl em))

theorem pullTriplet_builds (s : State) : Builds decRegion s (pulledState (pullTriplet s)) := by
  have hk := pullTriplet_pullKey s
  simp only [pullKey, Prod.mk.injEq] at hk
  obtain ⟨ha, hd, hc⟩ := hk
  exact .of_key ha hd (congrArg Cursors.dstPos hc) (congrArg Cursors.dstEnd hc)

theorem lmdTriplets_stores (n : Nat) (s : State) : Stores decRegion s (lmdState (lmdTriplets n s)) := by
  induction n generalizing s with
  | zero => exact .refl s
  | succ n ih =>
    have kp := (pullTriplet_builds s).stores
    rw [lmdTriplets]
    split
    · rename_i e; rw [e] at kp; exact kp
    · rename_i l m d s' e
      rw [e] at kp
      have kr := kp.trans (runTriplet_stores l m d s')
      split
      · rename_i e'; rw [e'] at kr; exact kr.trans (ih _)
      · rename_i e'; rw [e'] at kr; exact kr
      · rename_i e'; rw [e'] at kr; exact kr

theorem lmdLoop_stores (s : State) : Stores decRegion s (lmdState (lmdLoop s)) := by
  unfold lmdLoop
  split
  · exact lmdTriplets_stores _ _
  · have kr := runTriplet_stores s.dec.pendL.toNat s.dec.pendM.toNat s.dec.curD.toInt s
    split
    · rename_i e; rw [e] at kr; exact kr.trans (lmdTriplets_stores _ _)
    · rename_i e; rw [e] at kr; exact kr
    · rename_i e; rw [e] at kr; exact kr

theorem compressedBlock_stores (s : State) : Stores decRegion s (blockState (compressedBlock s)) := by
  have kl := lmdLoop_stores s
  unfold compressedBlock
  dsimp only
  split
  · exact .refl s
  · split
    · rename_i e; rw [e] at kl; exact kl
    · rename_i e; rw [e] at kl; exact kl
    · rename_i e; rw [e] at kl; exact kl.trans (.of_key rfl rfl rfl rfl)

theorem blockStep_stores (s : State) : Stores decRegion s (blockState (blockStep s)) := by
  unfold blockStep
  split
  · exact (betweenBlocks_builds s).stores
  · exact rawBlock_stores s
  · exact compressedBlock_stores s
  · exact compressedBlock_stores s
  · exact secondaryBlock_stores s

theorem blockLoop_stores (fuel : Nat) (s : State) {st : Status} {t : State} (h : blockLoop fuel s = some (st, t)) :
    Stores decRegion s t := by
  induction fuel generalizing s with
  | zero => cases h
  | succ n ih =>
    have kb := blockStep_stores s
    rw [blockLoop] at h
    split at h
    · rename_i e
      rw [e] at kb
      cases h
      exact kb
    · rename_i e
      rw [e] at kb
      exact kb.trans (ih _ h)

theorem poisonDecOnError_builds (st : Status) (s : State) : Builds decRegion s (poisonDecOnError st s) := by
  cases st <;> exact .of_key rfl rfl rfl rfl

theorem releaseDecLits_builds (s : State) : Builds decRegion s (releaseDecLits s) :=
  ⟨fun h => { h with decLits := arrRelease_wf _ _ _ _ _ h.decLits }, rfl, rfl, rfl⟩

/-- The body of DEC_STEP stores in the decoder's region (R201). -/
theorem decRun_stores {s t : State} {st : Status} (h : decRun s = some (st, t)) : Stores decRegion s t := by
  unfold decRun at h
  split at h
  · cases h
    exact .of_key rfl rfl rfl rfl
  · split at h
    · cases h
    · rename_i e
      cases h
      have kp := (blockLoop_stores _ _ e).trans (poisonDecOnError_builds st _).stores
      have kr := (kp.trans (stores_releaseDst decRegion _)).trans (releaseDecLits_builds _).stores
      exact kr.trans (.of_key rfl rfl rfl rfl)

/-! ## The encoder's bodies store in its region (46_encoder_backend.md) -/

theorem appendTriplet_builds (l m d : Nat) (b : List U8) (s : State) : Builds encRegion s (appendTriplet l m d b s) :=
  ⟨fun h => { h with
    enc := ⟨arrSetAll_wf _ _ _ _ h.enc.lits, arrSet_wf _ _ _ _ h.enc.lValues, arrSet_wf _ _ _ _ h.enc.mValues,
      arrSet_wf _ _ _ _ h.enc.dValues, h.enc.hist⟩ }, rfl, rfl, rfl⟩

theorem pushLmd_builds {l m d : Nat} {s t : State} {b : Bool} (h : pushLmd l m d s = .ok (b, t)) :
    Builds encRegion s t := by
  unfold pushLmd at h
  split at h
  · cases h; exact .refl s
  · split at h
    · cases h
    · cases h; exact appendTriplet_builds _ _ _ _ s

theorem pushRuns_builds {q : Nat} {s t : State} {b : Bool} (h : pushRuns q s = .ok (b, t)) : Builds encRegion s t := by
  induction q generalizing s with
  | zero => cases h; exact .refl _
  | succ q ih =>
    rw [pushRuns] at h
    split at h
    · cases h
    · rename_i e; cases h; exact pushLmd_builds e
    · rename_i e; exact (pushLmd_builds e).trans (ih h)

theorem pushPieces_builds {d m q l : Nat} {s t : State} {b : Bool} (h : pushPieces d m q l s = .ok (b, t)) :
    Builds encRegion s t := by
  induction q generalizing l s with
  | zero =>
    rw [pushPieces] at h
    split at h
    · exact pushLmd_builds h
    · cases h; exact .refl _
  | succ q ih =>
    rw [pushPieces] at h
    split at h
    · cases h
    · rename_i e; cases h; exact pushLmd_builds e
    · rename_i e; exact (pushLmd_builds e).trans (ih h)

theorem pushSplit_builds {l m d : Nat} {s t : State} {b : Bool} (h : pushSplit l m d s = .ok (b, t)) :
    Builds encRegion s t := by
  unfold pushSplit at h
  dsimp only at h
  split at h
  · cases h
  · rename_i e; cases h; exact pushRuns_builds e
  · rename_i e; exact (pushRuns_builds e).trans (pushPieces_builds h)

theorem EncCanonical.release {c : EncCtx} (h : EncCanonical c) (nm nl tag : Nat) :
    EncCanonical { c with
      lValues := arrRelease c.lValues nm matchesPerBlock tag
      mValues := arrRelease c.mValues nm matchesPerBlock (tag + 1)
      dValues := arrRelease c.dValues nm matchesPerBlock (tag + 2)
      lits := arrRelease c.lits nl literalsPerBlock (tag + 3) } :=
  ⟨arrRelease_wf _ _ _ _ _ h.lits, arrRelease_wf _ _ _ _ _ h.lValues, arrRelease_wf _ _ _ _ _ h.mValues,
    arrRelease_wf _ _ _ _ _ h.dValues, h.hist⟩

theorem releaseEncArrays_builds (nm nl : Nat) (s : State) : Builds encRegion s (releaseEncArrays nm nl s) :=
  ⟨fun h => { h with enc := h.enc.release nm nl s.freeTag }, rfl, rfl, rfl⟩

theorem releaseEncLits_builds (nl : Nat) (s : State) : Builds encRegion s (releaseEncLits nl s) :=
  ⟨fun h => { h with enc := { h.enc with lits := arrRelease_wf _ _ _ _ _ h.enc.lits } }, rfl, rfl, rfl⟩

theorem undoPush_builds (s s' : State) : Builds encRegion s' (undoPush s s') :=
  .trans (.of_key (by rfl) (by rfl) (by rfl) (by rfl)) (releaseEncArrays_builds s.enc.nMatches.toNat s.enc.nLits.toNat _)

theorem pushMatch_builds {pos ref : Int} {n : Nat} {s t : State} {b : Bool} (h : pushMatch pos ref n s = .ok (b, t)) :
    Builds encRegion s t := by
  unfold pushMatch at h
  replace h := (raiseIf_ok (raiseIf_ok (raiseIf_ok h).2).2).2
  split at h
  · cases h
  · rename_i e; cases h; exact pushSplit_builds e
  · rename_i e; cases h; exact (pushSplit_builds e).trans (undoPush_builds _ _)

/-! ## EMIT_BLOCK (R258 to R266) -/

theorem padLiterals_builds (s : State) : Builds encRegion s (padLiterals s) :=
  ⟨fun h => { h with enc := { h.enc with lits := arrSetAll_wf _ _ _ _ h.enc.lits } }, rfl, rfl, rfl⟩

theorem substituteDistances_builds (s : State) : Builds encRegion s (substituteDistances s) :=
  ⟨fun h => { h with enc := { h.enc with dValues := arrSetAll_wf _ _ _ _ h.enc.dValues } }, rfl, rfl, rfl⟩

theorem histograms_builds (b : BlockSymbols) (s : State) : Builds encRegion s (histograms b s) :=
  ⟨fun h => { h with
    occ := forall_quad (P := fun m => sparseWf 0 m = true) (occOfList_wf _) (occOfList_wf _) (occOfList_wf _)
      (occOfList_wf _) }, rfl, rfl, rfl⟩

theorem setTables_builds (l m d lit : List Nat) (s : State) : Builds encRegion s (setTables l m d lit s) :=
  ⟨fun h => { h with
    freq := forall_quad (P := fun m => sparseWf 0 m = true) (freqOfList_wf _) (freqOfList_wf _) (freqOfList_wf _)
      (freqOfList_wf _)
    encTab := forall_quad (encTable_rising _ _) (encTable_rising _ _) (encTable_rising _ _) (encTable_rising _ _) },
    rfl, rfl, rfl⟩

theorem buildTables_builds {s t : State} (h : buildTables s = .ok t) : Builds encRegion s t := by
  unfold buildTables at h
  split at h
  · cases h
  · split at h
    · cases h
    · split at h
      · cases h
      · split at h
        · cases h
        · cases h
          exact setTables_builds _ _ _ _ s

theorem encodeLiterals_builds {q : Nat} {b : BlockSymbols} {s : State} {r : Stage} (h : encodeLiterals q b s = .ok r) :
    Builds encRegion s (stageState r) := by
  unfold encodeLiterals at h
  split at h
  · cases h
  · cases h; exact .of_key rfl rfl rfl rfl
  · cases h; exact .of_key rfl rfl rfl rfl

theorem encodeLmd_builds {q : Nat} {b : BlockSymbols} {s : State} {r : Stage} (h : encodeLmd q b s = .ok r) :
    Builds encRegion s (stageState r) := by
  unfold encodeLmd at h
  split at h
  · cases h; exact .refl s
  · split at h
    · cases h
    · cases h; exact .of_key rfl rfl rfl rfl
    · cases h; exact .of_key rfl rfl rfl rfl

/-- ROLLBACK takes ENC.d_values and ENC.n_lits of the entry back (R266). -/
theorem rollback_stores {s0 s : State} (h : Builds encRegion s0 s) : Stores encRegion s0 (rollback s0 s) := by
  have hback : Builds encRegion s0 { s with enc := { s.enc with nLits := s0.enc.nLits, dValues := s0.enc.dValues } } :=
    ⟨fun c => { h.canon c with enc := { (h.canon c).enc with dValues := c.enc.dValues } }, h.dst, h.pos, h.stop⟩
  have hr := hback.trans (releaseEncArrays_builds s0.enc.nMatches.toNat s0.enc.nLits.toNat _)
  have hd := stores_releaseDst encRegion (releaseEncArrays s0.enc.nMatches.toNat s0.enc.nLits.toNat
    { s with enc := { s.enc with nLits := s0.enc.nLits, dValues := s0.enc.dValues } })
  rw [hr.pos, hr.stop] at hd
  exact hr.stores.trans hd

/-- A region whose position has just passed stored bytes is released from there on. -/
theorem stores_releaseDst_from {r : Region} {s u : State} {p q : Nat} (h : Stores r s u) (hp : r.pos u = nat64 p)
    (hq : q = (r.stop u).toNat) (hpq : p ≤ q) : Stores r s (releaseDst p q u) := by
  have hd := stores_releaseDst r u
  rw [hp, nat64_toNat_le (hq ▸ hpq), ← hq] at hd
  exact h.trans hd

/-- A block that fits is stored in the region (R265). -/
theorem closeBlock_stores {n : Nat} {p : List U8} {s t : State} (h : closeBlock n p s = .ok t)
    (hfit : s.enc.dstPos.toNat + (packedHeader (finalHeader s) s.allFreqs ++ p).length ≤ s.enc.dstEnd.toNat) :
    Stores encRegion s t := by
  unfold closeBlock at h
  replace h := (raiseOpt_ok h).2
  dsimp only at h
  generalize packedHeader (finalHeader s) s.allFreqs ++ p = bytes at h hfit
  cases h
  refine (stores_releaseDst_from ?_ (by rfl) (by rfl) hfit).trans (releaseEncLits_builds n _).stores
  exact .of_writeBytes bytes (Nat.le_sub_of_add_le' hfit) rfl rfl rfl rfl

theorem emitPayload_stores {s0 s t : State} {y : BlockSymbols} {b : Bool} (h : emitPayload s0 y s = .ok (b, t))
    (hb : Builds encRegion s0 s) (hhdr : 32 + freqRegionLength s.allFreqs ≤ s.hdrSize.toNat) : Stores encRegion s0 t := by
  unfold emitPayload at h
  dsimp only at h
  split at h
  · cases h
  · rename_i e1
    cases h
    exact rollback_stores (hb.trans (encodeLiterals_builds e1))
  · rename_i lits s1 e1
    have b1 := hb.trans (encodeLiterals_builds e1)
    obtain ⟨-, hc1, hf1⟩ := encodeLiterals_keeps e1
    split at h
    · cases h
    · rename_i e2
      cases h
      exact rollback_stores (b1.trans (encodeLmd_builds e2))
    · rename_i lmd s2 e2
      have b2 : Builds encRegion s0 s2 := b1.trans (encodeLmd_builds e2)
      obtain ⟨-, hc2, hf2⟩ := encodeLmd_keeps e2
      have hfits := encodeLmd_fits e2
      simp only [stageState] at hc1 hf1 hc2 hf2
      have hfreqs : s2.allFreqs = s.allFreqs := by
        simp only [State.allFreqs, State.freqList, hf2, hf1]
      cases hclose : closeBlock s0.enc.nLits.toNat (lits ++ lmd) s2 with
      | error x => rw [hclose] at h; cases h
      | ok u =>
        rw [hclose] at h
        cases h
        refine b2.stores.trans (closeBlock_stores hclose ?_)
        rw [hc1] at hfits
        rw [hc2, hc1, hfreqs]
        simp only [List.length_append, packedHeader_length]
        omega

/-- EMIT_BLOCK stores in the encoder's region, whether the block fits or is rolled back. -/
theorem emitBlock_stores {s t : State} {b : Bool} (h : emitBlock s = .ok (b, t)) : Stores encRegion s t := by
  unfold emitBlock at h
  split at h
  · cases h; exact .refl s
  · unfold emitFilled at h
    dsimp only at h
    split at h
    · cases h
    · rename_i y _
      have hb := ((padLiterals_builds s).trans (substituteDistances_builds _)).trans (histograms_builds y _)
      split at h
      · cases h
        exact rollback_stores hb
      · split at h
        · cases h
        · rename_i eT
          exact emitPayload_stores h (hb.trans (buildTables_builds eT)) (buildTables_header eT).1

/-! ## BACKEND_MATCH and ENC_FINISH (R237, R254, R256, R268) -/

theorem poisonEnc_stores (s : State) : Stores encRegion s (poisonEnc s) := .of_key rfl rfl rfl rfl

theorem writeBackEnc_stores (s : State) : Stores encRegion s (writeBackEnc s) := .of_key rfl rfl rfl rfl

theorem backendMatch_stores {pos ref : Int} {n : Nat} {s t : State} {b : Bool} (h : backendMatch pos ref n s = .ok (b, t)) :
    Stores encRegion s t := by
  unfold backendMatch at h
  split at h
  · cases h
  · rename_i e; cases h; exact (pushMatch_builds e).stores
  · rename_i e
    have k1 := (pushMatch_builds e).stores
    split at h
    · cases h
    · rename_i e'; cases h; exact (k1.trans (emitBlock_stores e')).trans (poisonEnc_stores _)
    · rename_i e'
      have k2 := k1.trans (emitBlock_stores e')
      split at h
      · cases h
      · rename_i e''; cases h; exact k2.trans (pushMatch_builds e'').stores
      · rename_i e''; cases h; exact (k2.trans (pushMatch_builds e'').stores).trans (poisonEnc_stores _)

theorem dropPending_stores (s : State) : Stores encRegion s (dropPending s) := .of_key rfl rfl rfl rfl

theorem setPending_stores (m : Match) (s : State) : Stores encRegion s (setPending m s) := .of_key rfl rfl rfl rfl

theorem sendMatch_stores {m : Match} {f : State → State} (hf : ∀ s, Stores encRegion s (f s)) {s t : State} {b : Bool}
    (h : sendMatch m f s = .ok (b, t)) : Stores encRegion s t := by
  unfold sendMatch at h
  split at h
  · cases h
  · rename_i e; cases h; exact (backendMatch_stores e).trans (hf _)
  · rename_i e; cases h; exact backendMatch_stores e

/-- Sending the pending match is sending a match (R237). -/
theorem sendPending_stores {s t : State} {b : Bool} (h : sendPending s = .ok (b, t)) : Stores encRegion s t :=
  sendMatch_stores (m := pendingMatch s) dropPending_stores h

theorem finishPending_stores {s t : State} {b : Bool} (h : finishPending s = .ok (b, t)) : Stores encRegion s t := by
  unfold finishPending at h
  split at h
  · cases h; exact .refl _
  · exact sendPending_stores h

theorem finishLiterals_stores {s t : State} {b : Bool} (h : finishLiterals s = .ok (b, t)) : Stores encRegion s t := by
  unfold finishLiterals at h
  dsimp only at h
  split at h
  · exact backendMatch_stores h
  · cases h; exact .refl _

theorem putEos_stores {s : State} (h : s.enc.dstPos.toNat + 4 ≤ s.enc.dstEnd.toNat) : Stores encRegion s (putEos s) := by
  refine stores_releaseDst_from ?_ (by rfl) (by rfl) h
  refine .of_writeBytes (leBytes 4 magicEos) ?_ rfl ?_ rfl rfl
  · rw [leBytes_length]
    exact Nat.le_sub_of_add_le' h
  · rw [leBytes_length]
    rfl

theorem encFinish_stores (s : State) : Ends (fun r => Stores encRegion s r.2) (encFinish s) := by
  unfold encFinish
  split
  · exact ends_error
  · rename_i e; exact ends_ok.mpr ((finishPending_stores e).trans (writeBackEnc_stores _))
  · rename_i e
    have k1 := finishPending_stores e
    split
    · exact ends_error
    · rename_i e'; exact ends_ok.mpr ((k1.trans (finishLiterals_stores e')).trans (writeBackEnc_stores _))
    · rename_i e'
      have k2 := k1.trans (finishLiterals_stores e')
      split
      · exact ends_error
      · rename_i e''
        exact ends_ok.mpr ((k2.trans (emitBlock_stores e'')).trans ((poisonEnc_stores _).trans (writeBackEnc_stores _)))
      · rename_i e''
        have k3 := k2.trans (emitBlock_stores e'')
        split
        · exact ends_ok.mpr (k3.trans (writeBackEnc_stores _))
        · rename_i hroom
          have k4 := (k3.trans (putEos_stores (by omega))).trans (writeBackEnc_stores _)
          exact ends_ok.mpr (k4.trans (.of_key rfl rfl rfl rfl))

/-! ## The match finder (45_encoder_frontend.md R234 to R242) -/

theorem positionStep_stores {pos : Int} {x : Nat} {old : Bucket} {s t : State} {b : Bool}
    (h : positionStep pos x old s = .ok (b, t)) : Stores encRegion s t := by
  unfold positionStep at h
  split at h
  · cases h; exact .refl _
  · split at h
    · cases h
    · split at h
      · unfold noCandidate at h
        split at h
        · cases h; exact .refl _
        · split at h
          · exact backendMatch_stores h
          · exact sendPending_stores h
      · split at h
        · cases h
        · rename_i inc _
          unfold chooseMatch at h
          dsimp only at h
          split at h
          · exact sendMatch_stores dropPending_stores h
          · split at h
            · cases h; exact setPending_stores inc s
            · split at h
              · exact sendMatch_stores (setPending_stores inc) h
              · exact sendMatch_stores dropPending_stores h

theorem failPosition_stores (s : State) : Stores encRegion s (failPosition s) :=
  ((releaseEncArrays_builds _ _ s).stores.trans (stores_releaseDst encRegion _)).trans (poisonEnc_stores _)

theorem recordPosition_builds (pos : Int) (x h : Nat) (old : Bucket) (s : State) :
    Builds encRegion s (recordPosition pos x h old s) :=
  ⟨fun c => { c with enc := { c.enc with hist := sparseSet_wf _ _ c.enc.hist } }, rfl, rfl, rfl⟩

theorem basePosition_stores {s t : State} {b : Bool} (h : basePosition s = .ok (b, t)) : Stores encRegion s t := by
  unfold basePosition at h
  dsimp only at h
  split at h
  · cases h
  · split at h
    · cases h
    · cases h; exact failPosition_stores s
    · rename_i e; cases h; exact (positionStep_stores e).trans (recordPosition_builds _ _ _ _ _).stores

theorem baseLoop_stores {n : Nat} {s t : State} {b : Bool} (h : baseLoop n s = .ok (b, t)) : Stores encRegion s t := by
  induction n generalizing s with
  | zero => cases h; exact .refl _
  | succ n ih =>
    rw [baseLoop] at h
    split at h
    · cases h
    · rename_i e; cases h; exact basePosition_stores e
    · rename_i e; exact (basePosition_stores e).trans (ih h)

theorem encBase_stores {e : Nat} {s t : State} {b : Bool} (h : encBase e s = .ok (b, t)) : Stores encRegion s t := by
  unfold encBase at h
  exact .trans (.of_key (by rfl) (by rfl) (by rfl) (by rfl)) (baseLoop_stores (raiseIf_ok h).2)

theorem encTranslate_builds (delta : Nat) (s : State) : Builds encRegion s (encTranslate delta s) :=
  ⟨fun c => { c with enc := { c.enc with hist := shiftHistory_wf _ c.enc.hist } }, rfl, rfl, rfl⟩

/-- ENC_INIT empties the history (R232). -/
theorem encInit_canonical {s : State} (h : Canonical s) : Canonical (encInit s) := by
  unfold encInit writeBackEnc
  dsimp only
  exact ⟨h.src, h.dst, h.decLits, ⟨h.enc.lits, h.enc.lValues, h.enc.mValues, h.enc.dValues, sparseWf_nil _⟩, h.occ,
    h.freq, h.encTab, h.decTab, h.vdecTab⟩

/-! ## What a command does to the byte spaces and the arrays -/

/-- What a command takes from the host and leaves as it is: CMD, the arguments, SRC, the sizes and the coming moves. -/
def inputKey (s : State) := (s.cmd, s.arg0, s.arg1, s.arg2, s.arg3, s.src, s.srcSize, s.dstSize, s.script)

/-- From `s` to `t` DST changes in [lo, hi) alone, and the arrays stay canonical. -/
structure Contained (lo hi : Nat) (s t : State) : Prop where
  canon : Canonical s → Canonical t
  outside : sameOutside lo hi s.dst t.dst

/-- What a command other than RESET whose region is [lo, hi) does. A preorder. -/
structure InRegion (lo hi : Nat) (s t : State) : Prop extends Contained lo hi s t where
  inputs : inputKey t = inputKey s

section InRegion

variable {lo hi : Nat} {s t u : State}

theorem Contained.trans (h : Contained lo hi s t) (k : Contained lo hi t u) : Contained lo hi s u :=
  ⟨fun c => k.canon (h.canon c), fun a ha => (k.outside a ha).trans (h.outside a ha)⟩

theorem InRegion.trans (h : InRegion lo hi s t) (k : InRegion lo hi t u) : InRegion lo hi s u :=
  ⟨h.toContained.trans k.toContained, k.inputs.trans h.inputs⟩

theorem Contained.of_canon (h : Canonical s → Canonical t) (hd : t.dst = s.dst) : Contained lo hi s t :=
  ⟨h, hd ▸ sameOutside_refl _ _ _⟩

theorem Contained.of_key (hk : arraysKey t = arraysKey s) (hd : t.dst = s.dst) : Contained lo hi s t :=
  .of_canon (fun c => c.of_key hk (hd ▸ c.dst)) hd

theorem InRegion.of_key (hin : inputKey t = inputKey s) (hk : arraysKey t = arraysKey s) (hd : t.dst = s.dst) :
    InRegion lo hi s t :=
  ⟨.of_key hk hd, hin⟩

theorem InRegion.refl (s : State) : InRegion lo hi s s := .of_key rfl rfl rfl

/-- While DST stands still any region will do. -/
theorem Builds.contained {r : Region} (h : Builds r s t) : Contained lo hi s t := .of_canon h.canon h.dst

theorem Stores.contained {r : Region} (h : Stores r s t) : Contained (r.pos s).toNat (r.stop s).toNat s t :=
  ⟨h.canon, h.outside⟩

theorem withRes0_inRegion (s : State) (v : U64) : InRegion lo hi s (s.withRes0 v) := .of_key rfl rfl rfl

theorem withRes_inRegion (s : State) (v w : U64) : InRegion lo hi s (s.withRes v w) := .of_key rfl rfl rfl

/-- A command does what its body does. -/
theorem command_inRegion {b : Except Trap (Status × State)} (h : command s b = .next t)
    (hb : Ends (fun r => InRegion lo hi s r.2) b) : InRegion lo hi s t :=
  command_ends (Q := fun u => InRegion lo hi s u) h (.refl s) (fun _ _ => .of_key rfl rfl rfl)
    (fun _ _ k => k.trans (.of_key rfl rfl rfl)) hb

/-- A command whose inputs are known to stay contains what its body contains. -/
theorem command_contained {b : Except Trap (Status × State)} (h : command s b = .next t)
    (hb : Ends (fun r => Contained lo hi s r.2) b) : Contained lo hi s t :=
  command_ends (Q := fun u => Contained lo hi s u) h (.of_key rfl rfl) (fun _ _ => .of_key rfl rfl)
    (fun _ _ k => k.trans (.of_key rfl rfl)) hb

theorem inputKey_of_encFrame (h : encFrame t = encFrame s) : inputKey t = inputKey s := by
  simp only [encFrame, Prod.mk.injEq] at h
  obtain ⟨hc, h0, h1, h2, h3, -, -, -, -, -, hs, hss, hds, hsc⟩ := h
  simp only [inputKey, hc, h0, h1, h2, h3, hs, hss, hds, hsc]

theorem inputKey_of_decKey (h : decKey t = decKey s) : inputKey t = inputKey s := by
  simp only [decKey, Prod.mk.injEq] at h
  obtain ⟨hc, h0, h1, h2, h3, -, -, -, -, -, -, -, -, -, hs, hss, hds, hsc⟩ := h
  simp only [inputKey, hc, h0, h1, h2, h3, hs, hss, hds, hsc]

end InRegion

/-! ## The primitive commands -/

/-- Bytes that fit are stored at DST_POS, and the rest of the region is released (20_memory.md R71, R79). -/
theorem storeAtDstPos_stores {l : List U8} {s : State} (h : s.cur.dstPos.toNat + l.length ≤ s.cur.dstEnd.toNat) :
    Stores curRegion s (storeAtDstPos l s) := by
  unfold storeAtDstPos
  refine stores_releaseDst_from ?_ (by rfl) (by rfl) h
  exact .of_writeBytes l (Nat.le_sub_of_add_le' h) rfl rfl rfl rfl

theorem storeAtDstPos_inRegion {l : List U8} {s : State} {n : Nat} (hn : l.length = n)
    (h : ¬s.cur.dstEnd.toNat < s.cur.dstPos.toNat + n) :
    InRegion s.cur.dstPos.toNat s.cur.dstEnd.toNat s (storeAtDstPos l s) :=
  ⟨(storeAtDstPos_stores (by omega)).contained, inputKey_of_encFrame (storeAtDstPos_frame l s)⟩

theorem v1Image_length {h : Hdr} {f : List Nat} (hf : f.length = 360) : (v1Image h f).length = v1HeaderSize := by
  have hfreq : (f.flatMap (leBytes 2)).length = 720 := by
    rw [List.length_flatMap, List.map_congr_left fun v _ => leBytes_length 2 v, List.map_const', List.sum_replicate, hf]
    rfl
  unfold v1Image
  simp only [List.length_append, leBytes_length, hfreq, List.length_cons, List.length_nil]
  rfl

theorem allFreqs_length (s : State) : s.allFreqs.length = 360 := by
  simp [State.allFreqs, State.freqList, sparseList, nsym]

theorem rawStream_length (s : State) (n : Nat) : (rawStream s n).length = n + 12 := by
  simp only [rawStream, List.length_append, leBytes_length, readBytes_length]
  omega

theorem storeRaw_stores (s : State) : Stores curRegion s (storeRaw s).2 := by
  unfold storeRaw
  dsimp only
  split
  · exact .of_key rfl rfl rfl rfl
  · have hl := rawStream_length s (s.cur.srcEnd.toNat - s.cur.srcPos.toNat)
    exact (storeAtDstPos_stores (by omega)).trans (.of_key rfl rfl rfl rfl)

theorem exec_table_inRegion {i : Instr} {s t : State} (hi : TableCommand i) (h : exec i s = .next t) :
    InRegion (dstRegion i s).1 (dstRegion i s).2 s t := by
  cases hi with
  | loadArray =>
    refine command_inRegion h ?_
    split
    · exact ends_error
    · exact ends_raiseIf fun _ => ends_ok.mpr (withRes0_inRegion s _)
  | normalize sel =>
    refine command_inRegion h ?_
    split
    · exact ends_error
    · refine ends_ok.mpr ⟨.of_canon (fun c => { c with freq := ?_ }) rfl, rfl⟩
      exact forall_quad_put (P := fun m => sparseWf 0 m = true) c.freq (freqOfList_wf _) sel
  | checkFreq sel =>
    simp only [exec, execCheckFreq] at h
    exact command_inRegion h (ends_ok.mpr (withRes0_inRegion s _))
  | buildEnc sel =>
    refine command_inRegion h (ends_raiseIf fun _ => ends_ok.mpr ⟨.of_canon (fun c => ?_) rfl, rfl⟩)
    exact { c with encTab := forall_quad_put c.encTab (encTable_rising _ _) sel }
  | buildDec =>
    refine command_inRegion h ?_
    have ht := decTable_rising (s.freqList .lit)
    split
    · rename_i e
      rw [e] at ht
      exact ends_ok.mpr ⟨.of_canon (fun c => { c with decTab := ht }) rfl, rfl⟩
    · exact ends_ok.mpr ⟨.of_canon (fun c => { c with decTab := rising_nil }) rfl, rfl⟩
  | symbolOfValue sel =>
    refine command_inRegion h ?_
    split
    · exact ends_error
    · exact ends_ok.mpr (withRes_inRegion s _ _)
  | freqEnc => exact command_inRegion h (ends_raiseIf fun _ => ends_ok.mpr (withRes_inRegion s _ _))
  | freqDec =>
    simp only [exec, execFreqDec] at h
    exact command_inRegion h (ends_ok.mpr (withRes_inRegion s _ _))
  | hdrPack =>
    refine command_inRegion h (ends_raiseOpt fun _ => ends_raiseOpt fun _ => ?_)
    dsimp only
    split
    · exact ends_ok.mpr (.refl s)
    · rename_i hroom
      exact ends_ok.mpr ((storeAtDstPos_inRegion (packedHeader_length _ _) hroom).trans (.of_key rfl rfl rfl))
  | hdrUnpack =>
    refine command_inRegion h (ends_raiseOpt fun _ => ?_)
    split
    · exact ends_ok.mpr (.refl s)
    · exact ends_ok.mpr (.refl s)
    · exact ends_ok.mpr ⟨.of_canon (fun c => { c with freq := quadOfFreqs_wf _ }) rfl, rfl⟩
  | hdrCheck =>
    simp only [exec, execHdrCheck] at h
    exact command_inRegion h (ends_ok.mpr (withRes0_inRegion s _))
  | v1Load =>
    refine command_inRegion h (ends_raiseOpt fun _ => ?_)
    dsimp only
    split
    · exact ends_ok.mpr (.refl s)
    · exact ends_ok.mpr ⟨.of_canon (fun c => { c with freq := quadOfFreqs_wf _ }) rfl, rfl⟩
  | v1Store =>
    refine command_inRegion h (ends_raiseOpt fun _ => ?_)
    split
    · exact ends_ok.mpr (.refl s)
    · rename_i hroom
      have hl := v1Image_length (h := s.hdr) (allFreqs_length s)
      exact ends_ok.mpr ((storeAtDstPos_inRegion hl hroom).trans (withRes0_inRegion _ _))
  | hash =>
    refine command_inRegion h (ends_raiseIf fun _ => ?_)
    exact ends_ok.mpr (withRes0_inRegion s _)
  | storeRaw =>
    exact command_inRegion h (ends_raiseOpt fun _ =>
      ends_ok.mpr ⟨(storeRaw_stores s).contained, inputKey_of_encFrame (storeRaw_frame s)⟩)

theorem exec_out_inRegion {i : Instr} {s t : State} (hi : OutCommand i) (h : exec i s = .next t) :
    InRegion (dstRegion i s).1 (dstRegion i s).2 s t := by
  cases hi with
  | outInit =>
    simp only [exec, execOutInit] at h
    exact command_inRegion h (ends_ok.mpr (.of_key rfl rfl rfl))
  | outPush n =>
    refine command_inRegion h (ends_raiseIf fun _ => ?_)
    split
    · exact ends_error
    · exact ends_ok.mpr (.of_key rfl rfl rfl)
  | outFlush =>
    refine command_inRegion h (ends_raiseIf fun _ => ends_raiseOpt fun _ => ?_)
    split
    · exact ends_ok.mpr (.refl s)
    · rename_i hroom
      exact ends_ok.mpr ((storeAtDstPos_inRegion (leBytes_length _ _) hroom).trans (.of_key rfl rfl rfl))
  | outFinish =>
    refine command_inRegion h (ends_raiseIf fun _ => ends_raiseOpt fun _ => ?_)
    split
    · exact ends_ok.mpr (.refl s)
    · rename_i hroom
      exact ends_ok.mpr ((storeAtDstPos_inRegion (leBytes_length _ _) hroom).trans (.of_key rfl rfl rfl))
  | fseEncode sel =>
    refine command_inRegion h (ends_raiseIf fun _ => ends_raiseIf fun _ => ?_)
    split
    · exact ends_error
    · exact ends_ok.mpr (.of_key rfl rfl rfl)

theorem withInAcc_inRegion {lo hi : Nat} (s : State) (sel : InSel) (x : InAcc) : InRegion lo hi s (s.withInAcc sel x) := by
  cases sel <;> exact .of_key rfl rfl rfl

theorem exec_in_inRegion {i : Instr} {s t : State} (hi : InCommand i) (h : exec i s = .next t) :
    InRegion (dstRegion i s).1 (dstRegion i s).2 s t := by
  cases hi with
  | inInit sel =>
    refine command_inRegion h (ends_raiseInBusy fun _ => ends_raiseOpt fun _ => ends_raiseIf fun _ => ?_)
    split
    · exact ends_ok.mpr ((withInAcc_inRegion s sel _).trans (.of_key rfl rfl rfl))
    · exact ends_ok.mpr (withInAcc_inRegion s sel _)
  | inFlush sel =>
    refine command_inRegion h (ends_raiseInBusy fun _ => ends_raiseIf fun _ => ?_)
    split
    · exact ends_ok.mpr (.refl s)
    · exact ends_ok.mpr ((withInAcc_inRegion s sel _).trans (.of_key rfl rfl rfl))
  | inPull sel n =>
    refine command_inRegion h (ends_raiseInBusy fun _ => ?_)
    split
    · exact ends_error
    · exact ends_ok.mpr ((withInAcc_inRegion s sel _).trans (.of_key rfl rfl rfl))
  | fseDecode =>
    refine command_inRegion h (ends_raiseIf fun _ => ?_)
    split
    · exact ends_error
    · exact ends_ok.mpr (.of_key rfl rfl rfl)
  | fseVdecode sel =>
    refine command_inRegion h (ends_raiseIf fun _ => ends_raiseIf fun _ => ?_)
    split
    · exact ends_error
    · exact ends_ok.mpr (.of_key rfl rfl rfl)

theorem exec_buildVdec_inRegion {sel : VSel} {s t : State} (h : exec (.buildVdec sel) s = .next t) :
    InRegion (dstRegion (.buildVdec sel) s).1 (dstRegion (.buildVdec sel) s).2 s t := by
  refine command_inRegion h (ends_raiseIf fun _ => ?_)
  have ht := vdecTable_rising sel (s.freqList (streamOf sel))
  split
  · rename_i e
    rw [e] at ht
    exact ends_ok.mpr ⟨.of_canon (fun c => { c with vdecTab := forall_triple_put c.vdecTab ht sel }) rfl, rfl⟩
  · exact ends_ok.mpr ⟨.of_canon (fun c => { c with vdecTab := forall_triple_put c.vdecTab rising_nil sel }) rfl, rfl⟩

/-- STORE_ARRAY writes the element in canonical form (60_exceptions.md R298). -/
theorem Canonical.storeElement {s : State} (h : Canonical s) (id : ArrayId) (i v : Nat) :
    Canonical (storeElement s id i v) := by
  cases id with
  | occ sel =>
    exact { h with
      occ := forall_quad_put (P := fun m => sparseWf 0 m = true) h.occ (sparseSet_wf _ _ (h.occ sel)) sel }
  | freq sel =>
    exact { h with
      freq := forall_quad_put (P := fun m => sparseWf 0 m = true) h.freq (sparseSet_wf _ _ (h.freq sel)) sel }
  | decLits => exact { h with decLits := arrSet_wf _ _ _ _ h.decLits }
  | encLits => exact { h with enc := { h.enc with lits := arrSet_wf _ _ _ _ h.enc.lits } }
  | lValues => exact { h with enc := { h.enc with lValues := arrSet_wf _ _ _ _ h.enc.lValues } }
  | mValues => exact { h with enc := { h.enc with mValues := arrSet_wf _ _ _ _ h.enc.mValues } }
  | dValues => exact { h with enc := { h.enc with dValues := arrSet_wf _ _ _ _ h.enc.dValues } }
  | nMatches => exact h.of_key rfl h.dst
  | nLits => exact h.of_key rfl h.dst
  | decNLits => exact h.of_key rfl h.dst

theorem storeElement_inputs (s : State) (id : ArrayId) (i v : Nat) : inputKey (storeElement s id i v) = inputKey s := by
  cases id <;> rfl

theorem storeElement_dst (s : State) (id : ArrayId) (i v : Nat) : (storeElement s id i v).dst = s.dst := by
  cases id <;> rfl

theorem exec_storeArray_inRegion {s t : State} (h : exec .storeArray s = .next t) :
    InRegion (dstRegion .storeArray s).1 (dstRegion .storeArray s).2 s t := by
  refine command_inRegion h ?_
  split
  · exact ends_error
  · rename_i id _
    refine ends_raiseIf fun _ => ends_raiseIf fun _ => ends_raiseIf fun _ => ends_ok.mpr ?_
    exact ⟨.of_canon (fun c => c.storeElement _ _ _) (storeElement_dst _ _ _ _), storeElement_inputs _ _ _ _⟩

/-! ## The decoder's commands -/

theorem decRun_inputs {s t : State} {st : Status} (h : decRun s = some (st, t)) : inputKey t = inputKey s := by
  unfold decRun at h
  split at h
  · cases h
    rfl
  · split at h
    · cases h
    · rename_i s1 e
      cases h
      have hp : inputKey (poisonDecOnError st s1) = inputKey s1 := by
        cases st <;> rfl
      have hrel (lo hi : Nat) (u : State) : inputKey (releaseDst lo hi u) = inputKey u :=
        inputKey_of_encFrame (encFrame_of_key (releaseDst_key lo hi u))
      have hend (u : State) : inputKey (writeBackDec (releaseDecLits u)) = inputKey u := rfl
      exact (hend _).trans ((hrel _ _ _).trans (hp.trans (inputKey_of_decKey (blockLoop_key _ _ e))))

theorem decInit_canonical {s : State} (h : Canonical s) : Canonical (decInit s) := by
  unfold decInit writeBackDec
  exact { h with decLits := rfl }

theorem decRun_inRegion {s t : State} {st : Status} (h : decRun s = some (st, t)) :
    InRegion s.dec.cur.dstPos.toNat s.dec.cur.dstEnd.toNat s t :=
  ⟨(decRun_stores h).contained, decRun_inputs h⟩

theorem exec_decStep_inRegion {s t : State} (h : exec .decStep s = .next t) :
    InRegion (dstRegion .decStep s).1 (dstRegion .decStep s).2 s t := by
  unfold exec execDecStep at h
  dsimp only at h
  split at h
  · exact command_inRegion h ends_error
  · split at h
    · cases h
    · rename_i e
      exact command_inRegion h (ends_ok.mpr ((decRun_inRegion e).trans (.of_key rfl rfl rfl)))

/-- DEC_BUFFER decodes into the region of the cursor registers, which its DEC_INIT takes (44_decoder_engine.md R218). -/
theorem exec_decBuffer_inRegion {s t : State} (h : exec .decBuffer s = .next t) :
    InRegion (dstRegion .decBuffer s).1 (dstRegion .decBuffer s).2 s t := by
  unfold exec execDecBuffer at h
  dsimp only at h
  split at h
  · cases h
    exact .refl s
  · split at h
    · exact command_inRegion h ends_error
    · split at h
      · cases h
      · rename_i e
        have hinit : InRegion s.cur.dstPos.toNat s.cur.dstEnd.toNat s { (decInit s).withRes 0 0 with status := .ok } :=
          ⟨.of_canon (fun c => (decInit_canonical c).of_key rfl c.dst) rfl, rfl⟩
        exact command_inRegion h (ends_ok.mpr ((hinit.trans (decRun_inRegion e)).trans (.of_key rfl rfl rfl)))

/-! ## ENC_BUFFER (46_encoder_backend.md R272, R274) -/

theorem encInit_region (s : State) :
    (encInit s).dst = s.dst ∧ (encInit s).enc.dstPos = s.cur.dstPos ∧ (encInit s).enc.dstEnd = s.cur.dstEnd := by
  unfold encInit writeBackEnc
  exact ⟨by dsimp only, by dsimp only, by dsimp only⟩

/-- What the encoder stores after ENC_INIT lies in the region of the cursor registers as they stood before it. -/
theorem contained_of_encInit {s t : State} (h : Stores encRegion ((encInit s).withRes 0 0) t) :
    Contained s.cur.dstPos.toNat s.cur.dstEnd.toNat s t ∧ t.enc.dstEnd = s.cur.dstEnd := by
  obtain ⟨hdst, hpos, hend⟩ := encInit_region s
  have hinit : Contained s.cur.dstPos.toNat s.cur.dstEnd.toNat s (encInit s) := .of_canon encInit_canonical hdst
  generalize encInit s = u at h hpos hend hinit
  have hk : Contained u.enc.dstPos.toNat u.enc.dstEnd.toNat (u.withRes 0 0) t := h.contained
  rw [hpos, hend] at hk
  exact ⟨(hinit.trans (withRes_inRegion u 0 0).toContained).trans hk, h.stop.trans hend⟩

theorem fsePath_stores (n : Nat) (s : State) :
    Ends (fun r => Stores encRegion ((encInit s).withRes 0 0) r.2 ∧ showsEnc r.2) (fsePath n s) := by
  unfold fsePath
  split
  · exact ends_error
  · rename_i e
    exact ends_ok.mpr ⟨(encBase_stores e).trans (.of_key rfl rfl rfl rfl), rfl⟩
  · rename_i s1 e
    have kb : Stores encRegion s1 ((writeBackEnc s1).withRes s1.enc.srcEncodeI s1.enc.srcLiteral) :=
      .of_key rfl rfl rfl rfl
    split
    · exact ends_error
    · rename_i e'
      exact ends_ok.mpr ⟨((encBase_stores e).trans kb).trans (encFinish_stores _ _ e'), encFinish_showsEnc _ _ e'⟩

theorem rawFallback_contained {s0 s : State} (h : s.cur.dstEnd = s0.cur.dstEnd) :
    Contained s0.cur.dstPos.toNat s0.cur.dstEnd.toNat s (rawFallback s0 s).2 := by
  have k := (storeRaw_stores { s with cur := { s.cur with dstPos := s0.cur.dstPos, srcPos := s0.cur.srcPos } }).contained
  have hhi : (curRegion.stop { s with cur := { s.cur with dstPos := s0.cur.dstPos, srcPos := s0.cur.srcPos } }).toNat =
      s0.cur.dstEnd.toNat := congrArg BitVec.toNat h
  rw [hhi] at k
  unfold rawFallback
  split
  · rename_i e
    rw [e] at k
    exact .trans (.of_key (by rfl) (by rfl)) (k.trans (.of_key rfl rfl))
  · rename_i e
    rw [e] at k
    exact .trans (.of_key (by rfl) (by rfl)) (k.trans (.of_key rfl rfl))

theorem secondaryStream_length (n : Nat) (r : List U8) : (secondaryStream n r).length = r.length + 16 := by
  simp only [secondaryStream, List.length_append, leBytes_length]
  omega

theorem secondaryPath_contained (n : Nat) (s : State) :
    Ends (fun o => ∀ t, o = some t → Contained s.cur.dstPos.toNat s.cur.dstEnd.toNat s t) (secondaryPath n s) := by
  unfold secondaryPath
  dsimp only
  split
  · exact ends_ok.mpr fun t h => by cases h
  · split
    · exact ends_ok.mpr fun t h => by cases h
    · rename_i r _
      split
      · exact ends_ok.mpr fun t h => by cases h
      · refine ends_raiseIf fun hroom => ends_ok.mpr fun t h => ?_
        simp only [decide_eq_false_iff_not, not_lt] at hroom
        have hl := secondaryStream_length n r
        cases h
        exact (storeAtDstPos_stores (by omega)).contained.trans (.of_key rfl rfl)

theorem encBuffer_contained (n : Nat) (s : State) :
    Ends (fun r => Contained s.cur.dstPos.toNat s.cur.dstEnd.toNat s r.2) (encBuffer n s) := by
  unfold encBuffer
  split
  · exact ends_ok.mpr (rawFallback_contained rfl)
  · split
    · split
      · exact ends_error
      · rename_i e
        exact ends_ok.mpr ((secondaryPath_contained n s _ e _ rfl).trans (.of_key rfl rfl))
      · exact ends_ok.mpr (rawFallback_contained rfl)
    · split
      · exact ends_error
      · rename_i e
        obtain ⟨hs, -⟩ := fsePath_stores n s _ e
        exact ends_ok.mpr ((contained_of_encInit hs).1.trans (.of_key rfl rfl))
      · rename_i s' e
        obtain ⟨hs, hshow⟩ := fsePath_stores n s _ e
        obtain ⟨hc, hend⟩ := contained_of_encInit hs
        have hr : Contained s.cur.dstPos.toNat s.cur.dstEnd.toNat s'
            (releaseDst s.cur.dstPos.toNat s.cur.dstEnd.toNat s') :=
          ⟨fun c => c.of_key (by rw [releaseDst_eq]; rfl) (releaseDst_wf _ _ _ c.dst),
            fun a ha => releaseDst_outside _ _ _ a ha⟩
        have hcur : (releaseDst s.cur.dstPos.toNat s.cur.dstEnd.toNat s').cur.dstEnd = s.cur.dstEnd := by
          rw [releaseDst_eq]
          exact (congrArg Cursors.dstEnd hshow).trans hend
        exact ends_ok.mpr ((hc.trans hr).trans (.trans (.of_key (by rfl) (by rfl)) (rawFallback_contained hcur)))

/-! ## Every command -/

section EndOfCommand

variable {lo hi : Nat}

theorem endPush_contained (r : Bool × State) : Contained lo hi r.2 (endPush r).2 := by
  obtain ⟨_ | _, s⟩ := r
  · exact .of_key rfl rfl
  · exact .of_key rfl rfl

theorem endBackend_contained (r : Bool × State) : Contained lo hi r.2 (endBackend r).2 := by
  obtain ⟨_ | _, s⟩ := r
  · exact .of_key rfl rfl
  · exact .of_key rfl rfl

theorem endBase_contained (r : Bool × State) : Contained lo hi r.2 (endBase r).2 := by
  obtain ⟨_ | _, s⟩ := r
  · exact .of_key rfl rfl
  · exact .of_key rfl rfl

theorem endEmit_contained (s0 : State) (r : Bool × State) : Contained lo hi r.2 (endEmit s0 r).2 := by
  obtain ⟨_ | _, s⟩ := r
  · exact .of_key rfl rfl
  · unfold endEmit
    dsimp only
    split
    · exact .of_key rfl rfl
    · exact .of_key rfl rfl

end EndOfCommand

/-- The encoder's commands, ENC_BUFFER included, store in the region of the context, or of the cursor registers. -/
theorem exec_encoder_contained {i : Instr} {s t : State} (hi : EncoderCommand i) (h : exec i s = .next t) :
    Contained (dstRegion i s).1 (dstRegion i s).2 s t := by
  cases hi with
  | encInit =>
    have hinit : Contained 0 0 s (encInit s) := .of_canon encInit_canonical (encInit_region s).1
    exact command_contained h (ends_raiseOpt fun _ => ends_ok.mpr (hinit.trans (withRes_inRegion _ 0 0).toContained))
  | encBase =>
    exact command_contained h (ends_raiseIf fun _ => ends_map fun r e =>
      (encBase_stores e).contained.trans (endBase_contained r))
  | encTranslate =>
    refine command_contained h (ends_raiseIf fun _ => ends_raiseIf fun _ => ?_)
    split
    · exact ends_ok.mpr (.of_key rfl rfl)
    · exact ends_ok.mpr (.trans (.of_canon (encTranslate_builds _ s).canon rfl) (.of_key rfl rfl))
  | pushLmd =>
    exact command_contained h (ends_raiseIf fun _ => ends_raiseIf fun _ => ends_raiseIf fun _ => ends_raiseIf fun _ =>
      ends_map fun r e => (pushLmd_builds e).contained.trans (endPush_contained r))
  | pushMatch =>
    exact command_contained h (ends_raiseIf fun _ => ends_map fun r e =>
      (pushMatch_builds e).contained.trans (endPush_contained r))
  | backendMatch =>
    exact command_contained h (ends_raiseIf fun _ => ends_map fun r e =>
      (backendMatch_stores e).contained.trans (endBackend_contained r))
  | backendLiterals =>
    refine command_contained h (ends_raiseIf fun _ => ?_)
    split
    · exact ends_ok.mpr (.of_key rfl rfl)
    · exact ends_map fun r e => (backendMatch_stores e).contained.trans (endBackend_contained r)
  | emitBlock =>
    exact command_contained h (ends_raiseIf fun _ => ends_map fun r e =>
      (emitBlock_stores e).contained.trans (endEmit_contained s r))
  | encFinish => exact command_contained h (ends_raiseIf fun _ r e => (encFinish_stores s r e).contained)
  | encBuffer => exact command_contained h (ends_raiseOpt fun _ => ends_raiseIf fun _ => encBuffer_contained _ s)

theorem exec_encoder_inRegion {i : Instr} {s t : State} (hi : EncoderCommand i) (h : exec i s = .next t) :
    InRegion (dstRegion i s).1 (dstRegion i s).2 s t :=
  ⟨exec_encoder_contained hi h, inputKey_of_encFrame (exec_encoder_frame hi h)⟩

/-- Every command but RESET leaves its inputs alone, stores in its region and keeps the arrays canonical. -/
theorem exec_inRegion {i : Instr} {s t : State} (hi : i ≠ .reset) (h : exec i s = .next t) :
    InRegion (dstRegion i s).1 (dstRegion i s).2 s t := by
  cases i with
  | reset => exact absurd rfl hi
  | storeArray => exact exec_storeArray_inRegion h
  | loadArray => exact exec_table_inRegion .loadArray h
  | outInit => exact exec_out_inRegion .outInit h
  | outPush n => exact exec_out_inRegion (.outPush n) h
  | outFlush => exact exec_out_inRegion .outFlush h
  | outFinish => exact exec_out_inRegion .outFinish h
  | inInit sel => exact exec_in_inRegion (.inInit sel) h
  | inFlush sel => exact exec_in_inRegion (.inFlush sel) h
  | inPull sel n => exact exec_in_inRegion (.inPull sel n) h
  | normalize sel => exact exec_table_inRegion (.normalize sel) h
  | checkFreq sel => exact exec_table_inRegion (.checkFreq sel) h
  | buildEnc sel => exact exec_table_inRegion (.buildEnc sel) h
  | buildDec => exact exec_table_inRegion .buildDec h
  | buildVdec sel => exact exec_buildVdec_inRegion h
  | symbolOfValue sel => exact exec_table_inRegion (.symbolOfValue sel) h
  | fseEncode sel => exact exec_out_inRegion (.fseEncode sel) h
  | fseDecode => exact exec_in_inRegion .fseDecode h
  | fseVdecode sel => exact exec_in_inRegion (.fseVdecode sel) h
  | freqEnc => exact exec_table_inRegion .freqEnc h
  | freqDec => exact exec_table_inRegion .freqDec h
  | hdrPack => exact exec_table_inRegion .hdrPack h
  | hdrUnpack => exact exec_table_inRegion .hdrUnpack h
  | hdrCheck => exact exec_table_inRegion .hdrCheck h
  | v1Load => exact exec_table_inRegion .v1Load h
  | v1Store => exact exec_table_inRegion .v1Store h
  | hash => exact exec_table_inRegion .hash h
  | storeRaw => exact exec_table_inRegion .storeRaw h
  | decInit =>
    exact command_inRegion h (ends_raiseOpt fun _ => ends_ok.mpr
      (.trans ⟨.of_canon decInit_canonical rfl, rfl⟩ (withRes_inRegion _ 0 0)))
  | decStep => exact exec_decStep_inRegion h
  | decFeed =>
    exact command_inRegion h (ends_raiseIf fun _ => ends_raiseIf fun _ => ends_ok.mpr (.of_key rfl rfl rfl))
  | decGrow =>
    exact command_inRegion h (ends_raiseIf fun _ => ends_raiseIf fun _ => ends_ok.mpr (.of_key rfl rfl rfl))
  | decBuffer => exact exec_decBuffer_inRegion h
  | encInit => exact exec_encoder_inRegion .encInit h
  | encBase => exact exec_encoder_inRegion .encBase h
  | encTranslate => exact exec_encoder_inRegion .encTranslate h
  | pushLmd => exact exec_encoder_inRegion .pushLmd h
  | pushMatch => exact exec_encoder_inRegion .pushMatch h
  | backendMatch => exact exec_encoder_inRegion .backendMatch h
  | backendLiterals => exact exec_encoder_inRegion .backendLiterals h
  | emitBlock => exact exec_encoder_inRegion .emitBlock h
  | encFinish => exact exec_encoder_inRegion .encFinish h
  | encBuffer => exact exec_encoder_inRegion .encBuffer h

theorem Canonical.fullReset {s : State} (h : Canonical s) : Canonical (fullReset s) where
  src := h.src
  dst := h.dst
  decLits := rfl
  enc := ⟨rfl, rfl, rfl, rfl, sparseWf_nil _⟩
  occ := forall_quad (P := fun m => sparseWf 0 m = true) rfl rfl rfl rfl
  freq := forall_quad (P := fun m => sparseWf 0 m = true) rfl rfl rfl rfl
  encTab := forall_quad rising_nil rising_nil rising_nil rising_nil
  decTab := rising_nil
  vdecTab := forall_triple rising_nil rising_nil rising_nil

/-- The byte spaces, their sizes and the coming moves. -/
def spacesKey (s : State) := (s.src, s.dst, s.srcSize, s.dstSize, s.script)

/-- RESET keeps the byte spaces (70_reset_and_hazards.md R310). -/
theorem exec_reset_spaces {s t : State} (h : exec .reset s = .next t) :
    spacesKey t = spacesKey s ∧ (Canonical s → Canonical t) := by
  unfold exec execReset at h
  dsimp only at h
  split at h
  · cases h
    exact ⟨rfl, Canonical.fullReset⟩
  · split at h
    · cases h
      exact ⟨rfl, fun c => c.of_key rfl c.dst⟩
    · cases h
      exact ⟨rfl, fun c => c.of_key rfl c.dst⟩

theorem exec_contained {i : Instr} {s t : State} (h : exec i s = .next t) :
    Contained (dstRegion i s).1 (dstRegion i s).2 s t := by
  by_cases hi : i = .reset
  · subst hi
    obtain ⟨hk, hc⟩ := exec_reset_spaces h
    exact .of_canon hc (congrArg (fun k => k.2.1) hk)
  · exact (exec_inRegion hi h).toContained

theorem exec_src {i : Instr} {s t : State} (h : exec i s = .next t) :
    t.src = s.src ∧ t.srcSize = s.srcSize ∧ t.dstSize = s.dstSize ∧ t.script = s.script := by
  by_cases hi : i = .reset
  · subst hi
    have hk := (exec_reset_spaces h).1
    simp only [spacesKey, Prod.mk.injEq] at hk
    obtain ⟨hs, -, hss, hds, hsc⟩ := hk
    exact ⟨hs, hss, hds, hsc⟩
  · have hk := (exec_inRegion hi h).inputs
    simp only [inputKey, Prod.mk.injEq] at hk
    obtain ⟨-, -, -, -, -, hs, hss, hds, hsc⟩ := hk
    exact ⟨hs, hss, hds, hsc⟩

/-! ## Every step -/

/-- A command word ends in a state its command answers, or in one that differs in STATUS, FAULT and FAULT_INFO at most. -/
theorem runWord_next {w : U32} {s t : State} (h : runWord w s = .next t) :
    t = s ∨ (∃ e, t = takeFault e s) ∨ ∃ i, decode w = .ok i ∧ exec i s = .next t := by
  unfold runWord at h
  split at h
  · cases h
    exact .inl rfl
  · split at h
    · cases h
      exact .inr (.inl ⟨_, rfl⟩)
    · exact .inr (.inr ⟨_, ‹_›, h⟩)

theorem writeReg_canonical {s : State} (h : Canonical s) (p : PortReg) (v : U64) : Canonical (writeReg p v s) := by
  rw [writeReg_frame]
  exact h.of_key rfl h.dst

theorem runWord_canonical {w : U32} {s t : State} (h : runWord w s = .next t) (hs : Canonical s) : Canonical t := by
  rcases runWord_next h with rfl | ⟨e, rfl⟩ | ⟨i, -, he⟩
  · exact hs
  · exact hs.of_key rfl hs.dst
  · exact (exec_contained he).canon hs

theorem step_canonical {s t : State} (hs : Canonical s) (h : step s = .next t) : Canonical t := by
  rcases step_next h with ⟨-, rfl⟩ | ⟨m, r, -, h⟩
  · exact hs
  · have hr : Canonical { s with script := r } := hs.of_key rfl hs.dst
    rcases hostMove_next h with ⟨w, -, h⟩ | ⟨p, v, -, rfl⟩ | ⟨a, b, -, h⟩ | ⟨a, b, -, h⟩
    · exact runWord_canonical (issue_next h).1 (hr.of_key rfl hr.dst)
    · exact writeReg_canonical hr p v
    · rcases (placeSrc_next h).2 with ⟨-, rfl⟩ | ⟨-, rfl⟩
      · exact hr
      · exact { hr with src := writeByte_wf _ _ _ hr.src }
    · rcases (placeDst_next h).2 with ⟨-, rfl⟩ | ⟨-, rfl⟩
      · exact hr
      · exact { hr with dst := writeByte_wf _ _ _ hr.dst }

/-- Settles O5: every array is written by operations that keep its canonical form, and every step is made of them. -/
theorem canonicalFormKept : Obligations.CanonicalFormKept :=
  fun _ _ hs h => canonical_iff.mpr (step_canonical (canonical_iff.mp hs) h)

theorem runWord_src {w : U32} {s t : State} (h : runWord w s = .next t) : t.src = s.src := by
  rcases runWord_next h with rfl | ⟨e, rfl⟩ | ⟨i, -, he⟩
  · rfl
  · rfl
  · exact (exec_src he).1

/-- A step changes an SRC byte only where the host places one that no duty guards (70_reset_and_hazards.md R317). -/
theorem step_src_guarded {s t : State} {a : Nat} (h : step s = .next t) (hg : srcGuarded s a) :
    readByte t.src a = readByte s.src a := by
  rcases step_next h with ⟨-, rfl⟩ | ⟨m, r, -, h⟩
  · rfl
  · rcases hostMove_next h with ⟨w, -, h⟩ | ⟨p, v, -, rfl⟩ | ⟨c, b, -, h⟩ | ⟨c, b, -, h⟩
    · rw [runWord_src (issue_next h).1]
    · rw [writeReg_frame]
    · rcases (placeSrc_next h).2 with ⟨-, rfl⟩ | ⟨hd, rfl⟩
      · rfl
      · have hne : a ≠ c.toNat := fun e => srcDuty_eq_none_iff.mp hd (e ▸ hg)
        exact readByte_writeByte_other _ _ hne
    · rcases (placeDst_next h).2 with ⟨-, rfl⟩ | ⟨-, rfl⟩
      · rfl
      · rfl

/-- Settles O10: no command writes SRC, the sizes or the operands, and a byte the host places is none that a duty guards. -/
theorem sourceNeverWritten : Obligations.SourceNeverWritten := by
  refine ⟨fun i s t h => ?_, fun s t a h hg => step_src_guarded h hg⟩
  obtain ⟨hsrc, hss, hds, hsc⟩ := exec_src h
  refine ⟨hsrc, hss, hds, hsc, fun hi => ?_⟩
  have hk := (exec_inRegion hi h).inputs
  simp only [inputKey, Prod.mk.injEq] at hk
  obtain ⟨hc, h0, h1, h2, h3, -⟩ := hk
  exact ⟨hc, h0, h1, h2, h3⟩

/-- A command that `overwritesProduced` lets pass keeps what a decode has produced: its region misses those bytes, or DST
stands still. -/
theorem exec_keeps_produced {i : Instr} {s t : State} {a : Nat} (h : exec i s = .next t) (hi : i ≠ .decBuffer)
    (hk : overwritesProduced i s t = false) (hg : dstGuarded s a) : readByte t.dst a = readByte s.dst a := by
  obtain ⟨hdec, hlo, hhi⟩ := hg
  by_cases hdst : t.dst = s.dst
  · rw [hdst]
  · refine (exec_contained h).outside a fun ⟨hl, hu⟩ => ?_
    have hov : overwritesProduced i s t = true := by
      simp only [overwritesProduced, hdec, Bool.true_and, Bool.and_eq_true, decide_eq_true_eq]
      exact ⟨⟨hi, by omega⟩, hdst⟩
    rw [hov] at hk
    cases hk

theorem issue_keeps_produced {w : U32} {s t : State} {a : Nat} (h : issue w s = .next t) (hw : decode w ≠ .ok .decBuffer)
    (hg : dstGuarded s a) : readByte t.dst a = readByte s.dst a := by
  obtain ⟨hrun, hduty⟩ := issue_next h
  rcases runWord_next hrun with rfl | ⟨e, rfl⟩ | ⟨i, hi, he⟩
  · rfl
  · rfl
  · exact exec_keeps_produced (s := { s with cmd := w }) he (fun e => hw (e ▸ hi)) (hduty i hi) hg

/-- Settles O11: a command stores in its region alone, and a move that would reach what a decode has produced is refused. -/
theorem dstWrittenOnlyInRegion : Obligations.DstWrittenOnlyInRegion := by
  refine ⟨fun i s t h => (exec_contained h).outside, fun s t a h hdec hw hlo hhi => ?_⟩
  have hg : dstGuarded s a := ⟨hdec, hlo, hhi⟩
  rcases step_next h with ⟨-, rfl⟩ | ⟨m, r, hs, h⟩
  · rfl
  · rcases hostMove_next h with ⟨w, rfl, h⟩ | ⟨p, v, -, rfl⟩ | ⟨c, b, -, h⟩ | ⟨c, b, -, h⟩
    · exact issue_keeps_produced (s := { s with script := r }) h (hw w r hs) hg
    · rw [writeReg_frame]
    · rcases (placeSrc_next h).2 with ⟨-, rfl⟩ | ⟨-, rfl⟩
      · rfl
      · rfl
    · rcases (placeDst_next h).2 with ⟨-, rfl⟩ | ⟨hd, rfl⟩
      · rfl
      · have hne : a ≠ c.toNat := fun e => dstDuty_eq_none_iff.mp hd (e ▸ hg)
        exact readByte_writeByte_other _ _ hne

end Sys2Proof.Proofs

namespace Sys2Proof.Proofs

open Sys2Proof Sys2Proof.Machine Sys2Proof.Laws

/-! ## Command words (30_encoding.md R92, R93, R95) -/

/-- Command `i` is well-formed and stands in the row of R93 with this OPC, its word having this SEL and N. -/
structure HasFields (i : Instr) (opc sel n : Nat) : Prop where
  opcode : i.opcode = opc
  selField : i.selField = sel
  nField : i.nField = n
  wf : i.wf = true

/-- What a selector decoder may answer: the selector with code `sel` where `sel ≤ top`, BAD_OPERAND above. -/
inductive SelReads {α : Type} (code : α → Nat) (top sel : Nat) : Except Reject α → Prop where
  | selector (x : α) (hcode : code x = sel) (hle : sel ≤ top) : SelReads code top sel (.ok x)
  | outOfRange (hlt : top < sel) : SelReads code top sel (.error .badOperand)

/-- What the decoder may answer on the three fields of a word whose RSV is 0 (R95). -/
inductive Reads (opc sel n : Nat) : Except Reject Instr → Prop where
  | command {i : Instr} (hmem : opc ∈ assignedOpcodes) (hsel : selLegal opc sel) (hn : nLegal opc n)
      (hi : HasFields i opc sel n) : Reads opc sel n (.ok i)
  | outOfRange (hmem : opc ∈ assignedOpcodes) (hbad : ¬(selLegal opc sel ∧ nLegal opc n)) :
      Reads opc sel n (.error .badOperand)
  | unassigned (hmem : opc ∉ assignedOpcodes) : Reads opc sel n (.error .illegalCommand)

namespace Reads

variable {opc sel n : Nat} {r : Except Reject Instr}

theorem eq_illegal (h : Reads opc sel n r) (ho : opc ∉ assignedOpcodes) : r = .error .illegalCommand := by
  cases h with
  | command hmem => exact absurd hmem ho
  | outOfRange hmem => exact absurd hmem ho
  | unassigned => rfl

theorem eq_badOperand (h : Reads opc sel n r) (ho : opc ∈ assignedOpcodes) (hbad : ¬(selLegal opc sel ∧ nLegal opc n)) :
    r = .error .badOperand := by
  cases h with
  | command _ hsel hn => exact absurd ⟨hsel, hn⟩ hbad
  | outOfRange => rfl
  | unassigned hmem => exact absurd ho hmem

theorem exists_ok (h : Reads opc sel n r) (ho : opc ∈ assignedOpcodes) (hsel : selLegal opc sel) (hn : nLegal opc n) :
    ∃ i, r = .ok i ∧ HasFields i opc sel n := by
  cases h with
  | command _ _ _ hi => exact ⟨_, rfl, hi⟩
  | outOfRange _ hbad => exact absurd ⟨hsel, hn⟩ hbad
  | unassigned hmem => exact absurd ho hmem

theorem hasFields {i : Instr} (h : Reads opc sel n (.ok i)) : HasFields i opc sel n := by
  cases h with
  | command _ _ _ hi => exact hi

end Reads

/-! ### The selectors -/

theorem inSelOf_reads : ∀ sel, SelReads InSel.code 1 sel (inSelOf sel)
  | 0 => .selector InSel.lit rfl (by decide)
  | 1 => .selector InSel.lmd rfl (by decide)
  | _ + 2 => .outOfRange (by omega)

theorem anySelOf_reads : ∀ sel, SelReads Sel.code 3 sel (anySelOf sel)
  | 0 => .selector Sel.l rfl (by decide)
  | 1 => .selector Sel.m rfl (by decide)
  | 2 => .selector Sel.d rfl (by decide)
  | 3 => .selector Sel.lit rfl (by decide)
  | _ + 4 => .outOfRange (by omega)

theorem valSelOf_reads : ∀ sel, SelReads VSel.code 2 sel (valSelOf sel)
  | 0 => .selector VSel.l rfl (by decide)
  | 1 => .selector VSel.m rfl (by decide)
  | 2 => .selector VSel.d rfl (by decide)
  | _ + 3 => .outOfRange (by omega)

/-! ### The forms of a row -/

/-- A row that has one command for each SEL and N it admits. -/
theorem ite_reads {opc sel n : Nat} {i : Instr} {c : Prop} [Decidable c] (hmem : opc ∈ assignedOpcodes)
    (hc : c ↔ selLegal opc sel ∧ nLegal opc n) (hi : c → HasFields i opc sel n) :
    Reads opc sel n (if c then .ok i else .error .badOperand) := by
  split
  · rename_i h
    obtain ⟨hsel, hn⟩ := hc.mp h
    exact .command hmem hsel hn (hi h)
  · rename_i h
    exact .outOfRange hmem (mt hc.mpr h)

theorem plainForm_reads {opc sel n : Nat} {i : Instr} (hmem : opc ∈ assignedOpcodes)
    (hc : (sel = 0 ∧ n = 0) ↔ selLegal opc sel ∧ nLegal opc n) (hi : HasFields i opc 0 0) :
    Reads opc sel n (plainForm sel n i) :=
  ite_reads hmem hc fun ⟨hsel, hn⟩ => hsel ▸ hn ▸ hi

theorem litForm_reads {opc sel n : Nat} {i : Instr} (hmem : opc ∈ assignedOpcodes)
    (hc : (sel = 3 ∧ n = 0) ↔ selLegal opc sel ∧ nLegal opc n) (hi : HasFields i opc 3 0) :
    Reads opc sel n (litForm sel n i) :=
  ite_reads hmem hc fun ⟨hsel, hn⟩ => hsel ▸ hn ▸ hi

theorem pushForm_reads (sel n : Nat) : Reads 0x11 sel n (pushForm sel n) :=
  ite_reads (by decide) Iff.rfl fun ⟨hsel, hn⟩ => ⟨rfl, hsel.symm, rfl, decide_eq_true hn⟩

theorem selForm_reads {α : Type} {code : α → Nat} {top opc sel n : Nat} {r : Except Reject α} {mk : α → Instr}
    (hr : SelReads code top sel r) (hmem : opc ∈ assignedOpcodes)
    (hc : (sel ≤ top ∧ n = 0) ↔ selLegal opc sel ∧ nLegal opc n) (hmk : ∀ x, HasFields (mk x) opc (code x) 0) :
    Reads opc sel n (selForm r n mk) := by
  cases hr with
  | selector x hcode hle =>
    exact ite_reads hmem (by rw [← hc]; simp [hle]) fun hn => hcode ▸ hn ▸ hmk x
  | outOfRange hlt => exact .outOfRange hmem fun h => Nat.not_le.mpr hlt (hc.mpr h).1

theorem pullForm_reads (sel n : Nat) : Reads 0x1A sel n (pullForm sel n) := by
  have hr := inSelOf_reads sel
  unfold pullForm
  generalize inSelOf sel = r at hr
  cases hr with
  | selector x hcode hle =>
    exact ite_reads (by decide) ⟨fun hn => ⟨hle, hn⟩, And.right⟩ fun hn => ⟨rfl, hcode, rfl, decide_eq_true hn⟩
  | outOfRange hlt => exact .outOfRange (by decide) fun ⟨hsel, _⟩ => Nat.not_le.mpr hlt hsel

/-! ### The opcode map -/

/-- The opcode map row by row: each form is that of the SEL and N columns of its OPC. The cases are numbered as the rows of R93;
the rows left to the end are those whose columns both say 0. -/
theorem decodeFields_reads (opc sel n : Nat) : Reads opc sel n (decodeFields opc sel n) := by
  unfold decodeFields
  split
  case h_5 => exact pushForm_reads sel n
  case h_8 | h_9 => exact selForm_reads (inSelOf_reads sel) (by decide) Iff.rfl fun _ => ⟨rfl, rfl, rfl, rfl⟩
  case h_10 => exact pullForm_reads sel n
  case h_11 | h_12 | h_13 | h_17 =>
    exact selForm_reads (anySelOf_reads sel) (by decide) Iff.rfl fun _ => ⟨rfl, rfl, rfl, rfl⟩
  case h_14 | h_18 => exact litForm_reads (by decide) Iff.rfl ⟨rfl, rfl, rfl, rfl⟩
  case h_15 | h_16 | h_19 =>
    exact selForm_reads (valSelOf_reads sel) (by decide) Iff.rfl fun _ => ⟨rfl, rfl, rfl, rfl⟩
  case h_44 => exact .unassigned (by simp_all [assignedOpcodes])
  all_goals exact plainForm_reads (by decide) Iff.rfl ⟨rfl, rfl, rfl, rfl⟩

/-! ### Words -/

theorem decode_of_rsv {w : U32} (h : rsvOf w ≠ 0) : decode w = .error .illegalCommand := if_neg h

theorem decode_of_rsv_zero {w : U32} (h : rsvOf w = 0) : decode w = decodeFields (opcOf w) (selOf w) (nOf w) := if_pos h

theorem decode_unassigned {w : U32} (h : opcOf w ∉ assignedOpcodes) : decode w = .error .illegalCommand := by
  by_cases hr : rsvOf w = 0
  · rw [decode_of_rsv_zero hr]
    exact (decodeFields_reads _ _ _).eq_illegal h
  · exact decode_of_rsv hr

theorem decode_outOfRange {w : U32} (hr : rsvOf w = 0) (hmem : opcOf w ∈ assignedOpcodes)
    (hbad : ¬(selLegal (opcOf w) (selOf w) ∧ nLegal (opcOf w) (nOf w))) : decode w = .error .badOperand := by
  rw [decode_of_rsv_zero hr]
  exact (decodeFields_reads _ _ _).eq_badOperand hmem hbad

theorem decode_legal {w : U32} (hr : rsvOf w = 0) (hmem : opcOf w ∈ assignedOpcodes)
    (hsel : selLegal (opcOf w) (selOf w)) (hn : nLegal (opcOf w) (nOf w)) :
    ∃ i, decode w = .ok i ∧ HasFields i (opcOf w) (selOf w) (nOf w) := by
  rw [decode_of_rsv_zero hr]
  exact (decodeFields_reads _ _ _).exists_ok hmem hsel hn

/-- A word that decodes has RSV 0 and the fields of its command. -/
theorem fields_of_decode {w : U32} {i : Instr} (h : decode w = .ok i) :
    rsvOf w = 0 ∧ HasFields i (opcOf w) (selOf w) (nOf w) := by
  by_cases hr : rsvOf w = 0
  · rw [decode_of_rsv_zero hr] at h
    exact ⟨hr, (h ▸ decodeFields_reads _ _ _).hasFields⟩
  · rw [decode_of_rsv hr] at h
    cases h

/-- The four fields of R92 cover the word. -/
theorem wordOf_fields {w : U32} (h : rsvOf w = 0) : wordOf (opcOf w) (selOf w) (nOf w) = w := by
  apply BitVec.eq_of_toNat_eq
  unfold rsvOf wordField at h
  unfold wordOf opcOf selOf nOf wordField
  rw [BitVec.toNat_ofNat]
  have hw := w.isLt
  omega

/-! ### The faults of R95 -/

theorem runWord_rejected {w : U32} {e : Reject} {s : State} (hr : ready s) (h : decode w = .error e) :
    runWord w s = .next (takeFault (rejectTrap e w) s) := by
  have hign : ignored w s = false := by simp [ignored, hr]
  unfold runWord
  rw [hign, h]
  rfl

/-- R94: identifiers 13 to 15 and 19 on name no array. -/
theorem arrayOfId_reserved {n : Nat} (h : (13 ≤ n ∧ n ≤ 15) ∨ 19 ≤ n) : arrayOfId n = none := by
  unfold arrayOfId
  split
  case h_17 => rfl
  all_goals omega

theorem execStoreArray_reserved {s : State} (hr : ready s) (h : arrayOfId s.arg0.toNat = none) :
    exec .storeArray s = .next (faulted .badOperand 0 s) := by
  simp only [exec, execStoreArray, argNat, h]
  exact command_error hr _

theorem execLoadArray_reserved {s : State} (hr : ready s) (h : arrayOfId s.arg0.toNat = none) :
    exec .loadArray s = .next (faulted .badOperand 0 s) := by
  simp only [exec, execLoadArray, argNat, h]
  exact command_error hr _

/-! ### The obligations -/

/-- Settles O17, command by command (Laws/PerInstr). -/
theorem decodeEncode : Obligations.DecodeEncode
  | .reset => RoundTrip.reset
  | .storeArray => RoundTrip.storeArray
  | .loadArray => RoundTrip.loadArray
  | .outInit => RoundTrip.outInit
  | .outPush n => RoundTrip.outPush n
  | .outFlush => RoundTrip.outFlush
  | .outFinish => RoundTrip.outFinish
  | .inInit sel => RoundTrip.inInit sel
  | .inFlush sel => RoundTrip.inFlush sel
  | .inPull sel n => RoundTrip.inPull sel n
  | .normalize sel => RoundTrip.normalize sel
  | .checkFreq sel => RoundTrip.checkFreq sel
  | .buildEnc sel => RoundTrip.buildEnc sel
  | .buildDec => RoundTrip.buildDec
  | .buildVdec sel => RoundTrip.buildVdec sel
  | .symbolOfValue sel => RoundTrip.symbolOfValue sel
  | .fseEncode sel => RoundTrip.fseEncode sel
  | .fseDecode => RoundTrip.fseDecode
  | .fseVdecode sel => RoundTrip.fseVdecode sel
  | .freqEnc => RoundTrip.freqEnc
  | .freqDec => RoundTrip.freqDec
  | .hdrPack => RoundTrip.hdrPack
  | .hdrUnpack => RoundTrip.hdrUnpack
  | .hdrCheck => RoundTrip.hdrCheck
  | .v1Load => RoundTrip.v1Load
  | .v1Store => RoundTrip.v1Store
  | .decInit => RoundTrip.decInit
  | .decStep => RoundTrip.decStep
  | .decFeed => RoundTrip.decFeed
  | .decGrow => RoundTrip.decGrow
  | .decBuffer => RoundTrip.decBuffer
  | .encInit => RoundTrip.encInit
  | .hash => RoundTrip.hash
  | .encBase => RoundTrip.encBase
  | .encTranslate => RoundTrip.encTranslate
  | .pushLmd => RoundTrip.pushLmd
  | .pushMatch => RoundTrip.pushMatch
  | .backendMatch => RoundTrip.backendMatch
  | .backendLiterals => RoundTrip.backendLiterals
  | .emitBlock => RoundTrip.emitBlock
  | .encFinish => RoundTrip.encFinish
  | .storeRaw => RoundTrip.storeRaw
  | .encBuffer => RoundTrip.encBuffer

/-- Settles O18: the command has the word's fields, and these with RSV = 0 are the whole word. -/
theorem encodeDecode : Obligations.EncodeDecode := by
  intro w i h
  obtain ⟨hr, hopc, hsel, hn, hwf⟩ := fields_of_decode h
  refine ⟨?_, hwf⟩
  calc encode i = wordOf (opcOf w) (selOf w) (nOf w) := by rw [encode, hopc, hsel, hn]
    _ = w := wordOf_fields hr

/-- Settles O19: what a ready core does with each answer of the decoder, and with an identifier that names no array. -/
theorem rejectedWords : Obligations.RejectedWords := by
  refine ⟨fun w s hs h => ?_, fun w s hs hr hmem hbad => ?_, fun s hs h => ?_, fun w hr hmem hsel hn => ?_⟩
  · have hd : decode w = .error .illegalCommand := h.elim decode_of_rsv decode_unassigned
    exact runWord_rejected hs hd
  · exact runWord_rejected hs (decode_outOfRange hr hmem hbad)
  · have hid := arrayOfId_reserved h
    exact ⟨execStoreArray_reserved hs hid, execLoadArray_reserved hs hid⟩
  · obtain ⟨i, hi, hf⟩ := decode_legal hr hmem hsel hn
    exact ⟨i, hi, hf.opcode⟩

/-- Settles O16, by evaluating the decoder on the eight words. -/
theorem wordsFromTable : Obligations.WordsFromTable := by
  unfold Obligations.WordsFromTable
  decide

end Sys2Proof.Proofs

namespace Sys2Proof.Proofs

open Sys2Proof Sys2Proof.Machine Sys2Proof.Laws

/-! ## The bitstream accumulators (40_bitstream.md) -/

/-! ### Numbers in bytes (20_memory.md R73) -/

theorem leValue_append (l r : List U8) : leValue (l ++ r) = leValue l + 2 ^ (8 * l.length) * leValue r := by
  induction l with
  | nil => simp [leValue]
  | cons b l ih =>
    simp only [List.cons_append, leValue, ih, List.length_cons]
    ring

theorem readBytes_add (m : Memory) (a i j : Nat) : readBytes m a (i + j) = readBytes m a i ++ readBytes m (a + i) j := by
  induction i generalizing a with
  | zero => simp [readBytes]
  | succ i ih =>
    rw [Nat.add_right_comm, readBytes, ih, readBytes, List.cons_append, Nat.add_assoc a 1 i, Nat.add_comm 1 i]

theorem memRead_add (m : Memory) (a i j : Nat) :
    memRead m a (i + j) = memRead m a i + 2 ^ (8 * i) * memRead m (a + i) j := by
  simp only [memRead, readBytes_add, leValue_append, readBytes_length]

theorem memRead_lt (m : Memory) (a n : Nat) : memRead m a n < 2 ^ (8 * n) := by
  have h := leValue_lt (readBytes m a n)
  rwa [readBytes_length, show (256 : Nat) = 2 ^ 8 from rfl, ← pow_mul] at h

theorem memRead_of_bytesAt {m : Memory} {a : Nat} {l : List U8} (h : bytesAt m a l) : memRead m a l.length = leValue l := by
  have hl : readBytes m a l.length = l :=
    List.ext_getElem (by simp) fun i _ hi => by rw [readBytes_getElem, h i hi]
  rw [memRead, hl]

/-! ### The output accumulator -/

/-- Where OUT has room for a field, shifting it above the bits held loses nothing (R132). -/
theorem pushed_accum {o : OutAcc} {n b : Nat} (hb : b < 2 ^ n) (h0 : 0 ≤ o.nbits) (h : o.nbits + n ≤ 64) :
    (o.accum ||| BitVec.ofNat 64 (b * 2 ^ o.nbits.toNat)).toNat = o.accum.toNat ||| b * 2 ^ o.nbits.toNat := by
  have hlt : b * 2 ^ o.nbits.toNat < 2 ^ 64 :=
    calc b * 2 ^ o.nbits.toNat < 2 ^ n * 2 ^ o.nbits.toNat := Nat.mul_lt_mul_of_pos_right hb (by positivity)
      _ = 2 ^ (n + o.nbits.toNat) := (pow_add ..).symm
      _ ≤ 2 ^ 64 := Nat.pow_le_pow_right (by decide) (by omega)
  rw [BitVec.toNat_or, BitVec.toNat_ofNat, Nat.mod_eq_of_lt hlt]

/-- The field pushed is the high part of OUT, the bits held before it the low part (R133). -/
theorem pushed_accum_add {o : OutAcc} {n b : Nat} (hb : b < 2 ^ n) (ho : outHeld o) (h : o.nbits + n ≤ 64) :
    (o.accum ||| BitVec.ofNat 64 (b * 2 ^ o.nbits.toNat)).toNat = b * 2 ^ o.nbits.toNat + o.accum.toNat := by
  obtain ⟨h0, -, hacc⟩ := ho
  rw [pushed_accum hb h0 h, mul_comm b, Nat.two_pow_add_eq_or_of_lt hacc, Nat.or_comm]

theorem outFlushed_accum (o : OutAcc) : (outFlushed o).accum.toNat = o.accum.toNat / 2 ^ (8 * outWholeBytes o) :=
  Nat.mod_eq_of_lt (lt_of_le_of_lt (Nat.div_le_self _ _) o.accum.isLt)

theorem leValue_outFlushBytes (o : OutAcc) :
    leValue (outFlushBytes o) = o.accum.toNat % 2 ^ (8 * outWholeBytes o) := by
  rw [outFlushBytes, leValue_leBytes, show (256 : Nat) = 2 ^ 8 from rfl, ← pow_mul]

/-- The bytes of OUT_FINISH hold the whole of OUT (R136). -/
theorem leValue_outFinishBytes {o : OutAcc} (h : outHeld o) : leValue (outFinishBytes o) = o.accum.toNat := by
  obtain ⟨h0, -, hacc⟩ := h
  rw [outFinishBytes, leValue_leBytes, show (256 : Nat) = 2 ^ 8 from rfl, ← pow_mul]
  refine Nat.mod_eq_of_lt (lt_of_lt_of_le hacc (Nat.pow_le_pow_right (by decide) ?_))
  unfold outFinishCount
  omega

/-! ### Stacks of fields

A bit stream is a stack of (width, value) fields: the writer pushes onto it and the reader pulls from it (R131). It is one number,
the top field in the highest bits. -/

/-- The number of bits of a stack of fields. -/
def fieldsWidth : List (Nat × Nat) → Nat
  | [] => 0
  | (n, _) :: g => n + fieldsWidth g

/-- A stack of fields as a number, the first field of the list on top. -/
def fieldsValue : List (Nat × Nat) → Nat
  | [] => 0
  | (_, b) :: g => b * 2 ^ fieldsWidth g + fieldsValue g

/-- Every field fits its width. -/
def FieldsFit (g : List (Nat × Nat)) : Prop := ∀ f ∈ g, f.2 < 2 ^ f.1

theorem fieldsWidth_append (g r : List (Nat × Nat)) : fieldsWidth (g ++ r) = fieldsWidth g + fieldsWidth r := by
  induction g with
  | nil => simp [fieldsWidth]
  | cons f g ih => simp only [List.cons_append, fieldsWidth, ih, Nat.add_assoc]

theorem fieldsValue_append (g r : List (Nat × Nat)) :
    fieldsValue (g ++ r) = fieldsValue g * 2 ^ fieldsWidth r + fieldsValue r := by
  induction g with
  | nil => simp [fieldsValue]
  | cons f g ih =>
    simp only [List.cons_append, fieldsValue, fieldsWidth_append, ih, pow_add]
    ring

theorem fieldsValue_lt {g : List (Nat × Nat)} (h : FieldsFit g) : fieldsValue g < 2 ^ fieldsWidth g := by
  induction g with
  | nil => simp [fieldsValue, fieldsWidth]
  | cons f g ih =>
    obtain ⟨n, b⟩ := f
    obtain ⟨hb, hg⟩ := List.forall_mem_cons.mp h
    calc b * 2 ^ fieldsWidth g + fieldsValue g < b * 2 ^ fieldsWidth g + 2 ^ fieldsWidth g :=
          Nat.add_lt_add_left (ih hg) _
      _ = (b + 1) * 2 ^ fieldsWidth g := by ring
      _ ≤ 2 ^ n * 2 ^ fieldsWidth g := Nat.mul_le_mul_right _ hb
      _ = 2 ^ (n + fieldsWidth g) := (pow_add ..).symm

/-! ### The writer -/

/-- The bytes written and the bits in OUT above them, as one number. -/
def payloadValue (p : Payload) : Nat := leValue p.bytes + 2 ^ (8 * p.bytes.length) * p.out.accum.toNat

/-- A payload between two pushes is the stack `g`, its last few bits still in OUT. -/
structure PayloadHolds (g : List (Nat × Nat)) (p : Payload) : Prop where
  held : outHeld p.out
  few : p.out.nbits ≤ 7
  width : 8 * p.bytes.length + p.out.nbits.toNat = fieldsWidth g
  value : payloadValue p = fieldsValue g

theorem payloadHolds_nil : PayloadHolds [] { bytes := [], out := OutAcc.zero } :=
  ⟨outHeld_zero, by decide, rfl, rfl⟩

/-- OUT_FLUSH moves bytes without changing the stream (R134). -/
theorem payloadValue_flush (p : Payload) : payloadValue (flushPayload p) = payloadValue p := by
  have hlen : (outFlushBytes p.out).length = outWholeBytes p.out := leBytes_length _ _
  have hdiv := Nat.mod_add_div p.out.accum.toNat (2 ^ (8 * outWholeBytes p.out))
  simp only [payloadValue, flushPayload, leValue_append, leValue_outFlushBytes, outFlushed_accum, List.length_append, hlen]
  rw [Nat.mul_add 8, pow_add, mul_assoc, add_assoc, ← mul_add, hdiv]

/-- One push and its flush put the field on the stack (R132, R137). -/
theorem PayloadHolds.push {g : List (Nat × Nat)} {p : Payload} {n b : Nat} (h : PayloadHolds g p) (hn : n ≤ 56)
    (hb : b < 2 ^ n) : ∃ o, outPush p.out n b = .ok o ∧ PayloadHolds ((n, b) :: g) (flushPayload { p with out := o }) := by
  have hfew := h.few
  have hroom : p.out.nbits + n ≤ 64 := by omega
  have hpush := outPush_ok hb h.held.1 hroom
  refine ⟨_, hpush, ?_⟩
  have ho := outPush_held hpush h.held.sound
  obtain ⟨hflushed, hfew⟩ := outFlushed_held ho
  refine ⟨hflushed, hfew, ?_, ?_⟩
  · have hlen : ∀ o : OutAcc, (outFlushBytes o).length = o.nbits.toNat / 8 := fun o => leBytes_length _ _
    have hw := h.width
    have h0 := h.held.1
    simp only [flushPayload, List.length_append, hlen, outFlushed, outWholeBytes, fieldsWidth]
    omega
  · rw [payloadValue_flush, fieldsValue, ← h.width, ← h.value]
    simp only [payloadValue, pushed_accum_add hb h.held hroom]
    ring

/-- Pushing fields with a flush after each stacks them up (R131). -/
theorem writeFields_holds {fs g : List (Nat × Nat)} {p : Payload} (hfs : ∀ f ∈ fs, f.1 ≤ 56 ∧ f.2 < 2 ^ f.1)
    (h : PayloadHolds g p) : ∃ q, writeFields fs p = .ok q ∧ PayloadHolds (fs.reverse ++ g) q := by
  induction fs generalizing g p with
  | nil => exact ⟨p, rfl, h⟩
  | cons f fs ih =>
    obtain ⟨n, b⟩ := f
    obtain ⟨⟨hn, hb⟩, hfs⟩ := List.forall_mem_cons.mp hfs
    obtain ⟨o, hpush, ho⟩ := h.push hn hb
    obtain ⟨q, hq, hqh⟩ := ih hfs ho
    refine ⟨q, by rw [writeFields, hpush]; exact hq, by simpa using hqh⟩

/-- After OUT_FINISH the bytes are the stack, under as many zero bits as OUT counts below 0 (R136). -/
theorem PayloadHolds.finish {g : List (Nat × Nat)} {p : Payload} (h : PayloadHolds g p) :
    leValue (finishPayload p).bytes = fieldsValue g ∧
    8 * ((finishPayload p).bytes.length : Int) + (finishPayload p).out.nbits = fieldsWidth g ∧
    -7 ≤ (finishPayload p).out.nbits ∧ (finishPayload p).out.nbits ≤ 0 := by
  have hlen : (outFinishBytes p.out).length = outFinishCount p.out := leBytes_length _ _
  have hc : outFinishCount p.out = (p.out.nbits.toNat + 7) / 8 := rfl
  have hw := h.width
  have h0 := h.held.1
  simp only [finishPayload, leValue_append, leValue_outFinishBytes h.held, List.length_append, hlen, outFinished]
  exact ⟨h.value, by omega, by omega, by omega⟩

/-! ### The input accumulators -/

/-- What IN_FLUSH makes of a stream: the `(63 - nbits) / 8` bytes below it taken in (R141). -/
structure Refilled (m : Memory) (x y : InAcc) : Prop where
  nbits : y.nbits = x.nbits + 8 * ((63 - x.nbits) / 8)
  pos : y.pos.toNat = x.pos.toNat - (63 - x.nbits) / 8
  lo : y.lo = x.lo
  valid : y.valid = x.valid
  accum : y.accum.toNat = x.accum.toNat * 2 ^ (8 * ((63 - x.nbits) / 8)) +
    memRead m (x.pos.toNat - (63 - x.nbits) / 8) ((63 - x.nbits) / 8)

theorem inFlush_refilled {m : Memory} {x : InAcc} (hv : x.valid = true) (hs : inSound x)
    (h : x.lo.toNat + (63 - x.nbits) / 8 ≤ x.pos.toNat) : ∃ y, inFlush m x = some y ∧ Refilled m x y := by
  refine ⟨_, inFlush_some h, rfl, ?_, rfl, rfl, ?_⟩
  · exact Nat.mod_eq_of_lt (lt_of_le_of_lt (Nat.sub_le _ _) x.pos.isLt)
  · obtain ⟨hn, hacc⟩ := hs
    rw [BitVec.toNat_ofNat]
    generalize hc : (63 - x.nbits) / 8 = c
    have hm := memRead_lt m (x.pos.toNat - c) c
    refine Nat.mod_eq_of_lt ?_
    calc x.accum.toNat * 2 ^ (8 * c) + memRead m (x.pos.toNat - c) c
        < (x.accum.toNat + 1) * 2 ^ (8 * c) := by linarith
      _ ≤ 2 ^ x.nbits * 2 ^ (8 * c) := Nat.mul_le_mul_right _ (hacc hv)
      _ = 2 ^ (x.nbits + 8 * c) := (pow_add ..).symm
      _ ≤ 2 ^ 64 := Nat.pow_le_pow_right (by decide) (by omega)

/-- The bytes that IN_INIT loads (R139). -/
def loadCount (n : Int) : Nat := if n = 0 then 7 else 8

/-- The bits of them that are the stream's (R139). -/
def loadBits (n : Int) : Nat := if n = 0 then 56 else (64 + n).toNat

/-- The loaded bits and the unused ones make up the bytes. -/
theorem loadBits_eq {n : Int} (hl : -7 ≤ n) (hu : n ≤ 0) : (loadBits n : Int) = 8 * loadCount n + n ∧ loadBits n ≤ 63 := by
  unfold loadBits loadCount
  split <;> omega

theorem inInit_outside {m : Memory} {x : InAcc} {n : Int} {stop lo : Nat} (h : n < -7 ∨ 0 < n) :
    inInit m x n stop lo = (false, inInvalid x) := if_pos h

theorem inInit_load {m : Memory} {x : InAcc} {n : Int} {stop lo : Nat} (hl : -7 ≤ n) (hu : n ≤ 0) :
    inInit m x n stop lo = inLoad m x stop lo (loadCount n) (loadBits n) := by
  unfold inInit loadCount loadBits
  rw [if_neg (by omega)]
  by_cases h : n = 0
  · rw [if_neg (not_not.mpr h), if_pos h, if_pos h]
  · rw [if_pos h, if_neg h, if_neg h]

theorem inLoad_short {m : Memory} {x : InAcc} {stop lo c b : Nat} (h : stop < lo + c) :
    inLoad m x stop lo c b = (false, inInvalid x) := if_pos h

theorem inLoad_topBits {m : Memory} {x : InAcc} {stop lo c b : Nat} (h : lo + c ≤ stop)
    (hv : 2 ^ b ≤ memRead m (stop - c) c) :
    inLoad m x stop lo c b = (false, ⟨nat64 (memRead m (stop - c) c), b, nat64 (stop - c), x.lo, false⟩) := by
  have hd : memRead m (stop - c) c / 2 ^ b ≠ 0 := fun h => absurd (Nat.lt_of_div_eq_zero (by positivity) h) (by omega)
  unfold inLoad
  rw [if_neg (by omega)]
  exact if_neg hd

theorem inLoad_ok {m : Memory} {x : InAcc} {stop lo c b : Nat} (h : lo + c ≤ stop) (hv : memRead m (stop - c) c < 2 ^ b) :
    inLoad m x stop lo c b = (true, ⟨nat64 (memRead m (stop - c) c), b, nat64 (stop - c), nat64 lo, true⟩) := by
  unfold inLoad
  rw [if_neg (by omega)]
  exact if_pos (Nat.div_eq_of_lt hv)

/-! ### The reader -/

/-- The bits loaded and the bytes of the stream below them are the stack `g` (R138). -/
structure StreamHolds (m : Memory) (g : List (Nat × Nat)) (x : InAcc) : Prop where
  valid : x.valid = true
  sound : inSound x
  lo_le : x.lo.toNat ≤ x.pos.toNat
  width : x.nbits + 8 * (x.pos.toNat - x.lo.toNat) = fieldsWidth g
  value : x.accum.toNat * 2 ^ (8 * (x.pos.toNat - x.lo.toNat)) + memRead m x.lo.toNat (x.pos.toNat - x.lo.toNat) =
    fieldsValue g

/-- Over 64 bits or more, a refill finds its bytes and leaves at least 56 bits loaded (R141). -/
theorem StreamHolds.flush {m : Memory} {g : List (Nat × Nat)} {x : InAcc} (h : StreamHolds m g x)
    (hw : 64 ≤ fieldsWidth g) : ∃ y, inFlush m x = some y ∧ StreamHolds m g y ∧ 56 ≤ y.nbits := by
  obtain ⟨hv, hs, hlo, hwidth, hvalue⟩ := h
  have hn := hs.1
  obtain ⟨y, hy, hr⟩ := inFlush_refilled (m := m) hv hs (by omega)
  have hsum : x.pos.toNat - x.lo.toNat = (y.pos.toNat - x.lo.toNat) + (63 - x.nbits) / 8 := by
    rw [hr.pos]
    omega
  have hstart : x.lo.toNat + (y.pos.toNat - x.lo.toNat) = x.pos.toNat - (63 - x.nbits) / 8 := by
    rw [hr.pos]
    omega
  refine ⟨y, hy, ⟨hr.valid.trans hv, inFlush_sound hy hs, ?_, ?_, ?_⟩, ?_⟩
  · rw [hr.lo, hr.pos]
    omega
  · rw [hr.lo, hr.nbits]
    omega
  · rw [← hvalue, hsum, memRead_add, hstart, hr.lo, hr.accum, Nat.mul_add 8, pow_add]
    ring
  · rw [hr.nbits]
    omega

/-- One number cut in two ways, into `a` over the digit `low` and into `b` over `v`: `b` is what `a` has above its low `k` bits. -/
theorem topField_eq {a low b v k q : Nat} (hlow : low < q) (hv : v < 2 ^ k * q) (h : a * q + low = b * (2 ^ k * q) + v) :
    a / 2 ^ k = b ∧ a % 2 ^ k * q + low = v := by
  have hq : 0 < q := by omega
  have ha : a = v / q + 2 ^ k * b := by
    calc a = (low + q * a) / q := by rw [Nat.add_mul_div_left _ _ hq, Nat.div_eq_of_lt hlow, Nat.zero_add]
      _ = (v + q * (2 ^ k * b)) / q := congrArg (· / q) (by linarith)
      _ = v / q + 2 ^ k * b := Nat.add_mul_div_left _ _ hq
  have hvq : v / q < 2 ^ k := (Nat.div_lt_iff_lt_mul hq).mpr hv
  have hb : a / 2 ^ k = b := by rw [ha, Nat.add_mul_div_left _ _ (by positivity), Nat.div_eq_of_lt hvq, Nat.zero_add]
  refine ⟨hb, ?_⟩
  have hmod := Nat.mod_add_div a (2 ^ k)
  rw [hb] at hmod
  rw [← hmod] at h
  linarith

/-- A pull of the top field's width takes that field off the stack (R143, R144). -/
theorem StreamHolds.pull {m : Memory} {g : List (Nat × Nat)} {n b : Nat} {x : InAcc} (h : StreamHolds m ((n, b) :: g) x)
    (hg : FieldsFit g) (hn : n ≤ x.nbits) : ∃ y, inPull x n = .ok (b, y) ∧ StreamHolds m g y := by
  obtain ⟨hv, hs, hlo, hwidth, hvalue⟩ := h
  have hk : fieldsWidth g = (x.nbits - n) + 8 * (x.pos.toNat - x.lo.toNat) := by
    rw [fieldsWidth] at hwidth
    omega
  have hlt := fieldsValue_lt hg
  rw [fieldsValue, hk, pow_add] at hvalue
  rw [hk, pow_add] at hlt
  obtain ⟨hb, hrest⟩ := topField_eq (memRead_lt m _ _) hlt hvalue
  have hpull := inPull_ok hv hn
  rw [hb] at hpull
  have hacc : x.accum.toNat % 2 ^ (x.nbits - n) < 2 ^ 64 := lt_of_le_of_lt (Nat.mod_le _ _) x.accum.isLt
  refine ⟨_, hpull, ⟨hv, inPull_sound hpull hs, hlo, hk.symm, ?_⟩⟩
  rw [BitVec.toNat_ofNat, Nat.mod_eq_of_lt hacc]
  exact hrest

/-- Refills and pulls of the widths of a stack's fields give the fields, as long as 64 bits stand below them (R131, R144). -/
theorem readFields_holds {m : Memory} {g r : List (Nat × Nat)} {x : InAcc} (h : StreamHolds m (g ++ r) x)
    (hg : ∀ f ∈ g, f.1 ≤ 56) (hfit : FieldsFit (g ++ r)) (hr : 64 ≤ fieldsWidth r) :
    readFields m (g.map Prod.fst) x = some (g.map Prod.snd) := by
  induction g generalizing x with
  | nil => rfl
  | cons f g ih =>
    obtain ⟨n, b⟩ := f
    obtain ⟨hn, hg⟩ := List.forall_mem_cons.mp hg
    obtain ⟨-, hfit⟩ := List.forall_mem_cons.mp hfit
    obtain ⟨y, hflush, hy, h56⟩ := h.flush (by rw [fieldsWidth_append]; omega)
    obtain ⟨z, hpull, hz⟩ := hy.pull hfit (le_trans hn h56)
    simp only [List.map_cons, readFields, hflush, hpull, ih hz hg hfit]

/-- IN_INIT opens a stack of at least 64 bits that ends `n` bits above the last byte (R139, R144). -/
theorem inInit_holds {m : Memory} {g : List (Nat × Nat)} (x : InAcc) {n : Int} {stop lo : Nat} (hl : -7 ≤ n) (hu : n ≤ 0)
    (hlo : lo + 8 ≤ stop) (hstop : stop < 2 ^ 64) (hfit : FieldsFit g) (hw : 8 * ((stop - lo : Nat) : Int) + n = fieldsWidth g)
    (hv : memRead m lo (stop - lo) = fieldsValue g) :
    ∃ y, inInit m x n stop lo = (true, y) ∧ StreamHolds m g y := by
  obtain ⟨hb, hb63⟩ := loadBits_eq hl hu
  have hc : loadCount n ≤ 8 := by
    unfold loadCount
    split <;> omega
  rw [inInit_load hl hu]
  generalize loadCount n = c at *
  generalize loadBits n = b at *
  obtain ⟨q, rfl⟩ : ∃ q, stop = lo + q + c := ⟨stop - lo - c, by omega⟩
  have hwidth : fieldsWidth g = b + 8 * q := by omega
  rw [show lo + q + c - lo = q + c by omega, memRead_add] at hv
  have hlt := fieldsValue_lt hfit
  rw [← hv, hwidth, pow_add] at hlt
  have htop : memRead m (lo + q) c < 2 ^ b := by
    refine lt_of_mul_lt_mul_left ?_ (Nat.zero_le (2 ^ (8 * q)))
    linarith
  have hacc : (nat64 (memRead m (lo + q) c)).toNat = memRead m (lo + q) c :=
    Nat.mod_eq_of_lt (lt_of_lt_of_le htop (Nat.pow_le_pow_right (by decide) (by omega)))
  have hpos : (nat64 (lo + q)).toNat = lo + q := Nat.mod_eq_of_lt (by omega)
  have hlo' : (nat64 lo).toNat = lo := Nat.mod_eq_of_lt (by omega)
  refine ⟨_, inLoad_ok (by omega) (by rwa [Nat.add_sub_cancel]), rfl, ⟨hb63, fun _ => ?_⟩, ?_, ?_, ?_⟩
  all_goals simp only [Nat.add_sub_cancel, Nat.add_sub_cancel_left, hacc, hpos, hlo']
  · exact htop
  · omega
  · exact hwidth.symm
  · linarith

/-- The n bytes from index `a` on as one field of a stack. -/
def bytesField (m : Memory) (a n : Nat) : Nat × Nat := (8 * n, memRead m a n)

@[simp] theorem fieldsWidth_bytesField (m : Memory) (a n : Nat) : fieldsWidth [bytesField m a n] = 8 * n := rfl

@[simp] theorem fieldsValue_bytesField (m : Memory) (a n : Nat) : fieldsValue [bytesField m a n] = memRead m a n := by
  simp [fieldsValue, fieldsWidth, bytesField]

/-- Settles O26: the stack that the writer leaves in the bytes, over one field for the bytes below them, is the one that IN_INIT opens. -/
theorem bitstreamRoundTrip : Obligations.BitstreamRoundTrip := by
  intro fs hfs
  obtain ⟨p, hp, hheld⟩ := writeFields_holds hfs payloadHolds_nil
  rw [List.append_nil] at hheld
  refine ⟨p, hp, fun m x a lo hlo hend hbytes => ?_⟩
  obtain ⟨hvalue, hwidth, hl, hu⟩ := hheld.finish
  generalize (finishPayload p).out.nbits = n at *
  generalize (finishPayload p).bytes = l at *
  have hfit : FieldsFit (fs.reverse ++ [bytesField m lo (a - lo)]) := by
    intro f hf
    rcases List.mem_append.mp hf with hf | hf
    · exact (hfs f (List.mem_reverse.mp hf)).2
    · rw [List.mem_singleton.mp hf]
      exact memRead_lt _ _ _
  have hread : memRead m lo (a + l.length - lo) = fieldsValue (fs.reverse ++ [bytesField m lo (a - lo)]) := by
    rw [show a + l.length - lo = (a - lo) + l.length by omega, memRead_add, show lo + (a - lo) = a by omega,
      memRead_of_bytesAt hbytes, hvalue, fieldsValue_append, fieldsWidth_bytesField, fieldsValue_bytesField]
    ring
  have hbits : 8 * ((a + l.length - lo : Nat) : Int) + n = fieldsWidth (fs.reverse ++ [bytesField m lo (a - lo)]) := by
    rw [fieldsWidth_append, fieldsWidth_bytesField]
    omega
  obtain ⟨y, hinit, hy⟩ := inInit_holds x hl hu (by omega) hend hfit hbits hread
  refine ⟨y, hinit, readFields_holds hy (fun f hf => (hfs f (List.mem_reverse.mp hf)).1) hfit ?_⟩
  rw [fieldsWidth_bytesField]
  omega

/-! ### The commands on OUT (R130 to R136) -/

/-- How OUT_PUSH ends, by the answer of its body. -/
def pushEnd (s : State) : Except Trap OutAcc → State
  | .error t => takeFault t s
  | .ok o => { s with out := o, res0 := word64 o.nbits, status := .ok }

theorem exec_outPush_wide {s : State} {n : Nat} (hr : ready s) (hn : 64 < n) :
    exec (.outPush n) s = .next (faulted .badOperand s.cmd.toNat s) := by
  show execOutPush n s = _
  rw [execOutPush, raiseIf_pos (decide_eq_true hn), command_error hr]
  rfl

theorem exec_outPush_field {s : State} {n : Nat} (hr : ready s) (hn : n ≤ 64) :
    exec (.outPush n) s = .next (pushEnd s (outPush s.out n s.arg0.toNat)) := by
  show execOutPush n s = _
  rw [execOutPush, raiseIf_neg (decide_eq_false (Nat.not_lt.mpr hn)), argNat]
  cases outPush s.out n s.arg0.toNat with
  | error t => exact command_error hr t
  | ok o => exact command_ok hr _ _

/-- Settles O22, by the order in which R132 tests the operand, the count and the room. -/
theorem outInitPushOutcomes : Obligations.OutInitPushOutcomes := by
  intro s hr
  refine ⟨command_ok hr _ _, fun n => ⟨exec_outPush_wide hr, fun hn hb => ?_, fun hn hb h0 => ?_, fun hn hb h0 h64 => ?_,
    fun hb h0 h64 => ?_⟩⟩
  · rw [exec_outPush_field hr hn, outPush_wide hb]
    rfl
  · rw [exec_outPush_field hr hn, outPush_invalid hb h0]
    rfl
  · rw [exec_outPush_field hr hn, outPush_overflow hb h0 h64]
    rfl
  · rw [exec_outPush_field hr (by omega), outPush_ok hb h0 h64]
    exact ⟨_, rfl, rfl, rfl, pushed_accum hb h0 h64⟩

/-- What OUT_FLUSH and OUT_FINISH share: their faults, and storing the `k` low bytes of OUT, which becomes `o`, with RES0 = `r`. -/
def drainOut (k : Nat) (o : OutAcc) (r : U64) (s : State) : Host.Outcome State Fault Refusal :=
  command s <|
    raiseIf (decide (s.out.nbits < 0)) .streamInvalid 0 <|
    raiseOpt (dstCursorFault s) <|
    if s.cur.dstEnd.toNat < s.cur.dstPos.toNat + k then .ok (.dstFull, s)
    else .ok (.ok, { storeAtDstPos (leBytes k s.out.accum.toNat) s with out := o, res0 := r })

theorem exec_outFlush (s : State) :
    exec .outFlush s = drainOut (outWholeBytes s.out) (outFlushed s.out) (nat64 (outWholeBytes s.out)) s := rfl

theorem exec_outFinish (s : State) :
    exec .outFinish s = drainOut (outFinishCount s.out) (outFinished s.out) (word64 (outFinished s.out).nbits) s := rfl

theorem outFlushed_eq (o : OutAcc) :
    outFlushed o = { accum := o.accum >>> (8 * outWholeBytes o), nbits := o.nbits - 8 * (outWholeBytes o : Int) } := by
  have haccum : (outFlushed o).accum = o.accum >>> (8 * outWholeBytes o) := by
    apply BitVec.eq_of_toNat_eq
    rw [outFlushed_accum, BitVec.toNat_ushiftRight, Nat.shiftRight_eq_div_pow]
  rw [← haccum]
  rfl

section DrainOut

variable {s : State} {k : Nat} {o : OutAcc} {r : U64}

theorem drainOut_invalid (hr : ready s) (h : s.out.nbits < 0) : drainOut k o r s = .next (faulted .streamInvalid 0 s) := by
  rw [drainOut, raiseIf_pos (decide_eq_true h), command_error hr]
  rfl

theorem drainOut_badCursor (hr : ready s) (h0 : 0 ≤ s.out.nbits) (hd : ¬dstOk s) :
    ∃ j ∈ [3, 4, 5], drainOut k o r s = .next (faulted .badCursor j s) := by
  obtain ⟨j, hj, e⟩ := dstCursorFault_some hd
  refine ⟨j, hj, ?_⟩
  rw [drainOut, raiseIf_neg (decide_eq_false (Int.not_lt.mpr h0)), e, raiseOpt_some, command_error hr]
  rfl

theorem drainOut_full (hr : ready s) (h0 : 0 ≤ s.out.nbits) (hd : dstOk s)
    (h : s.cur.dstEnd.toNat < s.cur.dstPos.toNat + k) : drainOut k o r s = .next { s with status := .dstFull } := by
  rw [drainOut, raiseIf_neg (decide_eq_false (Int.not_lt.mpr h0)), dstCursorFault_none hd, raiseOpt_none, if_pos h,
    command_ok hr]

theorem drainOut_stored (hr : ready s) (h0 : 0 ≤ s.out.nbits) (hd : dstOk s)
    (h : s.cur.dstPos.toNat + k ≤ s.cur.dstEnd.toNat) :
    ∃ t, drainOut k o r s = .next t ∧
      t = { s with
        dst := t.dst, freeTag := t.freeTag, cur := { s.cur with dstPos := BitVec.ofNat 64 (s.cur.dstPos.toNat + k) },
        out := o, res0 := r, status := .ok } ∧
      bytesAt t.dst s.cur.dstPos.toNat (leBytes k s.out.accum.toNat) ∧
      sameOutside s.cur.dstPos.toNat s.cur.dstEnd.toNat s.dst t.dst := by
  have hlen : (leBytes k s.out.accum.toNat).length = k := leBytes_length _ _
  refine ⟨{ storeAtDstPos (leBytes k s.out.accum.toNat) s with out := o, res0 := r, status := .ok }, ?_, ?_, ?_, ?_⟩
  · rw [drainOut, raiseIf_neg (decide_eq_false (Int.not_lt.mpr h0)), dstCursorFault_none hd, raiseOpt_none,
      if_neg (Nat.not_lt.mpr h), command_ok hr]
  · rw [storeAtDstPos_eq, hlen]
  · exact storeAtDstPos_bytes _ _
  · exact storeAtDstPos_outside _ _ (by rwa [hlen])

end DrainOut

/-- Settles O23: both commands drain OUT, each with its own number of bytes. -/
theorem outFlushFinishOutcomes : Obligations.OutFlushFinishOutcomes := by
  intro s hr
  rw [exec_outFlush, exec_outFinish, outFlushed_eq]
  exact ⟨fun h => ⟨drainOut_invalid hr h, drainOut_invalid hr h⟩,
    fun h0 hd => ⟨drainOut_badCursor hr h0 hd, drainOut_badCursor hr h0 hd⟩,
    fun h0 hd => ⟨drainOut_full hr h0 hd, drainOut_stored hr h0 hd, drainOut_full hr h0 hd, drainOut_stored hr h0 hd⟩⟩

/-! ### The commands on IN[SEL] (R139 to R143) -/

/-- A command on IN[1] while a block is open, whatever it would do (R64). -/
theorem command_inBusy {s : State} (hr : ready s) (hopen : compressedOpen s = true) (opc : Nat)
    (b : Except Trap (Status × State)) : command s (raiseInBusy s .lmd opc b) = .next (faulted .resourceBusy opc s) := by
  rw [raiseInBusy, raiseBusy_open hopen, command_error hr, takeFault_nat]

/-- How IN_INIT ends, by the answer of its body. -/
def inInitEnd (sel : InSel) (s : State) : Bool × InAcc → State
  | (true, x) => { (s.withInAcc sel x).withRes0 (nat64 x.nbits) with status := .ok }
  | (false, x) => { s.withInAcc sel x with status := .error }

/-- How IN_FLUSH ends, by the answer of its body. -/
def inFlushEnd (sel : InSel) (s : State) : Option InAcc → State
  | none => { s with status := .error }
  | some x => { (s.withInAcc sel x).withRes0 (nat64 x.nbits) with status := .ok }

/-- How IN_PULL ends, by the answer of its body. -/
def inPullEnd (sel : InSel) (s : State) : Except Trap (Nat × InAcc) → State
  | .error t => takeFault t s
  | .ok (v, x) => { (s.withInAcc sel x).withRes0 (nat64 v) with status := .ok }

section InCommands

variable {s : State} {sel : InSel}

theorem exec_inInit_badCursor (hr : ready s) (hfree : sel = .lit ∨ compressedOpen s = false) (hc : ¬srcOk s) :
    ∃ k ∈ [0, 1, 2], exec (.inInit sel) s = .next (faulted .badCursor k s) := by
  obtain ⟨k, hk, e⟩ := srcCursorFault_some hc
  refine ⟨k, hk, ?_⟩
  show execInInit sel s = _
  rw [execInInit, raiseInBusy_free hfree, e, raiseOpt_some, command_error hr]
  rfl

theorem exec_inInit_outside (hr : ready s) (hfree : sel = .lit ∨ compressedOpen s = false) (hc : srcOk s)
    (h : ¬(s.cur.srcBegin.toNat ≤ s.arg2.toNat ∧ s.arg2.toNat ≤ s.arg1.toNat ∧ s.arg1.toNat ≤ s.cur.srcEnd.toNat)) :
    exec (.inInit sel) s = .next (faulted .badOperand 2 s) := by
  show execInInit sel s = _
  rw [execInInit, raiseInBusy_free hfree, srcCursorFault_none hc, raiseOpt_none]
  dsimp only [argNat]
  rw [raiseIf_pos (by rw [decide_eq_false h]; rfl), command_error hr]
  rfl

theorem exec_inInit_region (hr : ready s) (hfree : sel = .lit ∨ compressedOpen s = false) (hc : srcOk s)
    (h : s.cur.srcBegin.toNat ≤ s.arg2.toNat ∧ s.arg2.toNat ≤ s.arg1.toNat ∧ s.arg1.toNat ≤ s.cur.srcEnd.toNat) :
    exec (.inInit sel) s =
      .next (inInitEnd sel s (inInit s.src (s.inAcc sel) s.arg0.toInt s.arg1.toNat s.arg2.toNat)) := by
  show execInInit sel s = _
  rw [execInInit, raiseInBusy_free hfree, srcCursorFault_none hc, raiseOpt_none]
  dsimp only [argNat, argInt]
  rw [raiseIf_neg (by rw [decide_eq_true h]; rfl)]
  generalize inInit s.src (s.inAcc sel) s.arg0.toInt s.arg1.toNat s.arg2.toNat = a
  obtain ⟨ok, x⟩ := a
  cases ok <;> exact command_ok hr _ _

theorem exec_inFlush_invalid (hr : ready s) (hfree : sel = .lit ∨ compressedOpen s = false)
    (hv : (s.inAcc sel).valid = false) : exec (.inFlush sel) s = .next (faulted .streamInvalid 0 s) := by
  show execInFlush sel s = _
  rw [execInFlush, raiseInBusy_free hfree, raiseIf_pos (by rw [hv]; rfl), command_error hr]
  rfl

theorem exec_inFlush_valid (hr : ready s) (hfree : sel = .lit ∨ compressedOpen s = false)
    (hv : (s.inAcc sel).valid = true) :
    exec (.inFlush sel) s = .next (inFlushEnd sel s (inFlush s.src (s.inAcc sel))) := by
  show execInFlush sel s = _
  rw [execInFlush, raiseInBusy_free hfree, raiseIf_neg (by rw [hv]; rfl)]
  cases inFlush s.src (s.inAcc sel) <;> exact command_ok hr _ _

theorem exec_inPull_free (hr : ready s) (hfree : sel = .lit ∨ compressedOpen s = false) (n : Nat) :
    exec (.inPull sel n) s = .next (inPullEnd sel s (inPull (s.inAcc sel) n)) := by
  show execInPull sel n s = _
  rw [execInPull, raiseInBusy_free hfree]
  cases inPull (s.inAcc sel) n with
  | error t => exact command_error hr t
  | ok a => exact command_ok hr _ _

end InCommands

theorem nat64_toNat (v : U64) : nat64 v.toNat = v := by
  rw [nat64, BitVec.ofNat_toNat, BitVec.setWidth_eq]

/-- Settles O24, by R139's tests in order: the interlock, the cursors, the region, then the body of IN_INIT. -/
theorem inInitOutcomes : Obligations.InInitOutcomes := by
  intro sel s hr
  refine ⟨fun hsel hopen => ?_, fun hfree => ?_⟩
  · subst hsel
    exact command_inBusy hr hopen _ _
  · refine ⟨exec_inInit_badCursor hr hfree, exec_inInit_outside hr hfree, fun hc hreg h => ?_,
      fun hc hreg hl hu hroom hv => ?_, fun hc hreg hl hu hroom hv => ?_⟩
    · rw [exec_inInit_region hr hfree hc hreg]
      by_cases hn : s.arg0.toInt < -7 ∨ 0 < s.arg0.toInt
      · rw [inInit_outside hn]
        rfl
      · have hshort : s.arg1.toNat < s.arg2.toNat + loadCount s.arg0.toInt :=
          (or_assoc.mpr h).resolve_left hn
        rw [inInit_load (by omega) (by omega), inLoad_short hshort]
        rfl
    · rw [exec_inInit_region hr hfree hc hreg, inInit_load hl hu,
        inLoad_topBits (c := loadCount s.arg0.toInt) (b := loadBits s.arg0.toInt) hroom hv]
      rfl
    · rw [exec_inInit_region hr hfree hc hreg, inInit_load hl hu,
        inLoad_ok (c := loadCount s.arg0.toInt) (b := loadBits s.arg0.toInt) hroom hv, nat64_toNat]
      rfl

theorem nat64_div_two_pow (v : U64) (k : Nat) : nat64 (v.toNat / 2 ^ k) = v >>> k := by
  apply BitVec.eq_of_toNat_eq
  rw [BitVec.toNat_ushiftRight, Nat.shiftRight_eq_div_pow]
  exact Nat.mod_eq_of_lt (lt_of_le_of_lt (Nat.div_le_self _ _) v.isLt)

theorem ofNat_mod_two_pow (v : U64) (k : Nat) :
    BitVec.ofNat 64 (v.toNat % 2 ^ k) = v &&& BitVec.ofNat 64 (2 ^ k - 1) := by
  rw [← Nat.and_two_pow_sub_one_eq_mod, BitVec.ofNat_and, BitVec.ofNat_toNat, BitVec.setWidth_eq]

/-- Settles O25: the interlock and VALID first, then the bodies of IN_FLUSH and IN_PULL. -/
theorem inFlushPullOutcomes : Obligations.InFlushPullOutcomes := by
  intro sel s hr
  refine ⟨fun hsel hopen => ?_, fun hfree => ?_⟩
  · subst hsel
    exact ⟨command_inBusy hr hopen _ _, fun n => command_inBusy hr hopen _ _⟩
  · refine ⟨fun hv => ⟨exec_inFlush_invalid hr hfree hv, fun n => ?_⟩, fun hv hshort => ?_, fun hv hs hroom => ?_,
      fun n => ⟨fun hv hn => ?_, fun hv hn => ?_⟩⟩
    · rw [exec_inPull_free hr hfree, inPull_invalid hv]
      rfl
    · rw [exec_inFlush_valid hr hfree hv, inFlush_none hshort]
      rfl
    · obtain ⟨y, hy, hfill⟩ := inFlush_refilled (m := s.src) hv hs hroom
      have hn := hs.1
      have hbits := hfill.nbits
      refine ⟨y, ?_, hbits, by omega, by omega, hfill.pos, hfill.lo, hfill.valid.trans hv, hfill.accum⟩
      rw [exec_inFlush_valid hr hfree hv, hy]
      rfl
    · rw [exec_inPull_free hr hfree, inPull_underflow hv hn]
      rfl
    · rw [exec_inPull_free hr hfree, inPull_ok hv hn, ofNat_mod_two_pow, inPullEnd, nat64_div_two_pow]
      rfl

end Sys2Proof.Proofs

namespace Sys2Proof.Proofs

open Sys2Proof Sys2Proof.Machine Sys2Proof.Laws

/-! ## The FSE table engine (41_fse_tables.md) -/

/-! ### The tables as lists (10_state.md R41, R42) -/

/-- A function that adds one term at each step is the sum of the terms below. -/
theorem eq_sum_range {B g : Nat → Nat} (h0 : B 0 = 0) (hs : ∀ i, B (i + 1) = B i + g i) (i : Nat) :
    B i = ((List.range i).map g).sum := by
  induction i with
  | zero => exact h0
  | succ i ih => rw [hs, ih, List.sum_range_succ]

section TableLists

variable (s : State) (sel : Sel)

theorem freqList_eq : s.freqList sel = (List.range (nsym sel)).map (freqAt s sel) := List.map_map

theorem occList_eq : s.occList sel = (List.range (nsym sel)).map (occAt s sel) := List.map_map

theorem freqBefore_eq (i : Nat) : freqBefore s sel i = ((List.range i).map (freqAt s sel)).sum :=
  eq_sum_range rfl (fun _ => rfl) i

theorem freqTotal_eq : freqTotal s sel = (s.freqList sel).sum := by
  rw [freqList_eq, freqTotal, freqBefore_eq]

theorem occTotal_eq : occTotal s sel = (s.occList sel).sum := by
  rw [occList_eq, occTotal]
  exact eq_sum_range rfl (fun _ => rfl) _

@[simp] theorem freqList_length : (s.freqList sel).length = nsym sel := by simp [freqList_eq]

@[simp] theorem occList_length : (s.occList sel).length = nsym sel := by simp [occList_eq]

variable {s sel} {i : Nat}

theorem freqList_getD (h : i < nsym sel) : (s.freqList sel).getD i 0 = freqAt s sel i := by
  simp [freqList_eq, h]

theorem occList_getD (h : i < nsym sel) : (s.occList sel).getD i 0 = occAt s sel i := by
  simp [occList_eq, h]

theorem freqList_getElem? (h : i < nsym sel) : (s.freqList sel)[i]? = some (freqAt s sel i) := by
  simp [freqList_eq, h]

/-- The states of the symbols below i. -/
theorem sum_take_freqList (h : i ≤ nsym sel) : ((s.freqList sel).take i).sum = freqBefore s sel i := by
  rw [freqList_eq, freqBefore_eq, ← List.map_take, List.take_range, min_eq_left h]

/-- The states of a symbol lie within the total. -/
theorem freqBefore_add_le (h : i < nsym sel) : freqBefore s sel i + freqAt s sel i ≤ freqTotal s sel := by
  have hmono := List.monotone_sum_take (s.freqList sel) (Nat.succ_le_of_lt h)
  dsimp only at hmono
  rwa [sum_take_freqList h, sum_take_freqList le_rfl, freqBefore] at hmono

end TableLists

/-! ### The checks (R154, R187) -/

theorem freqOk_freqList (s : State) (sel : Sel) : freqOk sel (s.freqList sel) = decide (freqTotal s sel ≤ nstates sel) := by
  rw [freqOk, freqTotal_eq]

theorem exec_checkFreq {s : State} (hr : ready s) (sel : Sel) : exec (.checkFreq sel) s = .next { s with
    res0 := nat64 (freqTotal s sel), status := if freqTotal s sel ≤ nstates sel then .ok else .error } := by
  simp only [exec, execCheckFreq, command_ok hr, State.withRes0, freqOk_freqList, ← freqTotal_eq, decide_eq_true_eq]

theorem failureMask_lt (l : List Bool) : failureMask l < 2 ^ l.length := by
  induction l with
  | nil => exact Nat.one_pos
  | cons ok r ih =>
    rw [failureMask, List.length_cons, pow_succ]
    split <;> omega

/-- Bit b of the mask is set exactly when check b fails. -/
theorem failureMask_testBit (l : List Bool) (b : Nat) : (failureMask l).testBit b = true ↔ l[b]? = some false := by
  induction l generalizing b with
  | nil => simp [failureMask]
  | cons ok r ih =>
    cases b with
    | zero => cases ok <;> simp [failureMask, Nat.testBit_zero, Nat.add_mul_mod_self_left]
    | succ b =>
      have hhalf : failureMask (ok :: r) / 2 = failureMask r := by
        rw [failureMask]
        split <;> omega
      rw [Nat.testBit_succ, hhalf, ih, List.getElem?_cons_succ]

/-- The list of checks is R187's table. -/
theorem headerChecks_get {b : Nat} (s : State) (hb : b < 17) :
    (headerChecks s.hdr s.freqList)[b]? = some false ↔ ¬headerPasses s b := by
  simp only [headerChecks, freqOk_freqList, bitsInRange]
  interval_cases b <;> exact Option.some_inj.trans decide_eq_false_iff_not

theorem exec_hdrCheck {s : State} (hr : ready s) : exec .hdrCheck s = .next { s with
    res0 := nat64 (headerMask s), status := if headerMask s = 0 then .ok else .error } := by
  simp only [exec, execHdrCheck, command_ok hr, State.withRes0]

/-- Settles O28: the sum is that of the list, and the mask has a bit for each check of R187's table. -/
theorem frequencyAndHeaderChecks : Obligations.FrequencyAndHeaderChecks := by
  intro s hr
  refine ⟨exec_checkFreq hr, headerMask s, failureMask_lt _, exec_hdrCheck hr, fun b hb => ?_⟩
  rw [headerMask, failureMask_testBit, headerChecks_get s hb]

/-! ### Values and their symbols (R161, 30_encoding.md R104, R105) -/

/-- What `lastAtMost` finds in a list: `best` where every entry exceeds v, else the index of the last entry at most v. -/
theorem lastAtMost_cases (v i best : Nat) (l : List Nat) :
    (lastAtMost v i best l = best ∧ ∀ q, q < l.length → v < l.getD q 0) ∨
    ∃ p, lastAtMost v i best l = i + p ∧ p < l.length ∧ l.getD p 0 ≤ v ∧
      ∀ q, p < q → q < l.length → v < l.getD q 0 := by
  induction l generalizing i best with
  | nil => exact .inl ⟨rfl, fun q hq => absurd hq (Nat.not_lt_zero q)⟩
  | cons b r ih =>
    rw [lastAtMost]
    rcases ih (i + 1) (if b ≤ v then i else best) with ⟨he, hall⟩ | ⟨p, he, hp, hle, hall⟩
    · by_cases hb : b ≤ v
      · exact .inr ⟨0, by rw [he, if_pos hb, Nat.add_zero], Nat.succ_pos _, hb, fun
          | 0, hq, _ => absurd hq (lt_irrefl 0)
          | q + 1, _, hl => hall q (Nat.lt_of_succ_lt_succ hl)⟩
      · exact .inl ⟨by rw [he, if_neg hb], fun
          | 0, _ => Nat.lt_of_not_le hb
          | q + 1, hl => hall q (Nat.lt_of_succ_lt_succ hl)⟩
    · exact .inr ⟨p + 1, by rw [he]; omega, Nat.succ_lt_succ hp, hle, fun
        | 0, hq, _ => absurd hq (Nat.not_lt_zero _)
        | q + 1, hq, hl => hall q (Nat.lt_of_succ_lt_succ hq) (Nat.lt_of_succ_lt_succ hl)⟩

theorem vbase_length (sel : VSel) : (vbase sel).length = nsym (streamOf sel) := by
  cases sel <;> rfl

theorem vbase_zero (sel : VSel) : (vbase sel).getD 0 0 = 0 := by
  cases sel <;> rfl

/-- The values of a symbol end where those of the next begin, and those of the last symbol at the maximum (R104, R105). -/
theorem vbase_next (sel : VSel) : ∀ x, x < nsym (streamOf sel) →
    (vbase sel).getD x 0 + 2 ^ (vbits sel).getD x 0 = (vbase sel).getD (x + 1) (maxValue sel + 1) := by
  cases sel <;> decide

theorem symbolOf_spec (sel : VSel) (v : Nat) :
    symbolOf sel v < nsym (streamOf sel) ∧ (vbase sel).getD (symbolOf sel v) 0 ≤ v ∧
      ∀ y, symbolOf sel v < y → y < nsym (streamOf sel) → v < (vbase sel).getD y 0 := by
  rcases lastAtMost_cases v 0 0 (vbase sel) with ⟨-, hall⟩ | ⟨p, he, hp, hle, hall⟩
  · have h0 := hall 0 (by cases sel <;> decide)
    rw [vbase_zero] at h0
    exact absurd h0 (Nat.not_lt_zero v)
  · rw [Nat.zero_add] at he
    rw [vbase_length] at hp hall
    rw [symbolOf, he]
    exact ⟨hp, hle, hall⟩

/-- The rest of a value above its symbol's base fits the symbol's extra bits. -/
theorem symbolOf_rest {sel : VSel} {v : Nat} (hv : v ≤ maxValue sel) :
    v - (vbase sel).getD (symbolOf sel v) 0 < 2 ^ (vbits sel).getD (symbolOf sel v) 0 := by
  obtain ⟨hx, hle, hall⟩ := symbolOf_spec sel v
  have hend := vbase_next sel _ hx
  have hlt : v < (vbase sel).getD (symbolOf sel v + 1) (maxValue sel + 1) := by
    by_cases hn : symbolOf sel v + 1 < nsym (streamOf sel)
    · have hnext := hall _ (Nat.lt_succ_self _) hn
      rw [← vbase_length] at hn
      rwa [List.getD_eq_getElem _ _ hn] at hnext ⊢
    · rw [List.getD_eq_default _ _ (by rw [vbase_length]; omega)]
      omega
  omega

/-- Settles O32: R161's bound, then the symbol that the search finds. -/
theorem symbolOfValueResult : Obligations.SymbolOfValueResult := by
  intro sel s hr
  refine ⟨fun hv => ?_, fun hv => ?_⟩
  · show execSymbolOfValue sel s = _
    rw [execSymbolOfValue, argNat, symbolOfValue, raiseIf_pos (decide_eq_true hv)]
    exact command_error hr _
  · obtain ⟨hx, hle, hall⟩ := symbolOf_spec sel s.arg0.toNat
    refine ⟨symbolOf sel s.arg0.toNat, hx, hle, hall, symbolOf_rest hv, ?_⟩
    show execSymbolOfValue sel s = _
    rw [execSymbolOfValue, argNat, symbolOfValue, raiseIf_neg (decide_eq_false (Nat.not_lt.mpr hv))]
    exact command_ok hr _ _

/-! ### k of a frequency (R155) -/

/-- N of a stream: a power of two up to 1024 (00_scope.md R12). -/
def StateCount (n : Nat) : Prop := ∃ m, m ≤ 10 ∧ n = 2 ^ m

theorem stateCount_nstates (sel : Sel) : StateCount (nstates sel) := by
  cases sel with
  | l | m => exact ⟨6, by decide, rfl⟩
  | d => exact ⟨8, by decide, rfl⟩
  | lit => exact ⟨10, by decide, rfl⟩

theorem StateCount.le_1024 {n : Nat} (hn : StateCount n) : n ≤ 1024 := by
  obtain ⟨m, hm, rfl⟩ := hn
  exact Nat.pow_le_pow_right two_pos hm

/-- k brings the frequency into [N, 2N): the meaning of R155's two `clz32`. -/
theorem stateShift_spec {n f : Nat} (hn : StateCount n) (hf : f ≠ 0) (hle : f ≤ n) :
    n ≤ f * 2 ^ stateShift n f ∧ f * 2 ^ stateShift n f < 2 * n := by
  obtain ⟨m, hm, rfl⟩ := hn
  have hlog : Nat.log2 f ≤ m := Nat.le_of_lt_succ ((Nat.log2_lt hf).mpr (by rw [pow_succ]; omega))
  have hk : stateShift (2 ^ m) f = m - Nat.log2 f := by
    rw [stateShift, clz32, clz32, Nat.log2_two_pow]
    omega
  have hpow : 2 ^ m = 2 ^ Nat.log2 f * 2 ^ (m - Nat.log2 f) := by rw [← pow_add, Nat.add_sub_cancel' hlog]
  have hlo := Nat.log2_self_le hf
  have hhi := Nat.lt_log2_self (n := f)
  rw [hk, hpow]
  constructor
  · exact Nat.mul_le_mul_right _ hlo
  · rw [← mul_assoc, ← pow_succ']
    exact Nat.mul_lt_mul_of_pos_right hhi (Nat.two_pow_pos _)

theorem le_of_shift_bounds {n f k j : Nat} (hk : n ≤ f * 2 ^ k) (hj : f * 2 ^ j < 2 * n) : j ≤ k := by
  by_contra h
  have hpow : f * 2 ^ (k + 1) ≤ f * 2 ^ j := Nat.mul_le_mul_left f (Nat.pow_le_pow_right two_pos (by omega))
  rw [pow_succ, ← mul_assoc] at hpow
  omega

/-- No other k does. -/
theorem eq_stateShift {n f k : Nat} (hn : StateCount n) (hf : f ≠ 0) (hle : f ≤ n) (hlo : n ≤ f * 2 ^ k)
    (hhi : f * 2 ^ k < 2 * n) : k = stateShift n f := by
  obtain ⟨hlo', hhi'⟩ := stateShift_spec hn hf hle
  exact le_antisymm (le_of_shift_bounds hlo' hhi) (le_of_shift_bounds hlo hhi')

/-! ### Tables made of a list of entries (10_state.md R43 to R45) -/

section Entries

variable {α : Type}

theorem sparseFind_ofEntries_below {l : List (Option α)} {i x : Nat} (h : x < i) :
    sparseFind (sparseOfEntries i l) x = none := by
  induction l generalizing i with
  | nil => rfl
  | cons o r ih =>
    cases o with
    | none => exact ih (Nat.lt_succ_of_lt h)
    | some v =>
      rw [sparseOfEntries, sparseFind, if_neg (Nat.ne_of_gt h)]
      exact ih (Nat.lt_succ_of_lt h)

/-- A table made of a list of entries reads as the list. -/
theorem sparseFind_ofEntries (l : List (Option α)) (i x : Nat) :
    sparseFind (sparseOfEntries i l) (i + x) = l[x]?.join := by
  induction l generalizing i x with
  | nil => rfl
  | cons o r ih =>
    cases x with
    | zero =>
      cases o with
      | none =>
        rw [sparseOfEntries]
        exact sparseFind_ofEntries_below (Nat.lt_succ_self i)
      | some v => simp [sparseOfEntries, sparseFind]
    | succ x =>
      rw [show i + (x + 1) = i + 1 + x by omega]
      cases o with
      | none => exact ih (i + 1) x
      | some v =>
        rw [sparseOfEntries, sparseFind, if_neg (by omega)]
        exact ih (i + 1) x

theorem sparseFind_tableOf (l : List α) (x : Nat) : sparseFind (tableOf l) x = l[x]? := by
  have h := sparseFind_ofEntries (l.map some) 0 x
  rw [Nat.zero_add] at h
  rw [tableOf, h, List.getElem?_map]
  cases l[x]? <;> rfl

end Entries

/-! ### The encoder table (R155) -/

theorem encEntries_getElem? (n off : Nat) (l : List Nat) (i : Nat) :
    (encEntries n off l)[i]? =
      l[i]?.map fun f => if f = 0 then none else some (encEntry n (off + (l.take i).sum) f) := by
  induction l generalizing off i with
  | nil => rfl
  | cons f r ih =>
    cases i with
    | zero => simp [encEntries]
    | succ i => simp [encEntries, ih, Nat.add_assoc]

theorem encTable_find {s : State} {sel : Sel} {i : Nat} (h : i < nsym sel) (n : Nat) :
    sparseFind (encTable n (s.freqList sel)) i =
      if freqAt s sel i = 0 then none else some (encEntry n (freqBefore s sel i) (freqAt s sel i)) := by
  have hx := sparseFind_ofEntries (encEntries n 0 (s.freqList sel)) 0 i
  rw [Nat.zero_add, encEntries_getElem?, freqList_getElem? h, sum_take_freqList h.le, Nat.zero_add] at hx
  exact hx

theorem ofInt16_toInt {v : Int} (hl : -2048 ≤ v) (hu : v < 4096) : (BitVec.ofInt 16 v).toInt = v :=
  BitVec.toInt_ofInt_eq_self (by decide) (by omega) (by omega)

/-- A difference of positions among at most 1024 states fits an s16 (R155). -/
theorem delta_toInt {n off f d : Nat} (hn : n ≤ 1024) (hle : off + f ≤ n) (hd : d ≤ n) :
    (BitVec.ofInt 16 ((off : Int) - f + d)).toInt = (off : Int) - f + d := ofInt16_toInt (by omega) (by omega)

/-- The fields of an entry fit their s16 (R155). -/
theorem encEntry_fields {n off f : Nat} (hn : StateCount n) (hf : f ≠ 0) (hle : off + f ≤ n) :
    (encEntry n off f).k.toInt = stateShift n f ∧
    (encEntry n off f).s0.toInt = (f * 2 ^ stateShift n f : Nat) - (n : Int) ∧
    (encEntry n off f).delta0.toInt = (off : Int) - f + (n / 2 ^ stateShift n f : Nat) ∧
    (encEntry n off f).delta1.toInt =
      if 1 ≤ stateShift n f then (off : Int) - f + (n / 2 ^ (stateShift n f - 1) : Nat) else 0 := by
  obtain ⟨hlo, hhi⟩ := stateShift_spec hn hf (by omega)
  have hmax := hn.le_1024
  have hk : stateShift n f < 2048 := calc
    stateShift n f < 2 ^ stateShift n f := Nat.lt_two_pow_self
    _ ≤ f * 2 ^ stateShift n f := Nat.le_mul_of_pos_left _ (Nat.pos_of_ne_zero hf)
    _ < 2048 := by omega
  refine ⟨?_, ofInt16_toInt (by omega) (by omega), delta_toInt hmax hle (Nat.div_le_self _ _), ?_⟩
  · rw [encEntry, ← BitVec.ofInt_natCast]
    exact ofInt16_toInt (by omega) (by omega)
  · rw [encEntry]
    split
    · exact delta_toInt hmax hle (Nat.div_le_self _ _)
    · rfl

theorem exec_buildEnc_over {s : State} {sel : Sel} (hr : ready s) (h : nstates sel < freqTotal s sel) :
    exec (.buildEnc sel) s = .next (faulted .freqRange (freqTotal s sel) s) := by
  simp only [exec, execBuildEnc, freqOk_freqList, ← freqTotal_eq]
  rw [raiseIf_pos (by simpa using h), command_error hr, takeFault_nat]

theorem exec_buildEnc_fits {s : State} {sel : Sel} (hr : ready s) (h : freqTotal s sel ≤ nstates sel) :
    exec (.buildEnc sel) s = .next { s with
      encTab := s.encTab.put sel (encTable (nstates sel) (s.freqList sel)), status := .ok } := by
  simp only [exec, execBuildEnc, freqOk_freqList]
  rw [raiseIf_neg (by simpa using h), command_ok hr]

/-- Settles O29: symbol i of the list has the entry whose states begin after those of the symbols below it. -/
theorem buildEncEntries : Obligations.BuildEncEntries := by
  intro sel s hr
  refine ⟨exec_buildEnc_over hr, fun hsum => ⟨_, exec_buildEnc_fits hr hsum, ?_, fun i hi => ?_⟩⟩
  · rw [quad_get_put, if_pos rfl]
  · have hle := (freqBefore_add_le (s := s) hi).trans hsum
    have hn := stateCount_nstates sel
    dsimp only
    rw [quad_get_put, if_pos rfl, encTable_find hi]
    refine ⟨fun hf => if_pos hf, fun hf => ⟨_, if_neg hf, stateShift (nstates sel) (freqAt s sel i), ?_⟩⟩
    obtain ⟨hlo, hhi⟩ := stateShift_spec hn hf (by omega)
    exact ⟨hlo, hhi, encEntry_fields hn hf hle⟩

/-! ### The decoder tables (R157, R159) -/

section Stacked

variable {α : Type} {entries : Nat → Nat → List α}

/-- The entries of the symbols from i on, one after another. -/
def stacked (entries : Nat → Nat → List α) : Nat → List Nat → List α
  | _, [] => []
  | i, f :: r => entries i f ++ stacked entries (i + 1) r

variable (hlen : ∀ i f, (entries i f).length = f)

include hlen

/-- The builders fail exactly where the sum exceeds N. -/
theorem stackEntries_eq {n cum : Nat} (i : Nat) (l : List Nat) (h : cum ≤ n) :
    stackEntries n entries i cum l = if cum + l.sum ≤ n then some (stacked entries i l) else none := by
  induction l generalizing i cum with
  | nil => simp [stackEntries, stacked, h]
  | cons f r ih =>
    rw [stackEntries, stacked, List.sum_cons]
    by_cases hf : f = 0
    · have hnil : entries i f = [] := List.eq_nil_of_length_eq_zero ((hlen i f).trans hf)
      rw [if_pos hf, ih (i + 1) h, hnil, hf, Nat.zero_add, List.nil_append]
    · by_cases hc : n < cum + f
      · rw [if_neg hf, if_pos hc, if_neg (by omega)]
      · rw [if_neg hf, if_neg hc, ih (i + 1) (Nat.le_of_not_lt hc), ← Nat.add_assoc]
        by_cases hr : cum + f + r.sum ≤ n
        · rw [if_pos hr, if_pos hr]
        · rw [if_neg hr, if_neg hr]

theorem stacked_length (i : Nat) (l : List Nat) : (stacked entries i l).length = l.sum := by
  induction l generalizing i with
  | nil => rfl
  | cons f r ih => rw [stacked, List.length_append, hlen, ih, List.sum_cons]

/-- State j of symbol i stands after the states of the symbols before it. -/
theorem stacked_getElem? {i p j f : Nat} {l : List Nat} (hp : l[p]? = some f) (hj : j < f) :
    (stacked entries i l)[(l.take p).sum + j]? = (entries (i + p) f)[j]? := by
  induction l generalizing i p with
  | nil => cases hp
  | cons g r ih =>
    cases p with
    | zero =>
      cases hp
      rw [stacked, List.take_zero, List.sum_nil, Nat.zero_add, List.getElem?_append_left (by rwa [hlen])]
      rfl
    | succ p =>
      rw [stacked, List.take_succ_cons, List.sum_cons, Nat.add_assoc, List.getElem?_append_right (by rw [hlen]; omega),
        hlen, Nat.add_sub_cancel_left, ih hp, Nat.add_right_comm, Nat.add_assoc]

end Stacked

theorem decSymbolEntries_length (n i f : Nat) : (decSymbolEntries n i f).length = f := by simp [decSymbolEntries]

theorem vdecSymbolEntries_length (n vb base f : Nat) : (vdecSymbolEntries n vb base f).length = f := by
  simp [vdecSymbolEntries]

/-- The literal entry of state j of symbol i, k being the one of R155. -/
theorem decSymbolEntries_getElem? {n i f j : Nat} (hj : j < f) : (decSymbolEntries n i f)[j]? = some
    { k := BitVec.ofNat 8 (stateForm n f (stateShift n f) j).1, symbol := BitVec.ofNat 8 i,
      delta := BitVec.ofNat 16 (stateForm n f (stateShift n f) j).2 } := by
  rw [decSymbolEntries, List.getElem?_map, List.getElem?_range hj]
  rfl

/-- The value entry of state j of a symbol, k being the one of R155. -/
theorem vdecSymbolEntries_getElem? {n vb base f j : Nat} (hj : j < f) : (vdecSymbolEntries n vb base f)[j]? = some
    { totalBits := BitVec.ofNat 8 ((stateForm n f (stateShift n f) j).1 + vb), valueBits := BitVec.ofNat 8 vb,
      delta := BitVec.ofNat 16 (stateForm n f (stateShift n f) j).2, valueBase := BitVec.ofNat 32 base } := by
  rw [vdecSymbolEntries, List.getElem?_map, List.getElem?_range hj]
  rfl

/-- The value entries of symbol i, as BUILD_VDEC stacks them (R159). -/
def valueEntries (sel : VSel) (i f : Nat) : List VEntry :=
  vdecSymbolEntries (nstates (streamOf sel)) ((vbits sel).getD i 0) ((vbase sel).getD i 0) f

theorem valueEntries_length (sel : VSel) (i f : Nat) : (valueEntries sel i f).length = f :=
  vdecSymbolEntries_length _ _ _ _

theorem decTable_eq (l : List Nat) : decTable l =
    if l.sum ≤ 1024 then some (tableOf (stacked (decSymbolEntries 1024) 0 l)) else none := by
  rw [decTable, stackEntries_eq (decSymbolEntries_length 1024) 0 l (Nat.zero_le _), Nat.zero_add]
  split <;> rfl

theorem vdecTable_eq (sel : VSel) (l : List Nat) : vdecTable sel l =
    if l.sum ≤ nstates (streamOf sel) then some (tableOf (stacked (valueEntries sel) 0 l)) else none := by
  show (stackEntries _ (valueEntries sel) 0 0 l).map tableOf = _
  rw [stackEntries_eq (valueEntries_length sel) 0 l (Nat.zero_le _), Nat.zero_add]
  split <;> rfl

section StackedTable

variable {α : Type} {entries : Nat → Nat → List α} (hlen : ∀ i f, (entries i f).length = f) (s : State) (sel : Sel)

include hlen

/-- State j of symbol i in the table made of the entries of FREQ[SEL]. -/
theorem stackedTable_find {i j : Nat} (hi : i < nsym sel) (hj : j < freqAt s sel i) :
    sparseFind (tableOf (stacked entries 0 (s.freqList sel))) (freqBefore s sel i + j) =
      (entries i (freqAt s sel i))[j]? := by
  rw [sparseFind_tableOf, ← sum_take_freqList hi.le, stacked_getElem? hlen (freqList_getElem? hi) hj, Nat.zero_add]

/-- The states from the sum on are EMPTY (92_eei_decisions.md D24). -/
theorem stackedTable_empty {x : Nat} (hx : freqTotal s sel ≤ x) :
    sparseFind (tableOf (stacked entries 0 (s.freqList sel))) x = none := by
  rw [sparseFind_tableOf, List.getElem?_eq_none]
  rwa [stacked_length hlen, ← freqTotal_eq]

end StackedTable

theorem exec_buildDec_over {s : State} (hr : ready s) (h : 1024 < freqTotal s .lit) :
    exec .buildDec s = .next { s with decTab := [], status := .error } := by
  show execBuildDec s = _
  rw [execBuildDec, decTable_eq, ← freqTotal_eq, if_neg (Nat.not_le.mpr h)]
  exact command_ok hr _ _

theorem exec_buildDec_fits {s : State} (hr : ready s) (h : freqTotal s .lit ≤ 1024) :
    exec .buildDec s = .next { s with
      decTab := tableOf (stacked (decSymbolEntries 1024) 0 (s.freqList .lit)), status := .ok } := by
  show execBuildDec s = _
  rw [execBuildDec, decTable_eq, ← freqTotal_eq, if_pos h]
  exact command_ok hr _ _

theorem exec_buildVdec_over {s : State} {sel : VSel} (hr : ready s) (hc : compressedOpen s = false)
    (h : nstates (streamOf sel) < freqTotal s (streamOf sel)) :
    exec (.buildVdec sel) s = .next { s with vdecTab := s.vdecTab.put sel [], status := .error } := by
  show execBuildVdec sel s = _
  rw [execBuildVdec, raiseBusy_closed hc, vdecTable_eq, ← freqTotal_eq, if_neg (Nat.not_le.mpr h)]
  exact command_ok hr _ _

theorem exec_buildVdec_fits {s : State} {sel : VSel} (hr : ready s) (hc : compressedOpen s = false)
    (h : freqTotal s (streamOf sel) ≤ nstates (streamOf sel)) :
    exec (.buildVdec sel) s = .next { s with
      vdecTab := s.vdecTab.put sel (tableOf (stacked (valueEntries sel) 0 (s.freqList (streamOf sel)))),
      status := .ok } := by
  show execBuildVdec sel s = _
  rw [execBuildVdec, raiseBusy_closed hc, vdecTable_eq, ← freqTotal_eq, if_pos h]
  exact command_ok hr _ _

/-- Settles O30: the entries of the symbols are stacked in order, and k is the only one that the frequency admits. -/
theorem buildDecEntries : Obligations.BuildDecEntries := by
  intro s hr
  refine ⟨fun hsum => ⟨_, exec_buildDec_over hr hsum, rfl, fun _ => rfl⟩,
    fun hsum => ⟨_, exec_buildDec_fits hr hsum, rfl, fun i k j hi hlo hhi hj => ?_,
      fun x hx => stackedTable_empty (decSymbolEntries_length 1024) s .lit hx⟩⟩
  have hle := (freqBefore_add_le (s := s) (sel := .lit) hi).trans hsum
  have hk := eq_stateShift (stateCount_nstates .lit) (by omega) (by rw [nstates]; omega) hlo hhi
  rw [stackedTable_find (decSymbolEntries_length 1024) s .lit hi hj, decSymbolEntries_getElem? hj, hk]
  rfl

/-- Settles O31: as for the literal table, with the extra bits and the base of each symbol, behind the interlock. -/
theorem buildVdecEntries : Obligations.BuildVdecEntries := by
  intro sel s hr
  refine ⟨fun ho => command_busy hr ho _ _, fun hc hsum => ⟨_, exec_buildVdec_over hr hc hsum, ?_⟩,
    fun hc hsum => ⟨_, exec_buildVdec_fits hr hc hsum, ?_⟩⟩
  · rw [triple_get_put, if_pos rfl]
    exact ⟨rfl, fun _ => rfl⟩
  · rw [triple_get_put, if_pos rfl]
    refine ⟨rfl, fun i k j hi hlo hhi hj => ?_, fun x hx => stackedTable_empty (valueEntries_length sel) s _ hx⟩
    have hle := (freqBefore_add_le (s := s) hi).trans hsum
    have hk := eq_stateShift (stateCount_nstates _) (by omega) (by omega) hlo hhi
    rw [stackedTable_find (valueEntries_length sel) s _ hi hj, valueEntries, vdecSymbolEntries_getElem? hj, hk]

/-! ### Rounding (R150) -/

/-- R150's `mod 2^32` never acts, and a total of 0 gives step 0 by division too. -/
theorem scaledFreq_eq {n total t : Nat} (h : t ≤ total) :
    scaledFreq (if total = 0 then 0 else 2 ^ 31 / total) (clz32 n - 1) t = roundedFreq n total t := by
  have hstep : (if total = 0 then 0 else 2 ^ 31 / total) = 2 ^ 31 / total := by
    split
    · rename_i h0
      rw [h0, Nat.div_zero]
    · rfl
  have hprod : t * (2 ^ 31 / total) < 2 ^ 32 := by
    have := (Nat.mul_le_mul_right (2 ^ 31 / total) h).trans (Nat.mul_div_le _ _)
    omega
  have hshift : clz32 n - 1 = 30 - Nat.log2 n := by rw [clz32]; omega
  rw [hstep, hshift, scaledFreq, roundedFreq, Nat.mod_eq_of_lt hprod]

/-- The rounded counts of a histogram. -/
def roundedList (n : Nat) (t : List Nat) : List Nat := t.map (roundedFreq n t.sum)

theorem map_scaledFreq (n : Nat) (t : List Nat) :
    t.map (scaledFreq (if t.sum = 0 then 0 else 2 ^ 31 / t.sum) (clz32 n - 1)) = roundedList n t :=
  List.map_congr_left fun _ hx => scaledFreq_eq (List.le_sum_of_mem hx)

/-- A count rounds to 0 only where it is 0. -/
theorem roundedFreq_eq_zero (n total c : Nat) : roundedFreq n total c = 0 ↔ c = 0 := by
  rw [roundedFreq]
  split
  · omega
  · constructor
    · omega
    · rintro rfl
      simp

@[simp] theorem roundedFreq_zero (n total : Nat) : roundedFreq n total 0 = 0 := (roundedFreq_eq_zero n total 0).mpr rfl

theorem roundedList_getD (n : Nat) (t : List Nat) (i : Nat) :
    (roundedList n t).getD i 0 = roundedFreq n t.sum (t.getD i 0) := by
  rw [roundedList, ← List.getD_map t 0 (roundedFreq n t.sum), roundedFreq_zero]

@[simp] theorem roundedList_length (n : Nat) (t : List Nat) : (roundedList n t).length = t.length := List.length_map _

/-! ### The largest rounded count (R150) -/

/-- `k` is the first index of the largest entry of the list. -/
structure FirstLargest (l : List Nat) (k : Nat) : Prop where
  lt : k < l.length
  largest (i : Nat) : l.getD i 0 ≤ l.getD k 0
  first (i : Nat) : i < k → l.getD i 0 < l.getD k 0

theorem FirstLargest.unique {l : List Nat} {j k : Nat} (hj : FirstLargest l j) (hk : FirstLargest l k) : j = k := by
  rcases lt_trichotomy j k with h | h | h
  · exact absurd (hk.first j h) (Nat.not_lt.mpr (hj.largest k))
  · exact h
  · exact absurd (hj.first k h) (Nat.not_lt.mpr (hk.largest j))

/-- What `firstMax` finds in a list: `best` where no entry exceeds it, else the first of the largest entries. -/
theorem firstMax_cases (i : Nat) (best : Nat × Nat) (l : List Nat) :
    (firstMax i best l = best ∧ ∀ q, l.getD q 0 ≤ best.1) ∨
    ∃ p, firstMax i best l = (l.getD p 0, i + p) ∧ best.1 < l.getD p 0 ∧ FirstLargest l p := by
  induction l generalizing i best with
  | nil => exact .inl ⟨rfl, fun _ => Nat.zero_le _⟩
  | cons f r ih =>
    rw [firstMax]
    rcases ih (i + 1) (if best.1 < f then (f, i) else best) with ⟨he, hall⟩ | ⟨p, he, hlt, hp⟩
    · by_cases hf : best.1 < f
      · rw [if_pos hf] at he hall ⊢
        exact .inr ⟨0, he, hf, ⟨Nat.succ_pos _, fun | 0 => le_rfl | q + 1 => hall q,
          fun _ hq => absurd hq (Nat.not_lt_zero _)⟩⟩
      · rw [if_neg hf] at he hall ⊢
        exact .inl ⟨he, fun | 0 => Nat.le_of_not_lt hf | q + 1 => hall q⟩
    · have hbest : best.1 < r.getD p 0 ∧ f < r.getD p 0 := by
        split at hlt <;> omega
      have hindex : i + 1 + p = i + (p + 1) := by omega
      refine .inr ⟨p + 1, by rw [he, List.getD_cons_succ, hindex], hbest.1, Nat.succ_lt_succ hp.lt, ?_, ?_⟩
      · exact fun | 0 => hbest.2.le | q + 1 => hp.largest q
      · exact fun | 0, _ => hbest.2 | q + 1, hq => hp.first q (Nat.lt_of_succ_lt_succ hq)

/-- (max_f, max_s) of R150. -/
theorem firstMax_spec {l : List Nat} (hl : 0 < l.length) :
    ∃ k, firstMax 0 (0, 0) l = (l.getD k 0, k) ∧ FirstLargest l k := by
  rcases firstMax_cases 0 (0, 0) l with ⟨he, hall⟩ | ⟨p, he, -, hp⟩
  · have h0 (q : Nat) : l.getD q 0 = 0 := Nat.le_zero.mp (hall q)
    exact ⟨0, by rw [he, h0], hl, fun i => by rw [h0, h0], fun _ hq => absurd hq (Nat.not_lt_zero _)⟩
  · exact ⟨p, by rw [he, Nat.zero_add], hp⟩

/-! ### REDUCE (R151, R152) -/

/-- Two tables with the same used symbols. -/
def SameUse (f g : List Nat) : Prop := ∀ i, g.getD i 0 = 0 ↔ f.getD i 0 = 0

theorem SameUse.refl (f : List Nat) : SameUse f f := fun _ => Iff.rfl

theorem SameUse.trans {f g h : List Nat} (hfg : SameUse f g) (hgh : SameUse g h) : SameUse f h :=
  fun i => (hgh i).trans (hfg i)

/-- What a pass takes off a frequency. -/
def passCut (shift v overrun : Nat) : Nat := if 1 < v then min ((v - 1) / 2 ^ shift) overrun else 0

theorem passCut_le (shift v overrun : Nat) : passCut shift v overrun ≤ overrun := by
  rw [passCut]
  split
  · exact min_le_right _ _
  · exact Nat.zero_le _

/-- A used symbol keeps at least 1. -/
theorem passCut_le_pred (shift v overrun : Nat) : passCut shift v overrun ≤ v - 1 := by
  rw [passCut]
  split
  · exact (min_le_left _ _).trans (Nat.div_le_self _ _)
  · exact Nat.zero_le _

/-- With shift 0 a symbol goes down to 1, unless the overrun is met first. -/
theorem passCut_zero {v overrun : Nat} (h : passCut 0 v overrun ≠ overrun) : passCut 0 v overrun = v - 1 := by
  rw [passCut, pow_zero, Nat.div_one] at h ⊢
  by_cases hv : 1 < v
  · rw [if_pos hv] at h ⊢
    omega
  · rw [if_neg hv]
    omega

theorem reducePass_met (shift : Nat) (f : List Nat) : reducePass shift f 0 = (f, 0) := by
  cases f <;> rfl

theorem reducePass_cons (shift v : Nat) (r : List Nat) {overrun : Nat} (h : overrun ≠ 0) :
    reducePass shift (v :: r) overrun =
      ((v - passCut shift v overrun) :: (reducePass shift r (overrun - passCut shift v overrun)).1,
        (reducePass shift r (overrun - passCut shift v overrun)).2) := by
  rw [reducePass, if_neg h]
  rfl

/-- A pass lowers the sum by what it takes off the overrun. -/
theorem reducePass_sum (shift : Nat) (f : List Nat) (overrun : Nat) :
    (reducePass shift f overrun).1.sum + overrun = f.sum + (reducePass shift f overrun).2 := by
  induction f generalizing overrun with
  | nil => rfl
  | cons v r ih =>
    by_cases h0 : overrun = 0
    · rw [h0, reducePass_met]
    · rw [reducePass_cons shift v r h0, List.sum_cons, List.sum_cons]
      have hv := passCut_le_pred shift v overrun
      have ho := passCut_le shift v overrun
      have hr := ih (overrun - passCut shift v overrun)
      omega

/-- A pass keeps a used symbol used. -/
theorem reducePass_use (shift : Nat) (f : List Nat) (overrun : Nat) : SameUse f (reducePass shift f overrun).1 := by
  induction f generalizing overrun with
  | nil => exact SameUse.refl _
  | cons v r ih =>
    by_cases h0 : overrun = 0
    · rw [h0, reducePass_met]
      exact SameUse.refl _
    · rw [reducePass_cons shift v r h0]
      intro i
      cases i with
      | zero =>
        have hv := passCut_le_pred shift v overrun
        rw [List.getD_cons_zero, List.getD_cons_zero]
        omega
      | succ i => exact ih _ i

/-- The pass of shift 0 meets the overrun, unless it leaves a table of frequencies of at most 1 (R152). -/
theorem reducePass_last (f : List Nat) (overrun : Nat) :
    (reducePass 0 f overrun).2 = 0 ∨ (reducePass 0 f overrun).1.sum ≤ f.length := by
  induction f generalizing overrun with
  | nil => exact .inr le_rfl
  | cons v r ih =>
    by_cases h0 : overrun = 0
    · exact .inl (by rw [h0, reducePass_met])
    · rw [reducePass_cons 0 v r h0]
      by_cases hc : passCut 0 v overrun = overrun
      · exact .inl (by rw [hc, Nat.sub_self, reducePass_met])
      · refine (ih _).imp_right fun hr => ?_
        have hv := passCut_zero hc
        rw [List.sum_cons, List.length_cons]
        omega

/-- REDUCE meets the overrun of a table of at most n symbols, for n states (R152). -/
theorem reduceFreqs_spec {n : Nat} (passes : Nat) {f : List Nat} {overrun : Nat} (hlen : f.length ≤ n)
    (hsum : f.sum = n + overrun) : ∃ g, reduceFreqs (passes + 1) f overrun = some g ∧ g.sum = n ∧ SameUse f g := by
  induction passes generalizing f overrun with
  | zero =>
    rw [reduceFreqs]
    split
    · exact ⟨f, rfl, by omega, SameUse.refl f⟩
    · have hpass := reducePass_sum 0 f overrun
      have hmet : (reducePass 0 f overrun).2 = 0 := by
        rcases reducePass_last f overrun with h | h <;> omega
      exact ⟨_, if_pos hmet, by omega, reducePass_use 0 f overrun⟩
  | succ p ih =>
    rw [reduceFreqs]
    split
    · exact ⟨f, rfl, by omega, SameUse.refl f⟩
    · have hpass := reducePass_sum (p + 1) f overrun
      have hl := reducePass_length (p + 1) f overrun
      obtain ⟨g, hg, hgs, hu⟩ := ih (f := (reducePass (p + 1) f overrun).1) (overrun := (reducePass (p + 1) f overrun).2)
        (by omega) (by omega)
      exact ⟨g, hg, hgs, (reducePass_use _ f overrun).trans hu⟩

/-! ### The normalised table (R150, R153) -/

/-- Replacing an entry of a list changes its sum by the difference. -/
theorem sum_set_add {l : List Nat} {k : Nat} (hk : k < l.length) (x : Nat) : (l.set k x).sum + l.getD k 0 = l.sum + x := by
  have h := List.sum_set l k x
  have hsplit := List.sum_take_add_sum_drop l (k + 1)
  rw [List.sum_take_succ l k hk] at hsplit
  rw [if_pos hk] at h
  rw [List.getD_eq_getElem _ _ hk]
  omega

theorem getD_set_same {l : List Nat} {k : Nat} (hk : k < l.length) (x : Nat) : (l.set k x).getD k 0 = x := by
  simp [hk]

theorem getD_set_ne (l : List Nat) {k i : Nat} (h : i ≠ k) (x : Nat) : (l.set k x).getD i 0 = l.getD i 0 := by
  simp [Ne.symm h]

/-- What R153 says of the frequencies `f` that NORMALIZE makes of the counts `t` for n states, `k` being max_s; and what R150 says
of them where the rounded counts overrun n by less than a quarter of the largest. -/
structure NormalizesTo (n : Nat) (t f : List Nat) (k : Nat) : Prop where
  sum : f.sum = n
  used (i : Nat) : t.getD i 0 ≠ 0 → 1 ≤ f.getD i 0
  unused (i : Nat) : t.getD i 0 = 0 → f.getD i 0 ≠ 0 → t.sum = 0 ∧ i = 0
  largest : FirstLargest (roundedList n t) k
  kept : (roundedList n t).sum < n + (roundedList n t).getD k 0 / 4 →
    f.getD k 0 + (roundedList n t).sum = (roundedList n t).getD k 0 + n ∧
      ∀ i, i ≠ k → f.getD i 0 = (roundedList n t).getD i 0

theorem roundedList_use (n : Nat) (t : List Nat) : SameUse t (roundedList n t) := fun i => by
  rw [roundedList_getD, roundedFreq_eq_zero]

/-- Where the largest rounded count is 0 the histogram is empty. -/
theorem sum_eq_zero_of_largest {n k : Nat} {t : List Nat} (hk : FirstLargest (roundedList n t) k)
    (h0 : (roundedList n t).getD k 0 = 0) : t.sum = 0 ∧ k = 0 := by
  have hall (i : Nat) : (roundedList n t).getD i 0 = 0 := Nat.le_zero.mp ((hk.largest i).trans h0.le)
  refine ⟨List.sum_eq_zero fun x hx => ?_, by_contra fun hne => ?_⟩
  · obtain ⟨i, hi, rfl⟩ := List.getElem_of_mem hx
    rw [← List.getD_eq_getElem _ 0 hi]
    exact (roundedList_use n t i).mp (hall i)
  · have := hk.first 0 (Nat.pos_of_ne_zero hne)
    omega

/-- The first branch of R150: the difference goes to the largest rounded count. -/
theorem normalizesTo_set {n k : Nat} {t : List Nat} (hk : FirstLargest (roundedList n t) k) {x : Nat}
    (hover : (roundedList n t).sum < n + (roundedList n t).getD k 0 / 4)
    (hx : x + (roundedList n t).sum = (roundedList n t).getD k 0 + n) :
    NormalizesTo n t ((roundedList n t).set k x) k := by
  have hsame := getD_set_same hk.lt x
  have hother {i : Nat} (h : i ≠ k) := getD_set_ne (roundedList n t) h x
  refine ⟨?_, fun i hi => ?_, fun i hi hf => ?_, hk, fun _ => ⟨by rwa [hsame], fun i => hother⟩⟩
  · have := sum_set_add hk.lt x
    omega
  · by_cases hik : i = k
    · rw [hik, hsame]
      omega
    · rw [hother hik]
      exact Nat.pos_of_ne_zero (mt (roundedList_use n t i).mp hi)
  · by_cases hik : i = k
    · subst hik
      exact sum_eq_zero_of_largest hk ((roundedList_use n t i).mpr hi)
    · rw [hother hik] at hf
      exact absurd ((roundedList_use n t i).mpr hi) hf

/-- The second branch of R150: REDUCE. -/
theorem normalizesTo_reduced {n k : Nat} {t f : List Nat} (hk : FirstLargest (roundedList n t) k)
    (hover : n + (roundedList n t).getD k 0 / 4 ≤ (roundedList n t).sum) (hsum : f.sum = n)
    (huse : SameUse (roundedList n t) f) : NormalizesTo n t f k := by
  have hu := (roundedList_use n t).trans huse
  exact ⟨hsum, fun i hi => Nat.pos_of_ne_zero (mt (hu i).mp hi), fun i hi hf => absurd ((hu i).mpr hi) hf, hk,
    fun h => absurd h (Nat.not_lt.mpr hover)⟩

/-- NORMALIZE on a histogram of at most n symbols, for n states. -/
theorem normalizeCounts_spec {n : Nat} {t : List Nat} (ht : 0 < t.length) (hlen : t.length ≤ n) (hsum : t.sum < 2 ^ 32) :
    ∃ f k, normalizeCounts n t = .ok (f, k) ∧ NormalizesTo n t f k := by
  obtain ⟨k, hmax, hk⟩ := firstMax_spec (l := roundedList n t) (by rwa [roundedList_length])
  rw [normalizeCounts, raiseIf_neg (decide_eq_false (Nat.not_le.mpr hsum))]
  dsimp only
  rw [map_scaledFreq, hmax]
  dsimp only
  split
  · exact ⟨_, k, rfl, normalizesTo_set hk (by omega) (by omega)⟩
  · obtain ⟨f, hf, hs, hu⟩ := reduceFreqs_spec (n := n) 3 (f := roundedList n t)
      (overrun := (-((n : Int) - ((roundedList n t).sum : Int))).toNat) (by rwa [roundedList_length]) (by omega)
    rw [hf]
    exact ⟨f, k, rfl, normalizesTo_reduced hk (by omega) hs hu⟩

/-- Every stream has a symbol, and a state for each symbol (00_scope.md R12). -/
theorem nsym_le_nstates (sel : Sel) : 0 < nsym sel ∧ nsym sel ≤ nstates sel := by
  cases sel <;> decide

/-- FREQ[SEL] reads back the frequencies written, their sum fitting a u16. -/
theorem freqList_put {s : State} {sel : Sel} {f : List Nat} (hl : f.length = nsym sel) (hs : f.sum < 2 ^ 16)
    (hput : s.freq.get sel = freqOfList f) : s.freqList sel = f := by
  rw [State.freqList, hput, freqOfList_read f _ hl]
  refine (List.map_congr_left fun x hx => ?_).trans (List.map_id f)
  exact Nat.mod_eq_of_lt (lt_of_le_of_lt (List.le_sum_of_mem hx) hs)

theorem exec_normalize_over {s : State} {sel : Sel} (hr : ready s) (h : 2 ^ 32 ≤ occTotal s sel) :
    exec (.normalize sel) s = .next (faulted .normalizeInput (occTotal s sel) s) := by
  rw [occTotal_eq] at h ⊢
  show execNormalize sel s = _
  rw [execNormalize, normalizeCounts, raiseIf_pos (decide_eq_true h)]
  exact command_error hr _

/-- The state after a NORMALIZE that made the frequencies `f`, `k` being max_s. -/
def normalizedState (sel : Sel) (f : List Nat) (k : Nat) (s : State) : State :=
  { s with freq := s.freq.put sel (freqOfList f), res0 := nat64 k, status := .ok }

theorem exec_normalize_fits {s : State} {sel : Sel} (hr : ready s) (h : occTotal s sel < 2 ^ 32) :
    ∃ f k, exec (.normalize sel) s = .next (normalizedState sel f k s) ∧ f.length = nsym sel ∧
      NormalizesTo (nstates sel) (s.occList sel) f k := by
  obtain ⟨hpos, hle⟩ := nsym_le_nstates sel
  obtain ⟨f, k, he, hf⟩ := normalizeCounts_spec (n := nstates sel) (t := s.occList sel) (by rwa [occList_length])
    (by rwa [occList_length]) (by rwa [← occTotal_eq])
  refine ⟨f, k, ?_, (normalizeCounts_length he).trans (occList_length s sel), hf⟩
  show execNormalize sel s = _
  rw [execNormalize, he]
  exact command_ok hr _ _

theorem roundedBefore_eq (s : State) (sel : Sel) :
    roundedBefore s sel (nsym sel) = (roundedList (nstates sel) (s.occList sel)).sum := by
  rw [roundedList, ← occTotal_eq, occList_eq, List.map_map]
  exact eq_sum_range rfl (fun _ => rfl) _

theorem roundedList_occList {s : State} {sel : Sel} {i : Nat} (h : i < nsym sel) :
    (roundedList (nstates sel) (s.occList sel)).getD i 0 = roundedFreq (nstates sel) (occTotal s sel) (occAt s sel i) := by
  rw [roundedList_getD, ← occTotal_eq, occList_getD h]

/-- The symbol that R150 names by the rounded counts is max_s. -/
theorem firstLargest_rounded {s : State} {sel : Sel} {k : Nat} (hk : k < nsym sel)
    (hlargest : ∀ i, i < nsym sel → roundedFreq (nstates sel) (occTotal s sel) (occAt s sel i) ≤
      roundedFreq (nstates sel) (occTotal s sel) (occAt s sel k))
    (hfirst : ∀ i, i < k → roundedFreq (nstates sel) (occTotal s sel) (occAt s sel i) <
      roundedFreq (nstates sel) (occTotal s sel) (occAt s sel k)) :
    FirstLargest (roundedList (nstates sel) (s.occList sel)) k := by
  refine ⟨by rwa [roundedList_length, occList_length], fun i => ?_, fun i hi => ?_⟩
  · by_cases hi : i < nsym sel
    · rw [roundedList_occList hi, roundedList_occList hk]
      exact hlargest i hi
    · rw [List.getD_eq_default _ _ (by rw [roundedList_length, occList_length]; omega)]
      exact Nat.zero_le _
  · rw [roundedList_occList (hi.trans hk), roundedList_occList hk]
    exact hfirst i hi

/-- Settles O27, by reading FREQ[SEL] after the command as the list of `NormalizesTo`. -/
theorem normalizeSumsToStates : Obligations.NormalizeSumsToStates := by
  intro sel s hr
  refine ⟨exec_normalize_over hr, fun hsum => ?_⟩
  obtain ⟨f, k, he, hl, hf⟩ := exec_normalize_fits hr hsum
  have hget : (normalizedState sel f k s).freq.get sel = freqOfList f := (quad_get_put _ _ _ _).trans (if_pos rfl)
  have hlist : (normalizedState sel f k s).freqList sel = f :=
    freqList_put hl (by have := (stateCount_nstates sel).le_1024; have := hf.sum; omega) hget
  have hat {i : Nat} (hi : i < nsym sel) : freqAt (normalizedState sel f k s) sel i = f.getD i 0 := by
    rw [← freqList_getD hi, hlist]
  refine ⟨_, he, by rw [hget]; rfl, by rw [freqTotal_eq, hlist, hf.sum], fun i hi => ?_, fun j hj => ?_⟩
  · rw [hat hi, ← occList_getD hi, occTotal_eq]
    exact ⟨hf.used i, hf.unused i⟩
  · intro g hlargest hfirst
    obtain rfl : j = k := (firstLargest_rounded hj hlargest hfirst).unique hf.largest
    refine ⟨rfl, fun hover => ?_⟩
    have hg {i : Nat} (hi : i < nsym sel) : (roundedList (nstates sel) (s.occList sel)).getD i 0 = g i :=
      roundedList_occList hi
    rw [roundedBefore_eq, ← hg hj] at hover ⊢
    obtain ⟨hk, hother⟩ := hf.kept hover
    rw [hat hj]
    exact ⟨hk, fun i hi hne => by rw [hat hi, hother i hne, hg hi]⟩

end Sys2Proof.Proofs

namespace Sys2Proof.Proofs

open Sys2Proof Sys2Proof.Machine Sys2Proof.Laws

/-! ## The FSE codec (42_fse_codec.md) -/

/-! ### The bodies of the three steps (R170, R172, R174) -/

/-- nb of R170: the low bits of the state that an entry pushes. -/
def encodeBits (e : EncEntry) (st : Nat) : Nat := (if e.s0.toInt ≤ st then e.k.toInt else e.k.toInt - 1).toNat

/-- The delta that R170 adds to the rest of the state. -/
def encodeDelta (e : EncEntry) (st : Nat) : Int := if e.s0.toInt ≤ st then e.delta0.toInt else e.delta1.toInt

section Bodies

variable {x st i : Nat} {a : InAcc} {o : OutAcc}

theorem fseEncode_empty {tab : Sparse EncEntry} (h : sparseFind tab i = none) :
    fseEncode tab o st i = .error { cause := .emptyEntry, info := nat64 i } := by
  rw [fseEncode, h]

theorem fseEncode_some {tab : Sparse EncEntry} {e : EncEntry} (h : sparseFind tab i = some e) :
    fseEncode tab o st i = (outPush o (encodeBits e st) (st % 2 ^ encodeBits e st)).map fun o' =>
      (o', encodeDelta e st + (st / 2 ^ encodeBits e st : Nat), encodeBits e st) := by
  simp only [fseEncode, h, decide_eq_true_eq, encodeBits, encodeDelta]
  split
  case _ hp => rw [hp]; rfl
  case _ hp => rw [hp]; rfl

theorem fseDecode_empty {tab : Sparse DecEntry} (h : sparseFind tab x = none) :
    fseDecode tab a x = .error { cause := .emptyEntry, info := nat64 x } := by
  rw [fseDecode, h]

theorem fseDecode_some {tab : Sparse DecEntry} {e : DecEntry} (h : sparseFind tab x = some e) :
    fseDecode tab a x = (inPull a e.k.toNat).map fun r => (e.delta.toInt + r.1, e.symbol.toNat, r.2) := by
  simp only [fseDecode, h]
  cases inPull a e.k.toNat <;> rfl

theorem fseVdecode_empty {tab : Sparse VEntry} (h : sparseFind tab x = none) :
    fseVdecode tab a x = .error { cause := .emptyEntry, info := nat64 x } := by
  rw [fseVdecode, h]

theorem fseVdecode_some {tab : Sparse VEntry} {e : VEntry} (h : sparseFind tab x = some e) :
    fseVdecode tab a x = (inPull a e.totalBits.toNat).map fun r =>
      (e.delta.toInt + (r.1 / 2 ^ e.valueBits.toNat : Nat), e.valueBase.toInt + (r.1 % 2 ^ e.valueBits.toNat : Nat), r.2) := by
  simp only [fseVdecode, h]
  cases inPull a e.totalBits.toNat <;> rfl

end Bodies

/-! ### The commands -/

/-- How FSE_ENCODE ends, by the answer of its body. -/
def fseEncodeEnd (s : State) : Except Trap (OutAcc × Int × Nat) → State
  | .error t => takeFault t s
  | .ok (o, next, nb) => { s with out := o, res0 := word64 next, res1 := nat64 nb, status := .ok }

/-- How FSE_DECODE ends, by the answer of its body. -/
def fseDecodeEnd (s : State) : Except Trap (Int × Nat × InAcc) → State
  | .error t => takeFault t s
  | .ok (next, symbol, y) => { s with in0 := y, res0 := word64 next, res1 := nat64 symbol, status := .ok }

/-- How FSE_VDECODE ends, by the answer of its body. -/
def fseVdecodeEnd (s : State) : Except Trap (Int × Int × InAcc) → State
  | .error t => takeFault t s
  | .ok (next, v, y) => { s with in1 := y, res0 := word64 next, res1 := word64 v, status := .ok }

section CodecCommands

variable {s : State} (hr : ready s)

include hr

theorem exec_fseEncode_state {sel : Sel} (hst : nstates sel ≤ s.arg0.toNat) :
    exec (.fseEncode sel) s = .next (faulted .badOperand 0 s) := by
  show execFseEncode sel s = _
  rw [execFseEncode, argNat, raiseIf_pos (decide_eq_true hst), command_error hr, takeFault_zero]

theorem exec_fseEncode_symbol {sel : Sel} (hst : s.arg0.toNat < nstates sel) (hi : nsym sel ≤ s.arg1.toNat) :
    exec (.fseEncode sel) s = .next (faulted .badOperand 1 s) := by
  show execFseEncode sel s = _
  rw [execFseEncode, argNat, argNat, raiseIf_neg (decide_eq_false (Nat.not_le.mpr hst)),
    raiseIf_pos (decide_eq_true hi), command_error hr, takeFault_one]

theorem exec_fseEncode_runs {sel : Sel} (hst : s.arg0.toNat < nstates sel) (hi : s.arg1.toNat < nsym sel) :
    exec (.fseEncode sel) s =
      .next (fseEncodeEnd s (fseEncode (s.encTab.get sel) s.out s.arg0.toNat s.arg1.toNat)) := by
  show execFseEncode sel s = _
  rw [execFseEncode, argNat, argNat, raiseIf_neg (decide_eq_false (Nat.not_le.mpr hst)),
    raiseIf_neg (decide_eq_false (Nat.not_le.mpr hi))]
  cases fseEncode (s.encTab.get sel) s.out s.arg0.toNat s.arg1.toNat with
  | error t => exact command_error hr t
  | ok r => exact command_ok hr _ _

theorem exec_fseDecode_state (hx : 1024 ≤ s.arg0.toNat) :
    exec .fseDecode s = .next (faulted .badOperand 0 s) := by
  show execFseDecode s = _
  rw [execFseDecode, argNat, raiseIf_pos (decide_eq_true hx), command_error hr, takeFault_zero]

theorem exec_fseDecode_runs (hx : s.arg0.toNat < 1024) :
    exec .fseDecode s = .next (fseDecodeEnd s (fseDecode s.decTab s.in0 s.arg0.toNat)) := by
  show execFseDecode s = _
  rw [execFseDecode, argNat, raiseIf_neg (decide_eq_false (Nat.not_le.mpr hx))]
  cases fseDecode s.decTab s.in0 s.arg0.toNat with
  | error t => exact command_error hr t
  | ok r => exact command_ok hr _ _

theorem exec_fseVdecode_state {sel : VSel} (hc : compressedOpen s = false)
    (hx : nstates (streamOf sel) ≤ s.arg0.toNat) : exec (.fseVdecode sel) s = .next (faulted .badOperand 0 s) := by
  show execFseVdecode sel s = _
  rw [execFseVdecode, raiseBusy_closed hc, argNat, raiseIf_pos (decide_eq_true hx), command_error hr, takeFault_zero]

theorem exec_fseVdecode_runs {sel : VSel} (hc : compressedOpen s = false)
    (hx : s.arg0.toNat < nstates (streamOf sel)) :
    exec (.fseVdecode sel) s = .next (fseVdecodeEnd s (fseVdecode (s.vdecTab.get sel) s.in1 s.arg0.toNat)) := by
  show execFseVdecode sel s = _
  rw [execFseVdecode, raiseBusy_closed hc, argNat, raiseIf_neg (decide_eq_false (Nat.not_le.mpr hx))]
  cases fseVdecode (s.vdecTab.get sel) s.in1 s.arg0.toNat with
  | error t => exact command_error hr t
  | ok r => exact command_ok hr _ _

end CodecCommands

/-- Settles O33: the operands and the entry in R170's order, then the outcomes of the push of the low bits. -/
theorem fseEncodeResult : Obligations.FseEncodeResult := by
  intro sel s hr
  refine ⟨exec_fseEncode_state hr, exec_fseEncode_symbol hr, fun hst hi he => ?_, fun e hst hi he => ?_⟩
  · rw [exec_fseEncode_runs hr hst hi, fseEncode_empty he]
    rfl
  · have hlow : s.arg0.toNat % 2 ^ encodeBits e s.arg0.toNat < 2 ^ encodeBits e s.arg0.toNat :=
      Nat.mod_lt _ (Nat.two_pow_pos _)
    rw [exec_fseEncode_runs hr hst hi, fseEncode_some he]
    refine ⟨fun h0 => ?_, fun h0 h64 => ?_, fun h0 h64 => ?_⟩
    · rw [outPush_invalid hlow h0]
      rfl
    · rw [outPush_overflow hlow h0 h64]
      rfl
    · rw [outPush_ok hlow h0 h64]
      rfl

/-- Settles O34: the interlock, the operand and the entry in the rules' order, then the outcomes of the pull. -/
theorem fseDecodeResults : Obligations.FseDecodeResults := by
  refine ⟨fun s hr => ⟨exec_fseDecode_state hr, fun hx he => ?_, fun e hx he => ?_⟩,
    fun sel s hr => ⟨fun ho => command_busy hr ho _ _, fun hc => ⟨exec_fseVdecode_state hr hc, fun hx he => ?_,
      fun e hx he => ?_⟩⟩⟩
  · rw [exec_fseDecode_runs hr hx, fseDecode_empty he]
    rfl
  · rw [exec_fseDecode_runs hr hx, fseDecode_some he]
    refine ⟨fun hv => ?_, fun hv hn => ?_, fun hv hn => ?_⟩
    · rw [inPull_invalid hv]
      rfl
    · rw [inPull_underflow hv hn]
      rfl
    · rw [inPull_ok hv hn]
      rfl
  · rw [exec_fseVdecode_runs hr hc hx, fseVdecode_empty he]
    rfl
  · rw [exec_fseVdecode_runs hr hc hx, fseVdecode_some he]
    refine ⟨fun hv => ?_, fun hv hn => ?_, fun hv hn => ?_⟩
    · rw [inPull_invalid hv]
      rfl
    · rw [inPull_underflow hv hn]
      rfl
    · rw [inPull_ok hv hn]
      rfl

/-! ### A state and the state it is encoded to (R176) -/

/-- k is at most log2 N. -/
theorem stateShift_le {n f : Nat} (hn : StateCount n) (hf : f ≠ 0) (hle : f ≤ n) : stateShift n f ≤ Nat.log2 n := by
  obtain ⟨-, hhi⟩ := stateShift_spec hn hf hle
  obtain ⟨m, -, rfl⟩ := hn
  have hpow : 2 ^ stateShift (2 ^ m) f < 2 ^ (m + 1) := by
    rw [pow_succ']
    exact lt_of_le_of_lt (Nat.le_mul_of_pos_left _ (Nat.pos_of_ne_zero hf)) hhi
  rw [Nat.log2_two_pow]
  exact Nat.le_of_lt_succ ((Nat.pow_lt_pow_iff_right (by decide)).mp hpow)

theorem two_pow_stateShift_dvd {n f : Nat} (hn : StateCount n) (hf : f ≠ 0) (hle : f ≤ n) : 2 ^ stateShift n f ∣ n := by
  have hk := stateShift_le hn hf hle
  obtain ⟨m, -, rfl⟩ := hn
  rw [Nat.log2_two_pow] at hk
  exact Nat.pow_dvd_pow 2 hk

/-- Above a multiple of p, the digit of a state below p stays as it is. -/
theorem add_div_of_dvd {n st p : Nat} (hpos : 0 < p) (hp : p ∣ n) :
    (n + st) / p = n / p + st / p ∧ (n + st) / p * p + st % p = n + st := by
  obtain ⟨c, rfl⟩ := hp
  refine ⟨by rw [Nat.mul_add_div hpos, Nat.mul_div_cancel_left _ hpos], ?_⟩
  have h := Nat.div_add_mod' (p * c + st) p
  rwa [Nat.mul_add_mod] at h

section EncodeStep

variable {n off f st : Nat}

/-- s0 separates the states that push k bits from those that push k − 1 (R155, R170). -/
theorem encodeBits_encEntry (hn : StateCount n) (hf : f ≠ 0) (hle : off + f ≤ n) (st : Nat) :
    encodeBits (encEntry n off f) st =
      if f * 2 ^ stateShift n f ≤ n + st then stateShift n f else stateShift n f - 1 := by
  obtain ⟨hk, hs0, -, -⟩ := encEntry_fields hn hf hle
  have hlong : ((f * 2 ^ stateShift n f : Nat) - n : Int) ≤ st ↔ f * 2 ^ stateShift n f ≤ n + st := by omega
  simp only [encodeBits, hk, hs0, hlong]
  split <;> omega

/-- Where k is 0, every state is at least s0. -/
theorem one_le_shift_of_short (hle : f ≤ n) (hshort : n + st < f * 2 ^ stateShift n f) : 1 ≤ stateShift n f := by
  by_contra h
  rw [show stateShift n f = 0 by omega, pow_zero] at hshort
  omega

/-- Both deltas take the state, seen as n + s, to its high part among the states of the symbol (R155, R170). -/
theorem encodeDelta_encEntry (hn : StateCount n) (hf : f ≠ 0) (hle : off + f ≤ n) (st : Nat) :
    encodeDelta (encEntry n off f) st = (off : Int) - f + (n / 2 ^ encodeBits (encEntry n off f) st : Nat) := by
  obtain ⟨-, hs0, hd0, hd1⟩ := encEntry_fields hn hf hle
  rw [encodeBits_encEntry hn hf hle, encodeDelta, hs0]
  by_cases hlong : f * 2 ^ stateShift n f ≤ n + st
  · rw [if_pos (by omega), if_pos hlong, hd0]
  · rw [if_neg (by omega), if_neg hlong, hd1, if_pos (one_le_shift_of_short (by omega) (Nat.lt_of_not_le hlong))]

/-- A decoder state that pulls k bits (R157). -/
theorem stateForm_long {k j : Nat} (h : f + j < 2 * n / 2 ^ k) : stateForm n f k j = (k, (f + j) * 2 ^ k - n) := by
  rw [stateForm, if_pos (by omega)]

/-- A decoder state that pulls k − 1 bits: its delta has the form of the others (R157). -/
theorem stateForm_short {k j : Nat} (hk : 2 ^ k ∣ n) (hf : f ≤ 2 * n / 2 ^ (k + 1)) (h : 2 * n / 2 ^ (k + 1) ≤ f + j) :
    stateForm n f (k + 1) j = (k, (f + j) * 2 ^ k - n) := by
  have hhalf : 2 * n / 2 ^ (k + 1) = n / 2 ^ k := by rw [pow_succ', Nat.mul_div_mul_left _ _ two_pos]
  rw [stateForm, if_neg (by omega), Nat.add_sub_cancel, show j - (2 * n / 2 ^ (k + 1) - f) = f + j - n / 2 ^ k by omega,
    Nat.sub_mul, Nat.div_mul_cancel hk]

/-- State n + st, cut by b bits, is a state of the symbol whose decoder form pulls b bits and adds them to the part kept. -/
structure LandsIn (n f k st b : Nat) : Prop where
  first : f ≤ (n + st) / 2 ^ b
  last : (n + st) / 2 ^ b < 2 * f
  form : stateForm n f k ((n + st) / 2 ^ b - f) = (b, (n + st) / 2 ^ b * 2 ^ b - n)

theorem landsIn_long {k : Nat} (hdvd : 2 ^ k ∣ n) (hk : n ≤ f * 2 ^ k) (hst : st < n) (hlong : f * 2 ^ k ≤ n + st) :
    LandsIn n f k st k := by
  have hfirst : f ≤ (n + st) / 2 ^ k := (Nat.le_div_iff_mul_le (Nat.two_pow_pos k)).mpr hlong
  have hbelow : (n + st) / 2 ^ k < 2 * n / 2 ^ k := Nat.div_lt_div_of_lt_of_dvd (hdvd.mul_left 2) (by omega)
  have hlast : 2 * n / 2 ^ k ≤ 2 * f := Nat.div_le_of_le_mul (by linarith)
  refine ⟨hfirst, hbelow.trans_le hlast, ?_⟩
  rw [stateForm_long (by omega), Nat.add_sub_cancel' hfirst]

theorem landsIn_short {k : Nat} (hdvd : 2 ^ k ∣ n) (hk : f * 2 ^ (k + 1) < 2 * n) (hshort : n + st < f * 2 ^ (k + 1)) :
    LandsIn n f (k + 1) st k := by
  have hf : f ≤ 2 * n / 2 ^ (k + 1) := (Nat.le_div_iff_mul_le (Nat.two_pow_pos _)).mpr hk.le
  have habove : 2 * n / 2 ^ (k + 1) ≤ (n + st) / 2 ^ k := by
    rw [pow_succ', Nat.mul_div_mul_left _ _ two_pos]
    exact Nat.div_le_div_right (Nat.le_add_right n st)
  refine ⟨hf.trans habove, ?_, ?_⟩
  · rw [Nat.div_lt_iff_lt_mul (Nat.two_pow_pos k), mul_comm 2 f, mul_assoc, ← pow_succ']
    exact hshort
  · rw [stateForm_short hdvd hf (by omega), Nat.add_sub_cancel' (hf.trans habove)]

/-- The bits that R170 pushes are those that the state it lands in pulls, and they cut n at a whole number of states. -/
theorem landsIn_encodeBits (hn : StateCount n) (hf : f ≠ 0) (hle : off + f ≤ n) (hst : st < n) :
    LandsIn n f (stateShift n f) st (encodeBits (encEntry n off f) st) ∧ 2 ^ encodeBits (encEntry n off f) st ∣ n := by
  obtain ⟨hlo, hhi⟩ := stateShift_spec hn hf (by omega)
  have hdvd := two_pow_stateShift_dvd hn hf (by omega)
  rw [encodeBits_encEntry hn hf hle]
  by_cases hlong : f * 2 ^ stateShift n f ≤ n + st
  · rw [if_pos hlong]
    exact ⟨landsIn_long hdvd hlo hst hlong, hdvd⟩
  · rw [if_neg hlong]
    obtain ⟨k, hk⟩ := Nat.exists_eq_add_of_le' (one_le_shift_of_short (by omega) (Nat.lt_of_not_le hlong))
    rw [hk] at hdvd hhi hlong ⊢
    have hdvd' := (Nat.pow_dvd_pow 2 (Nat.le_succ k)).trans hdvd
    exact ⟨landsIn_short hdvd' hhi (Nat.lt_of_not_le hlong), hdvd'⟩

theorem encodeBits_le (hn : StateCount n) (hf : f ≠ 0) (hle : off + f ≤ n) (st : Nat) :
    encodeBits (encEntry n off f) st ≤ Nat.log2 n := by
  have hk := stateShift_le hn hf (by omega)
  rw [encodeBits_encEntry hn hf hle]
  split <;> omega

/-- Encoding lands in state j of the symbol, which pulls the bits pushed and adds them to the rest of the old state (R176). -/
theorem encEntry_lands (hn : StateCount n) (hf : f ≠ 0) (hle : off + f ≤ n) (hst : st < n) :
    ∃ j d, j < f ∧
      encodeDelta (encEntry n off f) st + (st / 2 ^ encodeBits (encEntry n off f) st : Nat) = (off + j : Nat) ∧
      stateForm n f (stateShift n f) j = (encodeBits (encEntry n off f) st, d) ∧
      d + st % 2 ^ encodeBits (encEntry n off f) st = st := by
  obtain ⟨⟨hfirst, hlast, hform⟩, hdvd⟩ := landsIn_encodeBits hn hf hle hst
  have hdelta := encodeDelta_encEntry hn hf hle st
  generalize encodeBits (encEntry n off f) st = b at *
  obtain ⟨hdiv, hmod⟩ := add_div_of_dvd (st := st) (Nat.two_pow_pos b) hdvd
  have hlow := Nat.mod_le st (2 ^ b)
  exact ⟨_, _, by omega, by omega, hform, by omega⟩

end EncodeStep

/-! ### The step on the tables (R155, R157, R159) -/

/-- A push of a field that fits adds the field above the bits held (R132, R133). -/
theorem outPush_adds {o : OutAcc} {n b : Nat} (hb : b < 2 ^ n) (ho : outHeld o) (hroom : o.nbits + n ≤ 64) :
    ∃ o', outPush o n b = .ok o' ∧ outHeld o' ∧ o'.nbits = o.nbits + n ∧
      o'.accum.toNat = o.accum.toNat + b * 2 ^ o.nbits.toNat := by
  have hpush := outPush_ok hb ho.1 hroom
  refine ⟨_, hpush, outPush_held hpush ho.sound, rfl, ?_⟩
  rw [pushed_accum_add hb ho hroom, Nat.add_comm]

/-- Symbol i encoded in state st, by the table made of FREQ[SEL]: its low nb bits go to OUT, and the next state is state j of the
symbol, whose decoder form pulls nb bits and adds them to d (R170, R176). -/
structure EncodesSymbol (s : State) (sel : Sel) (i st : Nat) (o o' : OutAcc) (j nb d : Nat) : Prop where
  encode : fseEncode (encTable (nstates sel) (s.freqList sel)) o st i = .ok (o', (freqBefore s sel i + j : Nat), nb)
  nbits : o'.nbits = o.nbits + nb
  accum : o'.accum.toNat = o.accum.toNat + st % 2 ^ nb * 2 ^ o.nbits.toNat
  lt : j < freqAt s sel i
  form : stateForm (nstates sel) (freqAt s sel i) (stateShift (nstates sel) (freqAt s sel i)) j = (nb, d)
  old : d + st % 2 ^ nb = st
  width : nb ≤ 10
  delta_lt : d < 1024

theorem encodesSymbol {s : State} {sel : Sel} {i st : Nat} {o : OutAcc} (hsum : freqTotal s sel ≤ nstates sel)
    (hi : i < nsym sel) (hf : freqAt s sel i ≠ 0) (hst : st < nstates sel) (ho : outHeld o)
    (hroom : o.nbits + Nat.log2 (nstates sel) ≤ 64) : ∃ o' j nb d, EncodesSymbol s sel i st o o' j nb d := by
  have hn := stateCount_nstates sel
  have hle := (freqBefore_add_le hi).trans hsum
  have hfind := encTable_find (s := s) hi (nstates sel)
  rw [if_neg hf] at hfind
  have hbits := encodeBits_le hn hf hle st
  have hlog : Nat.log2 (nstates sel) ≤ 10 := by cases sel <;> decide
  obtain ⟨j, d, hj, hnext, hform, hold⟩ := encEntry_lands hn hf hle hst
  obtain ⟨o', hpush, -, hnbits, haccum⟩ := outPush_adds (Nat.mod_lt st (Nat.two_pow_pos _)) ho
    ((Int.add_le_add_left (Int.ofNat_le.mpr hbits) _).trans hroom)
  refine ⟨o', j, _, d, ?_, hnbits, haccum, hj, hform, hold, hbits.trans hlog, ?_⟩
  · rw [fseEncode_some hfind, hpush, ← hnext]
    rfl
  · have := hn.le_1024
    omega

theorem ofNat16_toInt {d : Nat} (hd : d < 1024) : (BitVec.ofNat 16 d).toInt = d := by
  rw [← BitVec.ofInt_natCast]
  exact ofInt16_toInt (by omega) (by omega)

theorem ofNat8_toNat {n : Nat} (hn : n < 256) : (BitVec.ofNat 8 n).toNat = n := Nat.mod_eq_of_lt hn

/-- Decoding in state j of literal i, by the table made of FREQ[LIT]. -/
theorem fseDecode_table {s : State} {i j nb d low : Nat} {x y : InAcc} (hi : i < 256) (hj : j < freqAt s .lit i)
    (hform : stateForm 1024 (freqAt s .lit i) (stateShift 1024 (freqAt s .lit i)) j = (nb, d)) (hnb : nb ≤ 10)
    (hd : d < 1024) (hpull : inPull x nb = .ok (low, y)) :
    fseDecode (tableOf (stacked (decSymbolEntries 1024) 0 (s.freqList .lit))) x (freqBefore s .lit i + j) =
      .ok ((d + low : Nat), i, y) := by
  have hfind := stackedTable_find (decSymbolEntries_length 1024) s .lit hi hj
  rw [decSymbolEntries_getElem? hj, hform] at hfind
  rw [fseDecode_some hfind]
  dsimp only
  rw [ofNat8_toNat (n := nb) (by omega), hpull, ofNat16_toInt hd, ofNat8_toNat hi]
  rfl

/-- The tables of R104. -/
theorem vbits_le (sel : VSel) : ∀ i, i < nsym (streamOf sel) → (vbits sel).getD i 0 ≤ 15 := by
  cases sel <;> decide

theorem vbase_toInt (sel : VSel) : ∀ i, i < nsym (streamOf sel) →
    (BitVec.ofNat 32 ((vbase sel).getD i 0)).toInt = ((vbase sel).getD i 0 : Nat) := by
  cases sel <;> decide

/-- Decoding in state j of symbol i of an L, M or D stream, by the table made of its frequencies. -/
theorem fseVdecode_table {s : State} {sel : VSel} {i j nb d low b : Nat} {x y : InAcc} (hi : i < nsym (streamOf sel))
    (hj : j < freqAt s (streamOf sel) i)
    (hform : stateForm (nstates (streamOf sel)) (freqAt s (streamOf sel) i)
      (stateShift (nstates (streamOf sel)) (freqAt s (streamOf sel) i)) j = (nb, d)) (hnb : nb ≤ 10) (hd : d < 1024)
    (hb : b < 2 ^ (vbits sel).getD i 0)
    (hpull : inPull x (nb + (vbits sel).getD i 0) = .ok (low * 2 ^ (vbits sel).getD i 0 + b, y)) :
    fseVdecode (tableOf (stacked (valueEntries sel) 0 (s.freqList (streamOf sel)))) x (freqBefore s (streamOf sel) i + j) =
      .ok ((d + low : Nat), ((vbase sel).getD i 0 + b : Nat), y) := by
  have hfind := stackedTable_find (valueEntries_length sel) s _ hi hj
  rw [valueEntries, vdecSymbolEntries_getElem? hj, hform] at hfind
  have hvb := vbits_le sel i hi
  rw [fseVdecode_some hfind]
  dsimp only
  rw [ofNat8_toNat (n := nb + _) (by omega), hpull, ofNat16_toInt hd, ofNat8_toNat (n := (vbits sel).getD i 0) (by omega),
    vbase_toInt sel i hi, Except.map]
  dsimp only
  rw [mul_comm low, Nat.mul_add_div (Nat.two_pow_pos _), Nat.div_eq_of_lt hb, Nat.add_zero, Nat.mul_add_mod,
    Nat.mod_eq_of_lt hb]
  rfl

/-! ### Decoding what was encoded (R176) -/

theorem encTab_of_buildEnc {s e : State} {sel : Sel} (hr : ready s) (hsum : freqTotal s sel ≤ nstates sel)
    (he : exec (.buildEnc sel) s = .next e) : e.encTab.get sel = encTable (nstates sel) (s.freqList sel) := by
  rw [exec_buildEnc_fits hr hsum] at he
  cases he
  dsimp only
  rw [quad_get_put, if_pos rfl]

theorem decTab_of_buildDec {s d : State} (hr : ready s) (hsum : freqTotal s .lit ≤ 1024)
    (hd : exec .buildDec s = .next d) : d.decTab = tableOf (stacked (decSymbolEntries 1024) 0 (s.freqList .lit)) := by
  rw [exec_buildDec_fits hr hsum] at hd
  cases hd
  rfl

theorem vdecTab_of_buildVdec {s d : State} {sel : VSel} (hr : ready s) (hc : compressedOpen s = false)
    (hsum : freqTotal s (streamOf sel) ≤ nstates (streamOf sel)) (hd : exec (.buildVdec sel) s = .next d) :
    d.vdecTab.get sel = tableOf (stacked (valueEntries sel) 0 (s.freqList (streamOf sel))) := by
  rw [exec_buildVdec_fits hr hc hsum] at hd
  cases hd
  dsimp only
  rw [triple_get_put, if_pos rfl]

/-- Settles O35: the state encoded to is state j of the literal, whose entry pulls the bits pushed. -/
theorem literalDecodeInvertsEncode : Obligations.LiteralDecodeInvertsEncode := by
  intro s e d hr hsum he hd i st o hi hf hst ho h0 hroom
  obtain ⟨o', j, nb, delta, h⟩ :=
    encodesSymbol (sel := .lit) hsum hi hf hst (outHeld_of_sound ho h0) (show o.nbits + (10 : Nat) ≤ 64 by omega)
  rw [encTab_of_buildEnc hr hsum he, decTab_of_buildDec hr hsum hd]
  refine ⟨o', _, nb, h.encode, Nat.le_add_right _ _, Nat.add_lt_add_left h.lt _, h.nbits, h.accum, fun x y hpull => ?_⟩
  rw [fseDecode_table hi h.lt h.form h.width h.delta_lt hpull, h.old]

/-- The symbol of a value and its extra bits (R105, R161). -/
theorem symbolOfValue_ok {sel : VSel} {v x b : Nat} (h : symbolOfValue sel v = .ok (x, b)) :
    x < nsym (streamOf sel) ∧ (vbase sel).getD x 0 + b = v ∧ b < 2 ^ (vbits sel).getD x 0 := by
  obtain ⟨hv, h⟩ := raiseIf_ok h
  cases h
  obtain ⟨hx, hle, -⟩ := symbolOf_spec sel v
  exact ⟨hx, Nat.add_sub_cancel' hle, symbolOf_rest (Nat.le_of_not_lt (of_decide_eq_false hv))⟩

/-- Settles O36: as for a literal, with the extra bits below the symbol's, which the entry splits off again. -/
theorem valueDecodeInvertsEncode : Obligations.ValueDecodeInvertsEncode := by
  intro sel s e d hr hc hsum he hd v x b st o hv hf hst ho h0 hroom
  obtain ⟨hx, hvalue, hb⟩ := symbolOfValue_ok hv
  have hvb := vbits_le sel x hx
  have hlog : Nat.log2 (nstates (streamOf sel)) ≤ 8 := by cases sel <;> decide
  obtain ⟨o1, hpush, ho1, hn1, ha1⟩ := outPush_adds hb (outHeld_of_sound ho h0) (by omega)
  obtain ⟨o', j, nb, delta, h⟩ := encodesSymbol hsum hx hf hst ho1 (by omega)
  rw [encTab_of_buildEnc hr hsum he, vdecTab_of_buildVdec hr hc hsum hd]
  refine ⟨o', freqBefore s (streamOf sel) x + j, nb, ?_, ?_, ?_, ?_, fun a y hpull => ?_⟩
  · rw [encodeValue, hpush]
    dsimp only
    rw [encodeSymbol, h.encode]
    rfl
  · have := freqBefore_add_le (s := s) hx
    have := h.lt
    omega
  · rw [h.nbits, hn1]
    omega
  · rw [h.accum, ha1, show o1.nbits.toNat = o.nbits.toNat + (vbits sel).getD x 0 by omega]
    ring
  · rw [fseVdecode_table hx h.lt h.form h.width h.delta_lt hb hpull, h.old, hvalue]

end Sys2Proof.Proofs

namespace Sys2Proof.Proofs

open Sys2Proof Sys2Proof.Machine Sys2Proof.Laws

/-! ## The header codec (43_header_codec.md) -/

/-! ### The frequency code (30_encoding.md R101, R103) -/

theorem codeOf_middle {v : Nat} (hl : 8 ≤ v) (hu : v ≤ 23) : codeOf v = (7 + 16 * (v - 8), 8) := by
  have hs : ∀ u, u < 8 → v ≠ u := fun u hu' => by omega
  unfold codeOf
  simp [hs, hu]

theorem codeOf_large {v : Nat} (hl : 24 ≤ v) : codeOf v = (15 + 16 * (v - 24), 14) := by
  have hs : ∀ u, u < 8 → v ≠ u := fun u hu' => by omega
  unfold codeOf
  simp [hs, Nat.not_le.mpr (show 23 < v from hl)]

/-- The three ranges of R101. -/
theorem value_ranges (v : Nat) : v < 8 ∨ (8 ≤ v ∧ v ≤ 23) ∨ 24 ≤ v := by omega

/-- The model's code is R101's. -/
theorem freqCode_eq (v : Nat) : freqCode v = codeOf v := by
  unfold freqCode
  split
  · interval_cases v <;> rfl
  · split
    · rw [codeOf_middle (by omega) (by omega)]
    · rw [codeOf_large (by omega)]

theorem codeOf_length (v : Nat) : 2 ≤ (codeOf v).2 ∧ (codeOf v).2 ≤ 14 := by
  rcases value_ranges v with h | ⟨hl, hu⟩ | h
  · interval_cases v <;> decide
  · rw [codeOf_middle hl hu]
    simp
  · rw [codeOf_large h]
    simp

theorem codeOf_lt {v : Nat} (hv : v ≤ 1047) : (codeOf v).1 < 2 ^ (codeOf v).2 := by
  rcases value_ranges v with h | ⟨hl, hu⟩ | h
  · interval_cases v <;> decide
  · rw [codeOf_middle hl hu]
    dsimp only
    omega
  · rw [codeOf_large h]
    dsimp only
    omega

/-! ### Decoding a window (R103) -/

/-- A window whose low 5 bits are a code word of at most 5 bits reads its entry of the two tables. -/
theorem freqDecode_short {w : Nat} (h7 : w % 32 % 16 ≠ 7) (h15 : w % 32 % 16 ≠ 15) :
    freqDecode w = (freqValue.getD (w % 32) 0, freqNbits.getD (w % 32) 0) := by
  have hn : ∀ b, b < 32 → b % 16 ≠ 7 → b % 16 ≠ 15 → freqNbits.getD b 0 ≠ 8 ∧ freqNbits.getD b 0 ≠ 14 := by decide
  obtain ⟨h8, h14⟩ := hn _ (Nat.mod_lt w (by decide)) h7 h15
  simp only [freqDecode, if_neg h8, if_neg h14]

theorem freqDecode_middle {w : Nat} (h : w % 32 % 16 = 7) : freqDecode w = (8 + w / 2 ^ 4 % 16, 8) := by
  have hn : ∀ b, b < 32 → b % 16 = 7 → freqNbits.getD b 0 = 8 := by decide
  simp only [freqDecode, hn _ (Nat.mod_lt w (by decide)) h, if_true]

theorem freqDecode_large {w : Nat} (h : w % 32 % 16 = 15) : freqDecode w = (24 + w / 2 ^ 4 % 1024, 14) := by
  have hn : ∀ b, b < 32 → b % 16 = 15 → freqNbits.getD b 0 = 14 := by decide
  simp only [freqDecode, hn _ (Nat.mod_lt w (by decide)) h, if_true, if_neg (show ¬14 = 8 by decide)]

/-- Low bits of a window that its low 5 bits decide. -/
theorem mod_low_five (w : Nat) {n : Nat} (hn : n ≤ 5) : w % 32 % 2 ^ n = w % 2 ^ n :=
  Nat.mod_mod_of_dvd w (Nat.pow_dvd_pow 2 hn)

/-- Every window starts with the code word of the value it decodes to. -/
theorem freqDecode_starts (w : Nat) :
    (freqDecode w).1 ≤ 1047 ∧ codeOf (freqDecode w).1 = (w % 2 ^ (freqDecode w).2, (freqDecode w).2) := by
  by_cases h7 : w % 32 % 16 = 7
  · rw [freqDecode_middle h7, codeOf_middle (by omega) (by omega)]
    exact ⟨by omega, Prod.ext (by dsimp only; omega) rfl⟩
  · by_cases h15 : w % 32 % 16 = 15
    · rw [freqDecode_large h15, codeOf_large (by omega)]
      exact ⟨by omega, Prod.ext (by dsimp only; omega) rfl⟩
    · have htab : ∀ b, b < 32 → b % 16 ≠ 7 → b % 16 ≠ 15 → freqValue.getD b 0 ≤ 1047 ∧ freqNbits.getD b 0 ≤ 5 ∧
          codeOf (freqValue.getD b 0) = (b % 2 ^ freqNbits.getD b 0, freqNbits.getD b 0) := by decide
      obtain ⟨hv, hn, hcode⟩ := htab _ (Nat.mod_lt w (by decide)) h7 h15
      rw [freqDecode_short h7 h15]
      exact ⟨hv, by rw [hcode, mod_low_five w hn]⟩

/-- A window that starts with a code word decodes to its value. -/
theorem freqDecode_of_code {v w : Nat} (hv : v ≤ 1047) (h : w % 2 ^ (codeOf v).2 = (codeOf v).1) :
    freqDecode w = (v, (codeOf v).2) := by
  rcases value_ranges v with hs | ⟨hl, hu⟩ | hl
  · have htab : ∀ v, v < 8 → (codeOf v).2 ≤ 5 ∧ ∀ b, b < 32 → b % 2 ^ (codeOf v).2 = (codeOf v).1 →
        b % 16 ≠ 7 ∧ b % 16 ≠ 15 ∧ (freqValue.getD b 0, freqNbits.getD b 0) = (v, (codeOf v).2) := by decide
    obtain ⟨hn, hb⟩ := htab v hs
    obtain ⟨h7, h15, he⟩ := hb _ (Nat.mod_lt w (by decide)) ((mod_low_five w hn).trans h)
    rw [freqDecode_short h7 h15, he]
  · rw [codeOf_middle hl hu] at h ⊢
    dsimp only at h ⊢
    rw [freqDecode_middle (by omega)]
    exact Prod.ext (by dsimp only; omega) rfl
  · rw [codeOf_large hl] at h ⊢
    dsimp only at h ⊢
    rw [freqDecode_large (by omega)]
    exact Prod.ext (by dsimp only; omega) rfl

/-- Settles O37: the value read is the one whose code word the window starts with. -/
theorem frequencyCodes : Obligations.FrequencyCodes := by
  intro s hr
  obtain ⟨hle, hcode⟩ := freqDecode_starts s.arg0.toNat
  refine ⟨fun h => ?_, fun h => ?_, (freqDecode s.arg0.toNat).1, hle, ?_, fun u hu h => ?_, ?_⟩
  · show execFreqEnc s = _
    rw [execFreqEnc, raiseIf_pos (decide_eq_true (show freqValueMax < argNat s.arg0 from h)), command_error hr,
      takeFault_zero]
  · show execFreqEnc s = _
    rw [execFreqEnc, raiseIf_neg (decide_eq_false (show ¬freqValueMax < argNat s.arg0 from Nat.not_lt.mpr h)),
      command_ok hr, freqCode_eq]
    rfl
  · rw [hcode]
  · rw [freqDecode_of_code hu h]
  · show execFreqDec s = _
    rw [execFreqDec, command_ok hr, hcode]
    rfl

/-! ### The frequency region as a number (R102) -/

theorem freqRegionBits_eq (f : List Nat) : freqRegionBits f = regionOf f := by
  induction f with
  | nil => rfl
  | cons v r ih => rw [freqRegionBits, regionOf, ih, freqCode_eq, mul_comm]

theorem regionOf_length (f : List Nat) : 2 * f.length ≤ (regionOf f).2 ∧ (regionOf f).2 ≤ 14 * f.length := by
  induction f with
  | nil => simp [regionOf]
  | cons v r ih =>
    have hv := codeOf_length v
    simp only [regionOf, List.length_cons]
    omega

theorem regionOf_lt {f : List Nat} (hf : ∀ v ∈ f, v ≤ 1047) : (regionOf f).1 < 2 ^ (regionOf f).2 := by
  induction f with
  | nil => simp [regionOf]
  | cons v r ih =>
    obtain ⟨hv, hr⟩ := List.forall_mem_cons.mp hf
    have hcode := codeOf_lt hv
    simp only [regionOf, pow_add]
    calc (codeOf v).1 + 2 ^ (codeOf v).2 * (regionOf r).1
        < 2 ^ (codeOf v).2 * ((regionOf r).1 + 1) := by rw [mul_add_one]; omega
      _ ≤ 2 ^ (codeOf v).2 * 2 ^ (regionOf r).2 := Nat.mul_le_mul_left _ (ih hr)

/-! ### The bit window over a region (R185) -/

/-- The bits of the region not yet decoded, as a number: those the window holds, then the bytes it has not read. -/
def windowRest (m : Memory) (stop : Nat) (w : Window) : Nat := w.acc + 2 ^ w.nb * memRead m w.pos (stop - w.pos)

/-- How many bits of the region are not yet decoded. -/
def windowLeft (stop : Nat) (w : Window) : Nat := w.nb + 8 * (stop - w.pos)

/-- A window within its region that holds no more bits than it counts. -/
def WindowSound (stop : Nat) (w : Window) : Prop := w.pos ≤ stop ∧ w.acc < 2 ^ w.nb

/-- The window after n of its bits are taken. -/
def takeBits (n : Nat) (w : Window) : Window := { w with acc := w.acc / 2 ^ n, nb := w.nb - n }

section Windows

variable {m : Memory} {stop : Nat} {w : Window}

theorem windowSound_start {src : Nat} (h : src ≤ stop) : WindowSound stop { acc := 0, nb := 0, pos := src } :=
  ⟨h, Nat.one_pos⟩

/-- What a refill keeps: the bits not yet decoded. -/
structure Refills (m : Memory) (stop : Nat) (w w' : Window) : Prop where
  sound : WindowSound stop w'
  rest : windowRest m stop w' = windowRest m stop w
  left : windowLeft stop w' = windowLeft stop w

theorem refills_byte (hs : WindowSound stop w) (h : w.pos < stop) : Refills m stop w
    { acc := w.acc + (readByte m w.pos).toNat * 2 ^ w.nb, nb := w.nb + 8, pos := w.pos + 1 } := by
  obtain ⟨-, hacc⟩ := hs
  obtain ⟨k, hk⟩ := Nat.exists_eq_add_of_lt h
  have hstop : stop - w.pos = 1 + k ∧ stop - (w.pos + 1) = k := by omega
  have hbyte : memRead m w.pos 1 = (readByte m w.pos).toNat := by simp [memRead, readBytes, leValue]
  refine ⟨⟨h, ?_⟩, ?_, ?_⟩
  · have hb := (readByte m w.pos).isLt
    calc w.acc + (readByte m w.pos).toNat * 2 ^ w.nb
        < ((readByte m w.pos).toNat + 1) * 2 ^ w.nb := by rw [add_one_mul]; omega
      _ ≤ 2 ^ 8 * 2 ^ w.nb := Nat.mul_le_mul_right _ hb
      _ = 2 ^ (w.nb + 8) := by rw [pow_add, mul_comm]
  · simp only [windowRest]
    rw [hstop.1, hstop.2, memRead_add, hbyte, pow_add]
    ring
  · simp only [windowLeft]
    omega

/-- A refill stops at the end of the region, with more than 24 bits, or for want of fuel. -/
theorem refill_refills (fuel : Nat) (hs : WindowSound stop w) : Refills m stop w (refill m stop fuel w) ∧
    ((refill m stop fuel w).pos = stop ∨ 24 < (refill m stop fuel w).nb ∨
      w.nb + 8 * fuel ≤ (refill m stop fuel w).nb) := by
  induction fuel generalizing w with
  | zero => exact ⟨⟨hs, rfl, rfl⟩, .inr (.inr le_rfl)⟩
  | succ fuel ih =>
    rw [refill]
    split
    · next h =>
      have hstep := refills_byte (m := m) hs h.1
      obtain ⟨hrest, hstops⟩ := ih hstep.sound
      refine ⟨⟨hrest.sound, hrest.rest.trans hstep.rest, hrest.left.trans hstep.left⟩, ?_⟩
      dsimp only at hstops
      omega
    · next h =>
      obtain ⟨hpos, hacc⟩ := hs
      exact ⟨⟨⟨hpos, hacc⟩, rfl, rfl⟩, by omega⟩

/-- R185's refill, before each code word. -/
theorem refill_four (hs : WindowSound stop w) : Refills m stop w (refill m stop 4 w) ∧
    ((refill m stop 4 w).pos = stop ∨ 24 < (refill m stop 4 w).nb) := by
  obtain ⟨h, hstops⟩ := refill_refills (m := m) 4 hs
  exact ⟨h, by omega⟩

theorem takeBits_sound {n : Nat} (hs : WindowSound stop w) (hn : n ≤ w.nb) : WindowSound stop (takeBits n w) := by
  refine ⟨hs.1, Nat.div_lt_of_lt_mul ?_⟩
  rw [takeBits, ← pow_add, Nat.add_sub_cancel' hn]
  exact hs.2

theorem windowRest_takeBits {n : Nat} (hn : n ≤ w.nb) :
    windowRest m stop w = w.acc % 2 ^ n + 2 ^ n * windowRest m stop (takeBits n w) := by
  have hpow : 2 ^ w.nb = 2 ^ n * 2 ^ (w.nb - n) := by rw [← pow_add, Nat.add_sub_cancel' hn]
  have hacc := Nat.mod_add_div w.acc (2 ^ n)
  simp only [windowRest, takeBits]
  rw [hpow, mul_add, ← add_assoc, hacc, mul_assoc]

theorem windowLeft_takeBits {n : Nat} (hn : n ≤ w.nb) : windowLeft stop w = n + windowLeft stop (takeBits n w) := by
  simp only [windowLeft, takeBits]
  omega

/-- One frequency of the region: a refill, a code word that the window holds, then the others. -/
theorem decodeFreqs_succ {count : Nat} {f : List Nat} {w' : Window} :
    decodeFreqs m stop (count + 1) w = some (f, w') ↔
      ∃ v n r, f = v :: r ∧ freqDecode (refill m stop 4 w).acc = (v, n) ∧ n ≤ (refill m stop 4 w).nb ∧
        decodeFreqs m stop count (takeBits n (refill m stop 4 w)) = some (r, w') := by
  rcases hc : freqDecode (refill m stop 4 w).acc with ⟨v, n⟩
  rw [decodeFreqs]
  simp only [hc, Prod.mk.injEq]
  constructor
  · intro h
    split at h
    · cases h
    · next hn =>
      split at h
      · cases h
      · next e =>
        cases h
        exact ⟨v, n, _, rfl, ⟨rfl, rfl⟩, Nat.not_lt.mp hn, e⟩
  · rintro ⟨_, _, r, rfl, ⟨rfl, rfl⟩, hn, e⟩
    rw [if_neg (Nat.not_lt.mpr hn)]
    rw [takeBits] at e
    rw [e]

/-- The bits not yet decoded are the code words of `f`, then what is left in `w'`, with 11 bits at least in the window short of
the region's end. -/
structure Decodes (m : Memory) (stop : Nat) (w : Window) (f : List Nat) (w' : Window) : Prop where
  legal : ∀ v ∈ f, v ≤ 1047
  rest : windowRest m stop w = (regionOf f).1 + 2 ^ (regionOf f).2 * windowRest m stop w'
  left : windowLeft stop w = (regionOf f).2 + windowLeft stop w'
  full : f = [] ∨ w'.pos = stop ∨ 10 < w'.nb

theorem decodeFreqs_decodes {count : Nat} {f : List Nat} {w' : Window} (hs : WindowSound stop w)
    (h : decodeFreqs m stop count w = some (f, w')) : f.length = count ∧ Decodes m stop w f w' := by
  induction count generalizing w f with
  | zero =>
    cases h
    exact ⟨rfl, by simp, by simp [regionOf], by simp [regionOf], .inl rfl⟩
  | succ count ih =>
    obtain ⟨hfill, hstops⟩ := refill_four (m := m) hs
    obtain ⟨v, n, r, rfl, hc, hn, hr⟩ := decodeFreqs_succ.mp h
    obtain ⟨hlen, hd⟩ := ih (takeBits_sound hfill.sound hn) hr
    obtain ⟨hv, hcode⟩ := freqDecode_starts (refill m stop 4 w).acc
    simp only [hc] at hv hcode
    have hbits : n ≤ 14 := by
      have := (codeOf_length v).2
      rwa [hcode] at this
    refine ⟨congrArg _ hlen, List.forall_mem_cons.mpr ⟨hv, hd.legal⟩, ?_, ?_, .inr ?_⟩
    · rw [← hfill.rest, windowRest_takeBits hn, hd.rest, regionOf, hcode]
      dsimp only
      rw [pow_add]
      ring
    · rw [← hfill.left, windowLeft_takeBits hn, hd.left, regionOf, hcode, ← add_assoc]
    · rcases hd.full with rfl | hfull
      · cases hr' : count with
        | zero =>
          subst hr'
          cases hr
          simp only [takeBits]
          omega
        | succ _ => simp [hr'] at hlen
      · exact hfull

/-- Numbers below p with equal sums above multiples of p. -/
theorem eq_of_add_mul_eq {a c p x y : Nat} (ha : a < p) (hc : c < p) (h : a + p * x = c + p * y) : a = c ∧ x = y := by
  have hp : 0 < p := Nat.zero_lt_of_lt hc
  obtain ⟨hx, hacc⟩ := (Nat.div_mod_unique hp).mpr ⟨h, ha⟩
  obtain ⟨hy, hcc⟩ := (Nat.div_mod_unique hp).mpr ⟨rfl, hc⟩
  exact ⟨hacc.symm.trans hcc, hx.symm.trans hy⟩

/-- A region that starts with the code words of `f` decodes to `f`. -/
theorem decodeFreqs_of_region {f : List Nat} {q : Nat} (hs : WindowSound stop w) (hf : ∀ v ∈ f, v ≤ 1047)
    (hrest : windowRest m stop w = (regionOf f).1 + 2 ^ (regionOf f).2 * q) (hleft : (regionOf f).2 ≤ windowLeft stop w) :
    ∃ w', decodeFreqs m stop f.length w = some (f, w') := by
  induction f generalizing w with
  | nil => exact ⟨w, rfl⟩
  | cons v r ih =>
    obtain ⟨hv, hr⟩ := List.forall_mem_cons.mp hf
    obtain ⟨hfill, hstops⟩ := refill_four (m := m) hs
    have hbits := (codeOf_length v).2
    simp only [regionOf] at hrest hleft
    have hn : (codeOf v).2 ≤ (refill m stop 4 w).nb := by
      rcases hstops with hpos | hnb
      · have hw := hfill.left
        simp only [windowLeft, hpos] at hw hleft
        omega
      · omega
    have htake := windowRest_takeBits (m := m) (stop := stop) hn
    rw [hfill.rest, hrest, pow_add, mul_assoc, add_assoc, ← mul_add] at htake
    obtain ⟨hcode, hrest'⟩ := eq_of_add_mul_eq (codeOf_lt hv) (Nat.mod_lt _ (by positivity)) htake
    have hleft' := hfill.left
    rw [windowLeft_takeBits hn] at hleft'
    obtain ⟨w', hw'⟩ := ih (takeBits_sound hfill.sound hn) hr hrest'.symm (by omega)
    exact ⟨w', decodeFreqs_succ.mpr ⟨v, _, r, rfl, freqDecode_of_code hv hcode.symm, hn, hw'⟩⟩

end Windows

/-! ### A whole region (R185) -/

/-- The region read is the one that codes the frequencies. -/
theorem unpackFreqs_iff {m : Memory} {p hs : Nat} {f : List Nat} (h : 32 ≤ hs) :
    unpackFreqs m (p + 32) (p + hs) = some f ↔ regionCodes m p hs f := by
  have hsound : WindowSound (p + hs) { acc := 0, nb := 0, pos := p + 32 } := windowSound_start (by omega)
  have hrest : windowRest m (p + hs) { acc := 0, nb := 0, pos := p + 32 } = leValue (readBytes m (p + 32) (hs - 32)) := by
    simp only [windowRest, memRead]
    rw [show p + hs - (p + 32) = hs - 32 by omega]
    ring
  have hleft : windowLeft (p + hs) { acc := 0, nb := 0, pos := p + 32 } = 8 * (hs - 32) := by
    simp only [windowLeft]
    omega
  unfold unpackFreqs
  constructor
  · intro hf
    split at hf
    · next heq =>
      cases hf
      exact ⟨List.length_replicate, .inl ⟨by omega, rfl⟩⟩
    · split at hf
      · cases hf
      · next g w' e =>
        obtain ⟨hlen, hd⟩ := decodeFreqs_decodes hsound e
        split at hf
        · cases hf
        · next hend =>
          cases hf
          have hw := hd.left
          rw [hleft] at hw
          simp only [windowLeft] at hw
          refine ⟨hlen, .inr ⟨hd.legal, by omega, ?_⟩⟩
          rw [← hrest, hd.rest, Nat.add_mul_mod_self_left, Nat.mod_eq_of_lt (regionOf_lt hd.legal)]
  · rintro ⟨hlen, ⟨rfl, rfl⟩ | ⟨hlegal, hsize, hcode⟩⟩
    · exact if_pos rfl
    · have hbits := (regionOf_length f).1
      have hsplit := Nat.mod_add_div (leValue (readBytes m (p + 32) (hs - 32))) (2 ^ (regionOf f).2)
      rw [hcode, ← hrest] at hsplit
      obtain ⟨w', e⟩ := decodeFreqs_of_region hsound hlegal hsplit.symm (by omega)
      obtain ⟨-, hd⟩ := decodeFreqs_decodes hsound e
      have hw := hd.left
      have hfull := hd.full
      have hne : f ≠ [] := by
        rintro rfl
        cases hlen
      rw [hleft] at hw
      simp only [windowLeft] at hw
      rw [hlen] at e
      rw [if_neg (by omega), e]
      dsimp only
      rw [if_neg]
      have := hfull.resolve_left hne
      omega

/-! ### The 360 frequencies (R102) -/

@[simp] theorem concatFreqs_length (s : State) : (concatFreqs s).length = 360 := by simp [concatFreqs]

theorem concatFreqs_getElem {s : State} {i : Nat} (h : i < (concatFreqs s).length) : (concatFreqs s)[i] = concatFreq s i := by
  simp [concatFreqs]

theorem concatFreqs_getD {s : State} {i : Nat} (h : i < 360) : (concatFreqs s).getD i 0 = concatFreq s i := by
  simp [concatFreqs, h]

theorem concatFreqs_eq (s : State) : concatFreqs s = s.allFreqs := by
  apply List.ext_getElem
  · rw [allFreqs_length, concatFreqs_length]
  · intro i hi _
    rw [concatFreqs_length] at hi
    rw [concatFreqs_getElem]
    simp only [concatFreq, State.allFreqs, freqList_eq, List.getElem_map, List.getElem_range, List.getElem_append,
      List.length_append, List.length_map, List.length_range, nsym, Nat.reduceAdd]
    split_ifs <;> omega

theorem freqRegionOf_eq (s : State) : freqRegionBits s.allFreqs = freqRegionOf s := by
  rw [freqRegionBits_eq, freqRegionOf, concatFreqs_eq]

theorem headerSizeOf_eq (s : State) : v2FixedSize + freqRegionLength s.allFreqs = headerSizeOf s := by
  rw [freqRegionLength, freqRegionOf_eq, headerSizeOf, v2FixedSize]

theorem headerSizeOf_bounds (s : State) : 122 ≤ headerSizeOf s ∧ headerSizeOf s ≤ 662 := by
  have h := regionOf_length (concatFreqs s)
  rw [concatFreqs_length] at h
  rw [headerSizeOf, freqRegionOf]
  omega

/-- FREQ[0..3] loaded with 360 frequencies holds them. -/
theorem concatFreqs_loaded {t : State} {f : List Nat} (hfreq : t.freq = quadOfFreqs f) (hlen : f.length = 360)
    (hf : ∀ v ∈ f, v < 2 ^ 16) : concatFreqs t = f := by
  have hread : ∀ (sel : Sel) (i : Nat), t.freq.get sel = freqOfList ((f.drop i).take (nsym sel)) → i + nsym sel ≤ 360 →
      t.freqList sel = (f.drop i).take (nsym sel) := fun sel i hg hi => by
    rw [State.freqList, hg, freqOfList_read _ _ (by rw [List.length_take, List.length_drop]; omega)]
    exact (List.map_congr_left fun v hv => Nat.mod_eq_of_lt (hf v (List.mem_of_mem_drop (List.mem_of_mem_take hv)))).trans
      (List.map_id _)
  have hl := hread .l 0 (by rw [hfreq]; rfl) (by decide)
  have hm := hread .m 20 (by rw [hfreq]; rfl) (by decide)
  have hd := hread .d 40 (by rw [hfreq]; rfl) (by decide)
  have hlit := hread .lit 104 (by rw [hfreq]; rfl) (by decide)
  rw [concatFreqs_eq, State.allFreqs, hl, hm, hd, hlit]
  simp only [nsym]
  rw [List.drop_zero, ← List.take_add, ← List.take_add, ← List.take_add, List.take_of_length_le (by omega)]

/-! ### The first field outside its range (R184) -/

theorem badFieldIds_sublist (h : Hdr) : (badFieldIds h).Sublist (List.range' 1 13) :=
  List.Sublist.map Prod.fst List.filter_sublist

/-- The ids listed are those of R184 whose field is outside its range. -/
theorem mem_badFieldIds {s : State} {id : Nat} (h : id < 14) : id ∈ badFieldIds s.hdr ↔ ¬fieldFits s id := by
  interval_cases id <;> simp [badFieldIds, fieldFits, bitsInRange]

theorem fieldFits_high (s : State) (k : Nat) : fieldFits s (14 + k) ↔ (2 ≤ k → k < 362 → concatFreq s (k - 2) ≤ 1047) := by
  rw [Nat.add_comm]
  show (16 ≤ k + 14 → k + 14 < 376 → concatFreq s (k + 14 - 16) ≤ 1047) ↔ _
  rw [show k + 14 - 16 = k - 2 by omega]
  exact ⟨fun h h2 hk => h (by omega) (by omega), fun h h2 hk => h (by omega) (by omega)⟩

/-- The first frequency above 1047, if any. -/
theorem badFreqId_cases (i : Nat) (l : List Nat) :
    (badFreqId i l = none ∧ ∀ j, l.getD j 0 ≤ 1047) ∨
    ∃ j, badFreqId i l = some (16 + (i + j)) ∧ 1047 < l.getD j 0 ∧ ∀ k, k < j → l.getD k 0 ≤ 1047 := by
  induction l generalizing i with
  | nil => exact .inl ⟨rfl, fun j => by simp⟩
  | cons v r ih =>
    rw [badFreqId]
    by_cases hv : freqValueMax < v
    · exact .inr ⟨0, if_pos hv, hv, fun k hk => absurd hk (Nat.not_lt_zero k)⟩
    · rw [if_neg hv]
      have hv' : v ≤ 1047 := Nat.not_lt.mp hv
      rcases ih (i + 1) with ⟨he, hall⟩ | ⟨j, he, hj, hall⟩
      · exact .inl ⟨he, fun | 0 => hv' | j + 1 => hall j⟩
      · exact .inr ⟨j + 1, by rw [he, Nat.add_assoc i 1 j, Nat.add_comm 1 j], hj, fun
          | 0, _ => hv'
          | k + 1, hk => hall k (Nat.lt_of_succ_lt_succ hk)⟩

/-- The first id listed is that of the first field outside its range. -/
theorem badFieldIds_first {s : State} {id : Nat} {r : List Nat} (hb : badFieldIds s.hdr = id :: r) :
    ¬fieldFits s id ∧ ∀ j, j < id → fieldFits s j := by
  have hsub := badFieldIds_sublist s.hdr
  have hid : id ∈ badFieldIds s.hdr := hb ▸ List.mem_cons_self
  have hlt : id < 14 := by
    have := hsub.mem hid
    rw [List.mem_range'_1] at this
    omega
  refine ⟨(mem_badFieldIds hlt).mp hid, fun j hj => ?_⟩
  by_contra hfit
  have hmem := (mem_badFieldIds (hj.trans hlt)).mpr hfit
  have hrise := List.Pairwise.sublist hsub List.pairwise_lt_range'
  rw [hb] at hmem hrise
  rcases List.mem_cons.mp hmem with rfl | hr
  · exact lt_irrefl _ hj
  · exact lt_asymm hj (List.rel_of_pairwise_cons hrise hr)

/-- Every field fits where the ids below 14 and the frequencies do. -/
theorem fieldFits_of_freqs {s : State} (hlow : badFieldIds s.hdr = []) {id : Nat}
    (hfreq : 16 ≤ id → id < 376 → (concatFreqs s).getD (id - 16) 0 ≤ 1047) : fieldFits s id := by
  by_cases hid : id < 14
  · by_contra hfit
    have hmem := (mem_badFieldIds hid).mpr hfit
    rw [hlow] at hmem
    cases hmem
  · obtain ⟨k, rfl⟩ := Nat.exists_eq_add_of_le (Nat.not_lt.mp hid)
    rw [fieldFits_high]
    intro h2 hk
    have h := hfreq (by omega) (by omega)
    rwa [show 14 + k - 16 = k - 2 by omega, concatFreqs_getD (by omega)] at h

theorem not_fieldFits_of_freq {s : State} {j : Nat} (h : 1047 < (concatFreqs s).getD j 0) :
    ¬fieldFits s (16 + j) := by
  have hlt : j < 360 := by
    by_contra hge
    rw [List.getD_eq_default _ _ (by rw [concatFreqs_length]; omega)] at h
    omega
  intro hfit
  rw [show 16 + j = 14 + (j + 2) by omega, fieldFits_high, Nat.add_sub_cancel, ← concatFreqs_getD hlt] at hfit
  exact absurd (hfit (by omega) (by omega)) (Nat.not_le.mpr h)

/-- FIELD_OVERFLOW is raised for the first field that does not fit, and only where one does not. -/
theorem fieldOverflow_cases (s : State) :
    (fieldOverflow s.hdr s.allFreqs = none ∧ ∀ id, fieldFits s id) ∨
    ∃ id, ¬fieldFits s id ∧ (∀ j, j < id → fieldFits s j) ∧
      fieldOverflow s.hdr s.allFreqs = some { cause := .fieldOverflow, info := nat64 id } := by
  rw [fieldOverflow, ← concatFreqs_eq]
  cases hb : badFieldIds s.hdr with
  | cons id r =>
    obtain ⟨hbad, hbelow⟩ := badFieldIds_first hb
    exact .inr ⟨id, hbad, hbelow, rfl⟩
  | nil =>
    rcases badFreqId_cases 0 (concatFreqs s) with ⟨he, hall⟩ | ⟨j, he, hj, hall⟩
    · rw [he]
      exact .inl ⟨rfl, fun id => fieldFits_of_freqs hb fun _ _ => hall _⟩
    · rw [he, Nat.zero_add]
      exact .inr ⟨16 + j, not_fieldFits_of_freq hj, fun i hi => fieldFits_of_freqs hb fun h16 _ => hall _ (by omega), rfl⟩

/-! ### Numbers among bytes -/

theorem bytesAt_append {m : Memory} {a : Nat} {l r : List U8} :
    bytesAt m a (l ++ r) ↔ bytesAt m a l ∧ bytesAt m (a + l.length) r := by
  constructor
  · refine fun h => ⟨fun i hi => ?_, fun i hi => ?_⟩
    · rw [h i (by rw [List.length_append]; omega), List.getElem_append_left hi]
    · rw [Nat.add_assoc, h (l.length + i) (by rw [List.length_append]; omega), List.getElem_append_right (by omega)]
      simp
  · rintro ⟨hl, hr⟩ i hi
    rw [List.length_append] at hi
    by_cases h : i < l.length
    · rw [hl i h, List.getElem_append_left h]
    · rw [List.getElem_append_right (by omega), ← hr (i - l.length) (by omega), Nat.add_assoc,
        Nat.add_sub_cancel' (by omega)]

/-- A number stored in n bytes is read back. -/
theorem memRead_of_leBytes {m : Memory} {a n v : Nat} (h : bytesAt m a (leBytes n v)) : memRead m a n = v % 256 ^ n := by
  have hread := memRead_of_bytesAt h
  rwa [leBytes_length, leValue_leBytes] at hread

/-- A field of a word that is stored in as many bytes. -/
theorem memRead_of_word {m : Memory} {a n v : Nat} (h : bytesAt m a (leBytes n v)) (hv : v < 256 ^ n) :
    memRead m a n = v := by
  rw [memRead_of_leBytes h, Nat.mod_eq_of_lt hv]

/-! ### The packed header (R183, 30_encoding.md R97) -/

theorem packedW0_fields {h : Hdr} (h1 : h.nLiterals.toNat < 2 ^ 20) (h2 : h.nLiteralPayloadBytes.toNat < 2 ^ 20)
    (h3 : h.nMatches.toNat < 2 ^ 20) (h4 : -7 ≤ h.literalBits.toInt ∧ h.literalBits.toInt ≤ 0) :
    packedW0 h < 256 ^ 8 ∧ field (packedW0 h) 0 20 = h.nLiterals.toNat ∧
    field (packedW0 h) 20 20 = h.nLiteralPayloadBytes.toNat ∧ field (packedW0 h) 40 20 = h.nMatches.toNat ∧
    (field (packedW0 h) 60 3 : Int) = h.literalBits.toInt + 7 ∧ field (packedW0 h) 63 1 = 0 := by
  unfold packedW0 field
  omega

theorem packedW1_fields {h : Hdr} (h5 : h.literalState0.toNat < 2 ^ 10) (h6 : h.literalState1.toNat < 2 ^ 10)
    (h7 : h.literalState2.toNat < 2 ^ 10) (h8 : h.literalState3.toNat < 2 ^ 10) (h9 : h.nLmdPayloadBytes.toNat < 2 ^ 20)
    (h10 : -7 ≤ h.lmdBits.toInt ∧ h.lmdBits.toInt ≤ 0) :
    packedW1 h < 256 ^ 8 ∧ field (packedW1 h) 0 10 = h.literalState0.toNat ∧
    field (packedW1 h) 10 10 = h.literalState1.toNat ∧ field (packedW1 h) 20 10 = h.literalState2.toNat ∧
    field (packedW1 h) 30 10 = h.literalState3.toNat ∧ field (packedW1 h) 40 20 = h.nLmdPayloadBytes.toNat ∧
    (field (packedW1 h) 60 3 : Int) = h.lmdBits.toInt + 7 ∧ field (packedW1 h) 63 1 = 0 := by
  unfold packedW1 field
  omega

theorem packedW2_fields {h : Hdr} {hs : Nat} (hhs : hs < 2 ^ 32) (h11 : h.lState.toNat < 2 ^ 10)
    (h12 : h.mState.toNat < 2 ^ 10) (h13 : h.dState.toNat < 2 ^ 10) :
    packedW2 h hs < 256 ^ 8 ∧ field (packedW2 h hs) 0 32 = hs ∧ field (packedW2 h hs) 32 10 = h.lState.toNat ∧
    field (packedW2 h hs) 42 10 = h.mState.toNat ∧ field (packedW2 h hs) 52 10 = h.dState.toNat ∧
    field (packedW2 h hs) 62 2 = 0 := by
  unfold packedW2 field
  omega

/-- The words and the region of the packed header stand each at its offset. -/
theorem packedHeader_layout {m : Memory} {p : Nat} {h : Hdr} {f : List Nat} (hb : bytesAt m p (packedHeader h f)) :
    bytesAt m p (leBytes 4 magicV2) ∧ bytesAt m (p + 4) (leBytes 4 h.nRawBytes.toNat) ∧
    bytesAt m (p + 8) (leBytes 8 (packedW0 h)) ∧ bytesAt m (p + 16) (leBytes 8 (packedW1 h)) ∧
    bytesAt m (p + 24) (leBytes 8 (packedW2 h (v2FixedSize + freqRegionLength f))) ∧ bytesAt m (p + 32) (freqRegion f) := by
  simpa only [packedHeader, bytesAt_append, List.length_append, leBytes_length, Nat.reduceAdd, and_assoc] using hb

theorem packedAt_of_bytes {m : Memory} {p : Nat} {s : State} (hfits : ∀ id, fieldFits s id)
    (hb : bytesAt m p (packedHeader s.hdr s.allFreqs)) : packedAt m p s.hdr (headerSizeOf s) := by
  obtain ⟨hmagic, hraw, h0, h1, h2, -⟩ := packedHeader_layout hb
  have hsize := (headerSizeOf_bounds s).2
  rw [headerSizeOf_eq] at h2
  obtain ⟨hw0, fields0⟩ := packedW0_fields (hfits 1) (hfits 2) (hfits 3) (hfits 4)
  obtain ⟨hw1, fields1⟩ := packedW1_fields (hfits 5) (hfits 6) (hfits 7) (hfits 8) (hfits 9) (hfits 10)
  obtain ⟨hw2, fields2⟩ := packedW2_fields (hs := headerSizeOf s) (by omega) (hfits 11) (hfits 12) (hfits 13)
  unfold packedAt
  rw [memRead_of_word hmagic (by decide), memRead_of_word hraw s.hdr.nRawBytes.isLt, memRead_of_word h0 hw0,
    memRead_of_word h1 hw1, memRead_of_word h2 hw2]
  simp only [fields0, fields1, fields2, magicV2, and_self]

/-! ### The cursor checks of the header commands (R183, R185, R189, R190) -/

theorem command_srcUnordered {s : State} (hr : ready s) (hs : ¬srcOk s) (b : Except Trap (Status × State)) :
    ∃ k ∈ [0, 1, 2], command s (raiseOpt (srcCursorFault s) b) = .next (faulted .badCursor k s) := by
  obtain ⟨k, hk, e⟩ := srcCursorFault_some hs
  exact ⟨k, hk, command_badCursor hr e b⟩

theorem command_dstUnordered {s : State} (hr : ready s) (hd : ¬dstOk s) (b : Except Trap (Status × State)) :
    ∃ k ∈ [3, 4, 5], command s (raiseOpt (dstCursorFault s) b) = .next (faulted .badCursor k s) := by
  obtain ⟨k, hk, e⟩ := dstCursorFault_some hd
  exact ⟨k, hk, command_badCursor hr e b⟩

/-! ### HDR_PACK (R183, R184) -/

section Pack

variable {s : State} (hr : ready s)

include hr

theorem exec_hdrPack_badCursor (hd : ¬dstOk s) : ∃ k ∈ [3, 4, 5], exec .hdrPack s = .next (faulted .badCursor k s) :=
  command_dstUnordered hr hd _

theorem exec_hdrPack_overflow (hd : dstOk s) {id : Nat}
    (ho : fieldOverflow s.hdr s.allFreqs = some { cause := .fieldOverflow, info := nat64 id }) :
    exec .hdrPack s = .next (faulted .fieldOverflow id s) := by
  show execHdrPack s = _
  rw [execHdrPack, dstCursorFault_none hd, ho, raiseOpt_none, raiseOpt_some, command_error hr, takeFault_nat]

theorem exec_hdrPack_full (hd : dstOk s) (ho : fieldOverflow s.hdr s.allFreqs = none)
    (h : s.cur.dstEnd.toNat < s.cur.dstPos.toNat + headerSizeOf s) : exec .hdrPack s = .next { s with status := .dstFull } := by
  show execHdrPack s = _
  rw [execHdrPack, dstCursorFault_none hd, ho, raiseOpt_none, raiseOpt_none, headerSizeOf_eq, if_pos h, command_ok hr]

theorem exec_hdrPack_stored (hd : dstOk s) (ho : fieldOverflow s.hdr s.allFreqs = none)
    (h : s.cur.dstPos.toNat + headerSizeOf s ≤ s.cur.dstEnd.toNat) :
    exec .hdrPack s = .next { storeAtDstPos (packedHeader s.hdr s.allFreqs) s with
      hdrSize := BitVec.ofNat 32 (headerSizeOf s), res0 := nat64 (headerSizeOf s), status := .ok } := by
  show execHdrPack s = _
  rw [execHdrPack, dstCursorFault_none hd, ho, raiseOpt_none, raiseOpt_none, headerSizeOf_eq, if_neg (Nat.not_lt.mpr h),
    command_ok hr]

end Pack

theorem packedHeader_size (s : State) : (packedHeader s.hdr s.allFreqs).length = headerSizeOf s := by
  rw [packedHeader_length, ← headerSizeOf_eq, v2FixedSize]

/-- The region of the packed header is that of the frequencies (R102). -/
theorem freqRegion_eq (s : State) : freqRegion s.allFreqs = leBytes (headerSizeOf s - 32) (freqRegionOf s).1 := by
  rw [freqRegion, freqRegionOf_eq, ← headerSizeOf_eq, v2FixedSize, Nat.add_sub_cancel_left]

/-- Settles O38: the first field that does not fit is the one that faults; where all fit, the header stored is the one read. -/
theorem headerPackOutcomes : Obligations.HeaderPackOutcomes := by
  intro s hr
  refine ⟨exec_hdrPack_badCursor hr, fun hd => ⟨fun id _ hbad hfirst => ?_, fun hfits => ?_⟩⟩
  · rcases fieldOverflow_cases s with ⟨-, hall⟩ | ⟨k, hk, hbelow, ho⟩
    · exact absurd (hall id) hbad
    · have hid : k = id := le_antisymm (Nat.not_lt.mp fun h => hbad (hbelow id h)) (Nat.not_lt.mp fun h => hk (hfirst k h))
      exact exec_hdrPack_overflow hr hd (hid ▸ ho)
  · rcases fieldOverflow_cases s with ⟨ho, -⟩ | ⟨k, hk, -⟩
    · obtain ⟨hmin, hmax⟩ := headerSizeOf_bounds s
      refine ⟨exec_hdrPack_full hr hd ho, fun hroom => ⟨hmin, hmax, _, exec_hdrPack_stored hr hd ho hroom, ?_, ?_, ?_, ?_⟩⟩
      · rw [storeAtDstPos_eq, packedHeader_size]
        rfl
      · exact packedAt_of_bytes hfits (storeAtDstPos_bytes _ s)
      · rw [← freqRegion_eq]
        obtain ⟨-, -, -, -, -, hregion⟩ := packedHeader_layout (storeAtDstPos_bytes (packedHeader s.hdr s.allFreqs) s)
        exact hregion
      · exact storeAtDstPos_outside _ s (by rwa [packedHeader_size])
    · exact absurd (hfits k) hk

/-! ### The fields read from the packed words (R185) -/

theorem toNat_ofNat_field (w lo : Nat) {n k : Nat} (h : n ≤ k) : (BitVec.ofNat k (field w lo n)).toNat = field w lo n :=
  Nat.mod_eq_of_lt (lt_of_lt_of_le (Nat.mod_lt _ (by positivity)) (Nat.pow_le_pow_right (by decide) h))

/-- A bit count is stored with 7 added, in 3 bits (R97). -/
theorem toInt_ofInt_bits (w : Nat) : (BitVec.ofInt 32 ((field w 60 3 : Nat) - 7)).toInt = (field w 60 3 : Int) - 7 := by
  have h : field w 60 3 < 2 ^ 3 := Nat.mod_lt _ (by decide)
  exact BitVec.toInt_ofInt_eq_self (by decide) (by omega) (by omega)

theorem unpackedAt_fields (m : Memory) (p : Nat) : unpackedAt m p
    (unpackFields (memRead m (p + 4) 4) (memRead m (p + 8) 8) (memRead m (p + 16) 8) (memRead m (p + 24) 8)) := by
  have hpayload : (BitVec.ofNat 32 (field (memRead m (p + 8) 8) 20 20 + field (memRead m (p + 16) 8) 40 20)).toNat =
      field (memRead m (p + 8) 8) 20 20 + field (memRead m (p + 16) 8) 40 20 := by
    have hl : field (memRead m (p + 8) 8) 20 20 < 2 ^ 20 := Nat.mod_lt _ (by decide)
    have hm : field (memRead m (p + 16) 8) 40 20 < 2 ^ 20 := Nat.mod_lt _ (by decide)
    exact Nat.mod_eq_of_lt (by omega)
  have hraw : (BitVec.ofNat 32 (memRead m (p + 4) 4)).toNat = memRead m (p + 4) 4 := Nat.mod_eq_of_lt (memRead_lt m (p + 4) 4)
  simp only [unpackedAt, unpackFields, hpayload, hraw, toInt_ofInt_bits, toNat_ofNat_field _ _ (show 20 ≤ 32 by decide),
    toNat_ofNat_field _ _ (show 10 ≤ 16 by decide), and_true]
  decide

/-! ### HDR_UNPACK (R185) -/

section Unpack

variable {s : State} (hr : ready s)

include hr

theorem exec_hdrUnpack_badCursor (hs : ¬srcOk s) :
    ∃ k ∈ [0, 1, 2], exec .hdrUnpack s = .next (faulted .badCursor k s) :=
  command_srcUnordered hr hs _

theorem exec_hdrUnpack_srcEmpty (hs : srcOk s) (h : s.cur.srcEnd.toNat < s.cur.srcPos.toNat + 32 ∨
      s.cur.srcEnd.toNat < s.cur.srcPos.toNat + field (memRead s.src (s.cur.srcPos.toNat + 24) 8) 0 32) :
    exec .hdrUnpack s = .next { s with status := .srcEmpty } := by
  have e : unpackHeader s.src s.cur.srcPos.toNat s.cur.srcEnd.toNat = .srcEmpty := by
    unfold unpackHeader
    split
    · rfl
    · next h32 => exact if_pos (h.resolve_left h32)
  show execHdrUnpack s = _
  rw [execHdrUnpack, srcCursorFault_none hs, raiseOpt_none, e, command_ok hr]

/-- Where the whole header is there, its region decides. -/
theorem exec_hdrUnpack_whole {n : Nat} (hs : srcOk s) (hn : field (memRead s.src (s.cur.srcPos.toNat + 24) 8) 0 32 = n)
    (hfix : s.cur.srcPos.toNat + 32 ≤ s.cur.srcEnd.toNat) (hend : s.cur.srcPos.toNat + n ≤ s.cur.srcEnd.toNat) :
    (n < 32 ∨ (¬∃ f, regionCodes s.src s.cur.srcPos.toNat n f) →
      exec .hdrUnpack s = .next { s with status := .error }) ∧
    ∀ f, 32 ≤ n → regionCodes s.src s.cur.srcPos.toNat n f → ∃ t, exec .hdrUnpack s = .next t ∧
      t = { s with
        hdr := t.hdr, freq := t.freq, hdrSize := BitVec.ofNat 32 n,
        cur := { s.cur with srcPos := BitVec.ofNat 64 (s.cur.srcPos.toNat + n) }, res0 := BitVec.ofNat 64 n, status := .ok } ∧
      unpackedAt s.src s.cur.srcPos.toNat t.hdr ∧ concatFreqs t = f := by
  have hexec : exec .hdrUnpack s = execHdrUnpack s := rfl
  rw [hexec, execHdrUnpack, srcCursorFault_none hs, raiseOpt_none, unpackHeader, if_neg (Nat.not_lt.mpr hfix), hn]
  dsimp only
  rw [if_neg (Nat.not_lt.mpr hend)]
  refine ⟨fun h => ?_, fun f h32 hf => ?_⟩
  · by_cases hsmall : n < 32
    · rw [if_pos hsmall, command_ok hr]
    · have hnone : unpackFreqs s.src (s.cur.srcPos.toNat + 32) (s.cur.srcPos.toNat + n) = none :=
        Option.eq_none_iff_forall_ne_some.mpr fun f hf =>
          h.resolve_left hsmall ⟨f, (unpackFreqs_iff (Nat.not_lt.mp hsmall)).mp hf⟩
      rw [if_neg hsmall, hnone, command_ok hr]
  · rw [if_neg (Nat.not_lt.mpr h32), (unpackFreqs_iff h32).mpr hf, command_ok hr]
    refine ⟨_, rfl, rfl, unpackedAt_fields _ _, concatFreqs_loaded rfl hf.1 fun v hv => ?_⟩
    rcases hf with ⟨-, ⟨-, rfl⟩ | ⟨hlegal, -⟩⟩
    · rw [List.eq_of_mem_replicate hv]
      decide
    · exact lt_of_le_of_lt (hlegal v hv) (by decide)

end Unpack

/-- Settles O39: the region is read where it codes 360 frequencies, and nowhere else. -/
theorem headerUnpackOutcomes : Obligations.HeaderUnpackOutcomes := fun _ hr =>
  ⟨exec_hdrUnpack_badCursor hr, fun hs => ⟨exec_hdrUnpack_srcEmpty hr hs,
    fun hfix hend => (exec_hdrUnpack_whole hr hs rfl hfix hend).1,
    fun f hfix hend => (exec_hdrUnpack_whole hr hs rfl hfix hend).2 f⟩⟩

/-! ### Packing and unpacking (R186) -/

/-- HDR_PACK ends OK only where every field fits, with the packed header at DST_POS. -/
theorem exec_hdrPack_ok {s t : State} (hr : ready s) (h : exec .hdrPack s = .next t) (hok : t.status = .ok) :
    (∀ id, fieldFits s id) ∧ bytesAt t.dst s.cur.dstPos.toNat (packedHeader s.hdr s.allFreqs) := by
  by_cases hd : dstOk s
  · rcases fieldOverflow_cases s with ⟨ho, hfits⟩ | ⟨id, -, -, ho⟩
    · rcases Nat.lt_or_ge s.cur.dstEnd.toNat (s.cur.dstPos.toNat + headerSizeOf s) with hfull | hroom
      · rw [exec_hdrPack_full hr hd ho hfull] at h
        cases h
        cases hok
      · rw [exec_hdrPack_stored hr hd ho hroom] at h
        cases h
        exact ⟨hfits, storeAtDstPos_bytes _ s⟩
    · rw [exec_hdrPack_overflow hr hd ho] at h
      cases h
      cases hok
  · obtain ⟨k, -, e⟩ := exec_hdrPack_badCursor hr hd
    rw [e] at h
    cases h
    cases hok

/-- The region of the packed header codes the frequencies it was made of. -/
theorem regionCodes_of_bytes {m : Memory} {p : Nat} {s : State} (hfits : ∀ v ∈ concatFreqs s, v ≤ 1047)
    (hb : bytesAt m (p + 32) (leBytes (headerSizeOf s - 32) (freqRegionOf s).1)) :
    regionCodes m p (headerSizeOf s) (concatFreqs s) := by
  have hlt : (freqRegionOf s).1 < 2 ^ (freqRegionOf s).2 := regionOf_lt hfits
  have hsize : headerSizeOf s = 32 + ((freqRegionOf s).2 + 7) / 8 := rfl
  have hfit : (freqRegionOf s).1 < 256 ^ (headerSizeOf s - 32) :=
    calc (freqRegionOf s).1 < 2 ^ (freqRegionOf s).2 := hlt
      _ ≤ 2 ^ (8 * (headerSizeOf s - 32)) := Nat.pow_le_pow_right (by decide) (by omega)
      _ = 256 ^ (headerSizeOf s - 32) := pow_mul 2 8 _
  have hread : leValue (readBytes m (p + 32) (headerSizeOf s - 32)) = (freqRegionOf s).1 := memRead_of_word hb hfit
  refine ⟨concatFreqs_length s, .inr ⟨hfits, hsize, ?_⟩⟩
  rw [hread]
  exact Nat.mod_eq_of_lt hlt

theorem concatFreqs_le {s : State} (hfits : ∀ id, fieldFits s id) : ∀ v ∈ concatFreqs s, v ≤ 1047 := by
  intro v hv
  obtain ⟨i, hi, rfl⟩ := List.getElem_of_mem hv
  have h := (fieldFits_high s (i + 2)).mp (hfits _)
  rw [concatFreqs_length] at hi
  rw [concatFreqs_getElem]
  exact h (by omega) (by omega)

/-- What is unpacked from the words of a packed header is that header, but for the magic and the payload size (R185). -/
theorem hdr_of_packed {m : Memory} {p n : Nat} {h g : Hdr} (hp : packedAt m p h n) (hu : unpackedAt m p g) :
    g = { h with magic := 0x31787662, nPayloadBytes := h.nLiteralPayloadBytes + h.nLmdPayloadBytes } := by
  obtain ⟨-, p1, p2, p3, p4, p5, -, p6, p7, p8, p9, p10, p11, -, -, p12, p13, p14, -⟩ := hp
  obtain ⟨u0, u1, u2, u3, u4, u5, u6, u7, u8, u9, u10, u11, u12, u13, u14, u15⟩ := hu
  have hlit : g.nLiteralPayloadBytes.toNat < 2 ^ 20 := u3 ▸ Nat.mod_lt _ (by decide)
  have hlmd : g.nLmdPayloadBytes.toNat < 2 ^ 20 := u10 ▸ Nat.mod_lt _ (by decide)
  have hpayload : g.nPayloadBytes.toNat = (h.nLiteralPayloadBytes + h.nLmdPayloadBytes).toNat := by
    rw [BitVec.toNat_add, ← p3, ← p10, ← u3, ← u10, u15, Nat.mod_eq_of_lt (by omega)]
  cases g
  exact (Hdr.mk.injEq ..).mpr ⟨BitVec.eq_of_toNat_eq u0, BitVec.eq_of_toNat_eq (u1.trans p1), BitVec.eq_of_toNat_eq hpayload,
    BitVec.eq_of_toNat_eq (u2.trans p2), BitVec.eq_of_toNat_eq (u4.trans p4), BitVec.eq_of_toNat_eq (u3.trans p3),
    BitVec.eq_of_toNat_eq (u10.trans p10), BitVec.eq_of_toInt_eq (by rw [u5, p5, add_sub_cancel_right]),
    BitVec.eq_of_toNat_eq (u6.trans p6), BitVec.eq_of_toNat_eq (u7.trans p7), BitVec.eq_of_toNat_eq (u8.trans p8),
    BitVec.eq_of_toNat_eq (u9.trans p9), BitVec.eq_of_toInt_eq (by rw [u11, p11, add_sub_cancel_right]),
    BitVec.eq_of_toNat_eq (u12.trans p12), BitVec.eq_of_toNat_eq (u13.trans p13), BitVec.eq_of_toNat_eq (u14.trans p14)⟩

/-- Settles O40: HDR_UNPACK finds the words HDR_PACK wrote and the region that codes its frequencies. -/
theorem headerRoundTrip : Obligations.HeaderRoundTrip := by
  intro s t u hrs hpack hok hru hsrc hend hcopy
  obtain ⟨hfits, hbytes⟩ := exec_hdrPack_ok hrs hpack hok
  have hcopied : bytesAt u.src u.cur.srcPos.toNat (packedHeader s.hdr s.allFreqs) := fun i hi => by
    rw [hcopy i (packedHeader_size s ▸ hi), hbytes i hi]
  have hpacked := packedAt_of_bytes hfits hcopied
  obtain ⟨-, -, -, -, -, hregion⟩ := packedHeader_layout hcopied
  rw [freqRegion_eq] at hregion
  have hn : field (memRead u.src (u.cur.srcPos.toNat + 24) 8) 0 32 = headerSizeOf s := by
    obtain ⟨-, -, -, -, -, -, -, -, -, -, -, -, -, -, hn, -⟩ := hpacked
    exact hn
  have hsize := (headerSizeOf_bounds s).1
  have hspace := u.cur.srcEnd.isLt
  obtain ⟨v, hexec, hv, hhdr, hfreqs⟩ := (exec_hdrUnpack_whole hru hsrc hn (by omega) hend).2 _ (by omega)
    (regionCodes_of_bytes (concatFreqs_le hfits) hregion)
  refine ⟨v, hexec, by rw [hv], hdr_of_packed hpacked hhdr, hfreqs, ?_⟩
  rw [hv]
  exact Nat.mod_eq_of_lt (by omega)

/-! ### The verbose image (R189, R190, 30_encoding.md R96) -/

theorem memRead_word32 (m : Memory) (a : Nat) : (BitVec.ofNat 32 (memRead m a 4)).toNat = memRead m a 4 :=
  Nat.mod_eq_of_lt (memRead_lt m a 4)

theorem memRead_word16 (m : Memory) (a : Nat) : (BitVec.ofNat 16 (memRead m a 2)).toNat = memRead m a 2 :=
  Nat.mod_eq_of_lt (memRead_lt m a 2)

/-- The fields and the frequencies loaded are those of the image. -/
theorem verboseAt_fields {m : Memory} {p : Nat} {t : State} (hf : concatFreqs t = v1Freqs m p) :
    verboseAt m p (v1Fields m p) (concatFreq t) := by
  have hfreq : ∀ i, i < 360 → memRead m (p + 50 + 2 * i) 2 = concatFreq t i := fun i hi => by
    rw [← concatFreqs_getD hi, hf]
    simp [v1Freqs, hi]
  simp only [verboseAt, v1Fields, memRead_word32, memRead_word16, true_and]
  exact hfreq

/-- The k-th of the numbers stored two bytes each. -/
theorem memRead_of_pairs {m : Memory} {a : Nat} {l : List Nat} (hb : bytesAt m a (l.flatMap (leBytes 2))) {i : Nat}
    (hi : i < l.length) : memRead m (a + 2 * i) 2 = l[i] % 256 ^ 2 := by
  induction l generalizing a i with
  | nil => cases hi
  | cons v r ih =>
    rw [List.flatMap_cons, bytesAt_append, leBytes_length] at hb
    obtain ⟨hv, hr⟩ := hb
    cases i with
    | zero => exact memRead_of_leBytes hv
    | succ i =>
      rw [mul_add_one, Nat.add_comm (2 * i), ← Nat.add_assoc]
      exact ih hr (Nat.lt_of_succ_lt_succ hi)

theorem concatFreq_lt (s : State) (i : Nat) : concatFreq s i < 256 ^ 2 := by
  unfold concatFreq
  split_ifs <;> exact BitVec.isLt _

theorem pairs_length (l : List Nat) : (l.flatMap (leBytes 2)).length = 2 * l.length := by
  rw [List.length_flatMap, List.map_congr_left fun v _ => leBytes_length 2 v, List.map_const', List.sum_replicate, smul_eq_mul,
    mul_comm]

theorem memRead_stored32 {m : Memory} {a : Nat} {x : U32} (h : bytesAt m a (leBytes 4 x.toNat)) : memRead m a 4 = x.toNat :=
  memRead_of_word h x.isLt

theorem memRead_stored16 {m : Memory} {a : Nat} {x : U16} (h : bytesAt m a (leBytes 2 x.toNat)) : memRead m a 2 = x.toNat :=
  memRead_of_word h x.isLt

/-- The image stored is that of HDR and FREQ, with MAGIC_V1 and two zero bytes at its end. -/
theorem verboseAt_of_bytes {m : Memory} {p : Nat} {s : State} (hb : bytesAt m p (v1Image s.hdr s.allFreqs)) :
    verboseAt m p { s.hdr with magic := 0x31787662 } (concatFreq s) ∧ readByte m (p + 770) = 0 ∧ readByte m (p + 771) = 0 := by
  rw [← concatFreqs_eq] at hb
  unfold v1Image at hb
  simp only [bytesAt_append, List.length_append, leBytes_length, pairs_length, concatFreqs_length, Nat.reduceMul,
    Nat.reduceAdd, and_assoc] at hb
  obtain ⟨b0, b4, b8, b12, b16, b20, b24, b28, b32, b34, b36, b38, b40, b44, b46, b48, hfreqs, hpad⟩ := hb
  have hmagic : memRead m p 4 = magicV1 := memRead_of_word b0 (by decide)
  refine ⟨⟨hmagic, memRead_stored32 b4, memRead_stored32 b8, memRead_stored32 b12,
    memRead_stored32 b16, memRead_stored32 b20, memRead_stored32 b24, memRead_stored32 b28, memRead_stored16 b32,
    memRead_stored16 b34, memRead_stored16 b36, memRead_stored16 b38, memRead_stored32 b40, memRead_stored16 b44,
    memRead_stored16 b46, memRead_stored16 b48, fun i hi => ?_⟩, hpad 0 (by decide), hpad 1 (by decide)⟩
  rw [memRead_of_pairs hfreqs (by rwa [concatFreqs_length]), concatFreqs_getElem, Nat.mod_eq_of_lt (concatFreq_lt s i)]

theorem v1Image_size (s : State) : (v1Image s.hdr s.allFreqs).length = 772 := v1Image_length (allFreqs_length s)

section Verbose

variable {s : State} (hr : ready s)

include hr

theorem exec_v1Load_badCursor (hs : ¬srcOk s) : ∃ k ∈ [0, 1, 2], exec .v1Load s = .next (faulted .badCursor k s) :=
  command_srcUnordered hr hs _

theorem exec_v1Load_srcEmpty (hs : srcOk s) (h : s.cur.srcEnd.toNat < s.cur.srcPos.toNat + 772) :
    exec .v1Load s = .next { s with status := .srcEmpty } := by
  show execV1Load s = _
  rw [execV1Load, srcCursorFault_none hs, raiseOpt_none]
  exact (congrArg _ (if_pos h)).trans (command_ok hr _ _)

theorem exec_v1Load_loaded (hs : srcOk s) (h : s.cur.srcPos.toNat + 772 ≤ s.cur.srcEnd.toNat) :
    exec .v1Load s = .next { s with
      hdr := v1Fields s.src s.cur.srcPos.toNat, freq := quadOfFreqs (v1Freqs s.src s.cur.srcPos.toNat), hdrSize := 772,
      cur := { s.cur with srcPos := BitVec.ofNat 64 (s.cur.srcPos.toNat + 772) }, res0 := 772, status := .ok } := by
  show execV1Load s = _
  rw [execV1Load, srcCursorFault_none hs, raiseOpt_none]
  exact (congrArg _ (if_neg (Nat.not_lt.mpr h))).trans (command_ok hr _ _)

theorem exec_v1Store_badCursor (hd : ¬dstOk s) : ∃ k ∈ [3, 4, 5], exec .v1Store s = .next (faulted .badCursor k s) :=
  command_dstUnordered hr hd _

theorem exec_v1Store_full (hd : dstOk s) (h : s.cur.dstEnd.toNat < s.cur.dstPos.toNat + 772) :
    exec .v1Store s = .next { s with status := .dstFull } := by
  show execV1Store s = _
  rw [execV1Store, dstCursorFault_none hd, raiseOpt_none]
  exact (congrArg _ (if_pos h)).trans (command_ok hr _ _)

theorem exec_v1Store_stored (hd : dstOk s) (h : s.cur.dstPos.toNat + 772 ≤ s.cur.dstEnd.toNat) :
    exec .v1Store s = .next { storeAtDstPos (v1Image s.hdr s.allFreqs) s with res0 := 772, status := .ok } := by
  show execV1Store s = _
  rw [execV1Store, dstCursorFault_none hd, raiseOpt_none]
  exact (congrArg _ (if_neg (Nat.not_lt.mpr h))).trans (command_ok hr _ _)

end Verbose

theorem concatFreqs_v1Freqs {m : Memory} {p : Nat} {t : State} (h : t.freq = quadOfFreqs (v1Freqs m p)) :
    concatFreqs t = v1Freqs m p :=
  concatFreqs_loaded h (by simp [v1Freqs]) fun v hv => by
    obtain ⟨i, -, rfl⟩ := List.mem_map.mp hv
    exact memRead_lt m _ 2

/-- Settles O41: the image is read field by field, and the one stored reads back. -/
theorem verboseHeaderImage : Obligations.VerboseHeaderImage := by
  intro s hr
  refine ⟨exec_v1Load_badCursor hr, fun hs => ⟨exec_v1Load_srcEmpty hr hs, fun h => ?_⟩, exec_v1Store_badCursor hr,
    fun hd => ⟨exec_v1Store_full hr hd, fun h => ?_⟩⟩
  · exact ⟨_, exec_v1Load_loaded hr hs h, rfl, verboseAt_fields (concatFreqs_v1Freqs rfl)⟩
  · obtain ⟨himage, hpad0, hpad1⟩ := verboseAt_of_bytes (storeAtDstPos_bytes (v1Image s.hdr s.allFreqs) s)
    refine ⟨_, exec_v1Store_stored hr hd h, ?_, himage, hpad0, hpad1, storeAtDstPos_outside _ s (by rwa [v1Image_size])⟩
    rw [storeAtDstPos_eq, v1Image_size]

end Sys2Proof.Proofs

namespace Sys2Proof.Proofs

open Sys2Proof Sys2Proof.Machine Sys2Proof.Laws

/-! ## The decoder engine (44_decoder_engine.md) -/

/-! ### DEC_INIT, DEC_FEED, DEC_GROW (R200, R216, R217) -/

theorem exec_cursors_src {i : Instr} (hi : i ∈ [Instr.decInit, .decBuffer, .encInit, .storeRaw, .encBuffer]) {s : State}
    (hr : ready s) (hs : ¬srcOk s) : ∃ k ∈ [0, 1, 2], exec i s = .next (faulted .badCursor k s) := by
  obtain ⟨k, hk, e⟩ := cursorFault_src hs
  exact ⟨k, hk, exec_badCursor hi hr e⟩

theorem exec_cursors_dst {i : Instr} (hi : i ∈ [Instr.decInit, .decBuffer, .encInit, .storeRaw, .encBuffer]) {s : State}
    (hr : ready s) (hs : srcOk s) (hd : ¬dstOk s) : ∃ k ∈ [3, 4, 5], exec i s = .next (faulted .badCursor k s) := by
  obtain ⟨k, hk, e⟩ := cursorFault_dst hs hd
  exact ⟨k, hk, exec_badCursor hi hr e⟩

theorem exec_decInit_runs {s : State} (hr : ready s) (hs : srcOk s) (hd : dstOk s) :
    exec .decInit s = .next { (decInit s).withRes 0 0 with status := .ok } := by
  show command s (raiseOpt (cursorFault s) _) = _
  rw [cursorFault_none hs hd, raiseOpt_none, command_ok hr]

theorem reset_curD : DecCtx.reset.curD.toInt = -1 := by decide

/-- Settles O42: the context is that of the reset but for the cursors. -/
theorem decInitFreshContext : Obligations.DecInitFreshContext := by
  refine fun s hr => ⟨exec_cursors_src (by decide) hr, exec_cursors_dst (by decide) hr, fun hs hd =>
    ⟨_, exec_decInit_runs hr hs hd, rfl, rfl, rfl, rfl, rfl, rfl, rfl, rfl, rfl, rfl, rfl, fun i => rfl, rfl, rfl, rfl, rfl,
      reset_curD, rfl, rfl, rfl, rfl, rfl⟩⟩

/-- A decoder command on an end that the host may raise (R216, R217). -/
theorem command_newEnd {s : State} (hr : ready s) (hp : s.dec.poisoned = false) {k : Nat} {c : Prop} [Decidable c]
    (b : Except Trap (Status × State)) :
    command s (raiseDecPoisoned s (raiseIf (decide c) .badCursor (nat64 k) b)) =
      if c then .next (faulted .badCursor k s) else command s b := by
  rw [raiseDecPoisoned_clear hp]
  split
  · rw [raiseIf_pos (by simpa), command_error hr, takeFault_nat]
  · rw [raiseIf_neg (by simpa)]

/-- Settles O43. -/
theorem decFeedGrowEnds : Obligations.DecFeedGrowEnds := by
  intro s hr
  refine ⟨fun hp => ?_, fun hp => ?_⟩
  · have poison (b : Except Trap (Status × State)) :
        command s (raiseDecPoisoned s b) = .next (faulted .contextPoisoned 0 s) := by
      rw [raiseDecPoisoned_set hp, command_error hr, takeFault_zero]
    exact ⟨poison _, poison _⟩
  · refine ⟨fun h => ?_, fun h => ?_, fun hlo hhi => ?_, fun hlo hhi => ?_⟩
    · exact (command_newEnd hr hp _).trans (if_pos h)
    · exact (command_newEnd hr hp _).trans (if_pos h)
    · exact ((command_newEnd hr hp _).trans (if_neg (by omega))).trans (command_ok hr _ _)
    · exact ((command_newEnd hr hp _).trans (if_neg (by omega))).trans (command_ok hr _ _)

/-! ### The loop of DEC_STEP (R201, R202) -/

/-- The loop of R201 ends with a status in a state. -/
def Runs (s : State) (r : Status × State) : Prop := ∃ n, blockLoop n s = some r

theorem blockLoop_stop {s t : State} {st : Status} (h : blockStep s = .stop st t) (n : Nat) :
    blockLoop (n + 1) s = some (st, t) := by
  rw [blockLoop, h]

theorem blockLoop_cont {s u : State} (h : blockStep s = .cont u) (n : Nat) : blockLoop (n + 1) s = blockLoop n u := by
  rw [blockLoop, h]

theorem runs_of_stop {s t : State} {st : Status} (h : blockStep s = .stop st t) : Runs s (st, t) := ⟨1, blockLoop_stop h 0⟩

/-- A block step that goes on leaves the outcome to the state it goes on in. -/
theorem runs_cont {s u : State} (h : blockStep s = .cont u) (r : Status × State) : Runs s r ↔ Runs u r := by
  constructor
  · rintro ⟨_ | n, hn⟩
    · cases hn
    · exact ⟨n, blockLoop_cont h n ▸ hn⟩
  · rintro ⟨n, hn⟩
    exact ⟨n + 1, (blockLoop_cont h n).trans hn⟩

theorem runs_stop {s t : State} {st : Status} (h : blockStep s = .stop st t) (r : Status × State) :
    Runs s r ↔ r = (st, t) := by
  constructor
  · rintro ⟨_ | n, hn⟩
    · cases hn
    · rw [blockLoop_stop h] at hn
      exact (Option.some.inj hn).symm
  · rintro rfl
    exact runs_of_stop h

/-- States with the same next block step end alike. -/
theorem runs_congr {s u : State} (h : blockStep s = blockStep u) (r : Status × State) : Runs s r ↔ Runs u r := by
  cases hu : blockStep u with
  | cont v => exact (runs_cont (h.trans hu) r).trans (runs_cont hu r).symm
  | stop st v => exact (runs_stop (h.trans hu) r).trans (runs_stop hu r).symm

/-- Induction along the block steps of a run. -/
theorem Runs.induct {r : Status × State} {motive : State → Prop} (stop : ∀ s, blockStep s = .stop r.1 r.2 → motive s)
    (cont : ∀ s u, blockStep s = .cont u → Runs u r → motive u → motive s) {s : State} (h : Runs s r) : motive s := by
  obtain ⟨n, hn⟩ := h
  induction n generalizing s with
  | zero => cases hn
  | succ n ih =>
    cases hb : blockStep s with
    | cont u =>
      rw [blockLoop_cont hb] at hn
      exact cont s u hb ⟨n, hn⟩ (ih hn)
    | stop st t =>
      rw [blockLoop_stop hb] at hn
      cases hn
      exact stop s hb

theorem Runs.unique {s : State} {r r' : Status × State} (h : Runs s r) (h' : Runs s r') : r = r' := by
  refine h.induct (motive := fun s => Runs s r' → r = r') (fun s hb h' => ?_) (fun s u hb _ ih h' => ?_) h'
  · exact ((runs_stop hb r').mp h').symm
  · exact ih ((runs_cont hb r').mp h')

/-- The step bound is always enough (log entry 18). -/
theorem runs_bound (s : State) : ∃ r, blockLoop (blockBound s) s = some r :=
  Option.isSome_iff_exists.mp (blockLoop_isSome _ _ (blockMeasure_lt s))

theorem runs_exists (s : State) : ∃ st t, Runs s (st, t) := by
  obtain ⟨r, h⟩ := runs_bound s
  exact ⟨r.1, r.2, _, h⟩

/-- The state in which DEC_STEP ends where its loop ends with `st` in `s` (R201, 20_memory.md R79). -/
def decEnd (st : Status) (s : State) : State :=
  { writeBackDec (releaseDec (poisonDecOnError st s)) with
    res0 := s.dec.cur.dstPos - s.dec.cur.dstBegin, res1 := s.dec.cur.srcPos - s.dec.cur.srcBegin, status := st }

theorem word64_sub (a b : U64) : word64 ((a.toNat : Int) - b.toNat) = a - b := by
  apply BitVec.eq_of_toInt_eq
  rw [word64, BitVec.toInt_ofInt, BitVec.toInt_sub, BitVec.toInt_eq_toNat_bmod, BitVec.toInt_eq_toNat_bmod]
  simp

theorem poisonDecOnError_decCur (st : Status) (s : State) : (poisonDecOnError st s).dec.cur = s.dec.cur := by
  cases st <;> rfl

theorem releaseDec_decCur (s : State) : (releaseDec s).dec.cur = s.dec.cur := by
  rw [releaseDec, releaseDst_eq]
  rfl

/-- A decoder context that DEC_STEP runs on: neither poisoned nor at the end of its stream. -/
structure Live (s : State) : Prop where
  ready : ready s
  clean : s.dec.poisoned = false
  more : s.dec.endOfStream = false

/-- What DEC_STEP answers where its body ends with `st` in `t`. -/
theorem exec_decStep_of_decRun {s t : State} {st : Status} (hr : ready s) (hp : s.dec.poisoned = false)
    (h : decRun s = some (st, t)) : exec .decStep s = .next { t with
      res0 := t.dec.cur.dstPos - t.dec.cur.dstBegin, res1 := t.dec.cur.srcPos - t.dec.cur.srcBegin, status := st } := by
  show execDecStep s = _
  unfold execDecStep
  rw [if_neg (by simp [isSome_of_ready hr, hp]), h]
  refine (command_ok hr _ _).trans ?_
  rw [decWritten, decConsumed, word64_sub, word64_sub]
  rfl

theorem decRun_of_runs {s t : State} {st : Status} (he : s.dec.endOfStream = false) (h : Runs s (st, t)) :
    decRun s = some (st, writeBackDec (releaseDec (poisonDecOnError st t))) := by
  obtain ⟨r, hr⟩ := runs_bound s
  obtain rfl := Runs.unique h ⟨_, hr⟩
  simp only [decRun, he, hr]
  rfl

/-- DEC_STEP is its loop and what ends it. -/
theorem exec_decStep_of_runs {s t : State} {st : Status} (hs : Live s) (h : Runs s (st, t)) :
    exec .decStep s = .next (decEnd st t) := by
  rw [exec_decStep_of_decRun hs.ready hs.clean (decRun_of_runs hs.more h), writeBackDec_dec, releaseDec_decCur,
    poisonDecOnError_decCur]
  rfl

/-- After the end of the stream DEC_STEP changes nothing but the cursor registers and its results (R201, log entry 12). -/
theorem exec_decStep_ended {s : State} (hr : ready s) (hp : s.dec.poisoned = false) (he : s.dec.endOfStream = true) :
    exec .decStep s = .next { s with
      cur := s.dec.cur, res0 := s.dec.cur.dstPos - s.dec.cur.dstBegin, res1 := s.dec.cur.srcPos - s.dec.cur.srcBegin,
      status := .ok } :=
  exec_decStep_of_decRun (t := writeBackDec s) hr hp (by rw [decRun, he]; rfl)

/-- Going on as an equation between two DEC_STEPs. -/
theorem exec_decStep_congr {s u : State} (hs : Live s) (hu : Live u) (h : ∀ r, Runs s r ↔ Runs u r) :
    exec .decStep s = exec .decStep u := by
  obtain ⟨st, t, hr⟩ := runs_exists u
  rw [exec_decStep_of_runs hs ((h _).mpr hr), exec_decStep_of_runs hu hr]

/-! ### The end of DEC_STEP -/

/-- What ends DEC_STEP changes POISONED, the results and cursor registers, DEC.lits and DST, and nothing else. -/
theorem decEnd_eq (st : Status) (s : State) : decEnd st s = { s with
    status := st, res0 := s.dec.cur.dstPos - s.dec.cur.dstBegin, res1 := s.dec.cur.srcPos - s.dec.cur.srcBegin,
    cur := s.dec.cur, dst := (decEnd st s).dst, freeTag := (decEnd st s).freeTag,
    dec := { s.dec with
      lits := (decEnd st s).dec.lits, poisoned := if st = .error then true else s.dec.poisoned } } := by
  rw [decEnd, releaseDec, releaseDst_eq]
  cases st <;> rfl

theorem decEnd_dec (st : Status) (s : State) : (decEnd st s).dec = { s.dec with
    lits := (decEnd st s).dec.lits, poisoned := if st = .error then true else s.dec.poisoned } :=
  congrArg State.dec (decEnd_eq st s)

/-- The DST bytes that DEC_STEP leaves specified (20_memory.md R79). -/
theorem decEnd_outside (st : Status) (s : State) :
    sameOutside s.dec.cur.dstPos.toNat s.dec.cur.dstEnd.toNat s.dst (decEnd st s).dst := by
  intro a ha
  have h : (decEnd st s).dst = (releaseDst s.dec.cur.dstPos.toNat s.dec.cur.dstEnd.toNat (poisonDecOnError st s)).dst := by
    rw [← poisonDecOnError_decCur st s]
    rfl
  rw [h, releaseDst_outside _ _ _ _ ha]
  cases st <;> rfl

/-- The literals that DEC_STEP leaves specified (93_implementation_defined.md U3). -/
theorem decEnd_lits (st : Status) (s : State) {i : Nat} (hi : i < s.dec.nLits.toNat) :
    litAt (decEnd st s).dec.lits i = litAt s.dec.lits i := by
  have h : (decEnd st s).dec.lits = arrRelease s.dec.lits s.dec.nLits.toNat literalsPerBlock
      (releaseDst s.dec.cur.dstPos.toNat s.dec.cur.dstEnd.toNat (poisonDecOnError st s)).freeTag := by
    rw [decEnd, releaseDec, poisonDecOnError_decCur, releaseDst_eq]
    cases st <;> rfl
  rw [h]
  exact arrGet_release_outside _ _ _ _ _ _ _ (by omega)

/-! ### DEC_BUFFER (R218) -/

theorem word64_decBufferCount (st : Status) (s : State) : word64 (decBufferCount st s) =
    if st = .dstFull then s.dec.cur.dstEnd - s.dec.cur.dstBegin
    else if st = .ok then s.dec.cur.dstPos - s.dec.cur.dstBegin else 0 := by
  cases st with
  | dstFull | ok => exact word64_sub _ _
  | srcEmpty | error | stateFull | faulted => rfl

/-- Settles O47. -/
theorem decBufferIsInitThenStep : Obligations.DecBufferIsInitThenStep := by
  refine fun s hr => ⟨exec_cursors_src (by decide) hr, exec_cursors_dst (by decide) hr, fun hs hd => ?_⟩
  obtain ⟨⟨st, t⟩, ht⟩ := Option.isSome_iff_exists.mp (decRun_isSome { (decInit s).withRes 0 0 with status := .ok })
  refine ⟨_, _, exec_decInit_runs hr hs hd, exec_decStep_of_decRun hr rfl ht, ?_⟩
  show execDecBuffer s = _
  unfold execDecBuffer
  rw [isSome_of_ready hr, cursorFault_none hs hd]
  dsimp only
  rw [ht]
  refine (command_ok hr _ _).trans ?_
  rw [word64_decBufferCount, decConsumed, word64_sub]
  rfl

/-! ### Copying (R211) -/

theorem nat64_lt {n : Nat} (h : n < 2 ^ 64) : (nat64 n).toNat = n := Nat.mod_eq_of_lt h

theorem ofNat32_add (a b : Nat) : BitVec.ofNat 32 ((BitVec.ofNat 32 a).toNat + b) = BitVec.ofNat 32 (a + b) := by
  apply BitVec.eq_of_toNat_eq
  simp

/-- The state after bytes of DST are stored up to `p`, n literals among them. -/
def copied (m : Memory) (p n : Nat) (s : State) : State :=
  { s with
    dst := m,
    dec := { s.dec with
      cur := { s.dec.cur with dstPos := nat64 p }, litPos := BitVec.ofNat 32 (s.dec.litPos.toNat + n) } }

theorem dstPos_add_lt {s : State} {n : Nat} (h : n ≤ dstRoom s) : s.dec.cur.dstPos.toNat + n < 2 ^ 64 := by
  have hp := s.dec.cur.dstPos.isLt
  have he := s.dec.cur.dstEnd.isLt
  unfold dstRoom at h
  omega

theorem copied_zero (s : State) : copied s.dst (s.dec.cur.dstPos.toNat + 0) 0 s = s := by
  simp [copied, nat64]

theorem copied_copied {m m' : Memory} {p p' n n' : Nat} (s : State) :
    copied m' p' n' (copied m p n s) = copied m' p' (n + n') s := by
  simp only [copied, ofNat32_add, Nat.add_assoc]

theorem copied_pos {m : Memory} {k n : Nat} {s : State} (h : k ≤ dstRoom s) :
    (copied m (s.dec.cur.dstPos.toNat + k) n s).dec.cur.dstPos.toNat = s.dec.cur.dstPos.toNat + k :=
  nat64_lt (dstPos_add_lt h)

theorem dstRoom_copied {m : Memory} {k n : Nat} {s : State} (h : k ≤ dstRoom s) :
    dstRoom (copied m (s.dec.cur.dstPos.toNat + k) n s) = dstRoom s - k := by
  rw [dstRoom, copied_pos h, dstRoom]
  show s.dec.cur.dstEnd.toNat - _ = _
  omega

/-- A loop that stores `byte` of the state at DEC.dst_pos, each byte counting as `lit` literals. -/
structure CopyLoop (loop : Nat → State → State) (lit : Nat) (byte : State → U8) : Prop where
  zero : ∀ s, loop 0 s = s
  succ : ∀ n s, loop (n + 1) s =
    loop n (copied (writeByte s.dst s.dec.cur.dstPos.toNat (byte s)) (s.dec.cur.dstPos.toNat + 1) lit s)

theorem copyLiterals_loop : CopyLoop copyLiterals 1 fun s => litAt s.dec.lits s.dec.litPos.toNat :=
  ⟨fun _ => rfl, fun _ _ => rfl⟩

theorem copyMatch_loop (d : Nat) : CopyLoop (copyMatch d) 0 fun s => readByte s.dst (s.dec.cur.dstPos.toNat - d) :=
  ⟨fun _ => rfl, fun n s => by simp [copyMatch, putDstByte, copied]⟩

section CopyLoop

variable {loop : Nat → State → State} {lit : Nat} {byte : State → U8} (hc : CopyLoop loop lit byte)

include hc

/-- Nothing changes but the bytes from DEC.dst_pos on and the two positions. -/
theorem CopyLoop.state {n : Nat} {s : State} (h : n ≤ dstRoom s) :
    loop n s = copied (loop n s).dst (s.dec.cur.dstPos.toNat + n) (n * lit) s := by
  induction n generalizing s with
  | zero => simpa only [hc.zero, Nat.zero_mul] using (copied_zero s).symm
  | succ n ih =>
    rw [hc.succ, ih (by rw [dstRoom_copied (by omega)]; omega), copied_copied, copied_pos (by omega), Nat.add_assoc,
      Nat.add_comm 1 n, Nat.succ_mul, Nat.add_comm lit]
    rfl

theorem CopyLoop.room {n : Nat} {s : State} (h : n ≤ dstRoom s) : dstRoom (loop n s) = dstRoom s - n := by
  rw [hc.state h, dstRoom_copied h]

theorem CopyLoop.pos {n : Nat} {s : State} (h : n ≤ dstRoom s) :
    (loop n s).dec.cur.dstPos.toNat = s.dec.cur.dstPos.toNat + n := by
  rw [hc.state h]
  exact nat64_lt (dstPos_add_lt h)

theorem CopyLoop.add (a b : Nat) (s : State) : loop (a + b) s = loop b (loop a s) := by
  induction a generalizing s with
  | zero => rw [hc.zero, Nat.zero_add]
  | succ a ih => rw [Nat.add_right_comm, hc.succ, hc.succ, ih]

theorem CopyLoop.one (s : State) : loop 1 s =
    copied (writeByte s.dst s.dec.cur.dstPos.toNat (byte s)) (s.dec.cur.dstPos.toNat + 1) lit s := by
  rw [hc.succ, hc.zero]

theorem CopyLoop.outside {n : Nat} {s : State} (h : n ≤ dstRoom s) :
    sameOutside s.dec.cur.dstPos.toNat (s.dec.cur.dstPos.toNat + n) s.dst (loop n s).dst := by
  induction n with
  | zero => rw [hc.zero]; exact sameOutside_refl _ _ _
  | succ n ih =>
    intro a ha
    rw [hc.add, hc.one, ← ih (by omega) a (by omega)]
    exact readByte_writeByte_other _ _ (by rw [hc.pos (by omega)]; omega)

/-- What has been stored stays while the loop goes on. -/
theorem CopyLoop.kept {i n : Nat} {s : State} (h : n ≤ dstRoom s) (hi : i ≤ n) {a : Nat} (ha : a < s.dec.cur.dstPos.toNat + i) :
    readByte (loop n s).dst a = readByte (loop i s).dst a := by
  obtain ⟨k, rfl⟩ := Nat.exists_eq_add_of_le hi
  rw [hc.add, hc.outside (by rw [hc.room (by omega)]; omega)]
  rw [hc.pos (by omega)]
  omega

theorem CopyLoop.stored {i n : Nat} {s : State} (h : n ≤ dstRoom s) (hi : i < n) :
    readByte (loop n s).dst (s.dec.cur.dstPos.toNat + i) = byte (loop i s) := by
  rw [hc.kept (i := i + 1) h hi (by omega), hc.add, hc.one, ← hc.pos (n := i) (by omega)]
  exact readByte_writeByte_same _ _ _

end CopyLoop

/-- Each match byte is the one D before it in the result: copying goes forward. -/
theorem copyMatch_stored {d i n : Nat} {s : State} (h : n ≤ dstRoom s) (hd : 1 ≤ d) (hi : i < n)
    (hdp : d ≤ s.dec.cur.dstPos.toNat) : readByte (copyMatch d n s).dst (s.dec.cur.dstPos.toNat + i) =
      readByte (copyMatch d n s).dst (s.dec.cur.dstPos.toNat + i - d) := by
  have hc := copyMatch_loop d
  rw [hc.stored h hi, hc.kept (i := i) h hi.le (by omega), hc.pos (by omega)]

theorem copyLiterals_stored {i n : Nat} {s : State} (h : n ≤ dstRoom s) (hi : i < n) (hl : s.dec.litPos.toNat + i < 2 ^ 32) :
    readByte (copyLiterals n s).dst (s.dec.cur.dstPos.toNat + i) = litAt s.dec.lits (s.dec.litPos.toNat + i) := by
  have hpos : (BitVec.ofNat 32 (s.dec.litPos.toNat + i * 1)).toNat = s.dec.litPos.toNat + i :=
    (Nat.mul_one i).symm ▸ Nat.mod_eq_of_lt hl
  rw [copyLiterals_loop.stored h hi, copyLiterals_loop.state (show i ≤ dstRoom s by omega)]
  exact congrArg (litAt s.dec.lits) hpos

/-- How many of l literals fit (R211). -/
def litsFit (l : Nat) (s : State) : Nat := min l (dstRoom s)

/-- How many of m match bytes fit after l literals (R211). -/
def matchFit (l m : Nat) (s : State) : Nat := min m (dstRoom s - litsFit l s)

theorem litsFit_le (l : Nat) (s : State) : litsFit l s ≤ dstRoom s := min_le_right _ _

theorem matchFit_le (l m : Nat) (s : State) : matchFit l m s ≤ dstRoom s - litsFit l s := min_le_right _ _

/-- COPY_TRIPLET in one formula: it copies the literals that fit, then the match bytes that fit, and saves what is left. -/
theorem copyTriplet_eq (l m : Nat) (d : Int) (s : State) : copyTriplet l m d s =
    (decide (l + m ≤ dstRoom s), savePending (l - litsFit l s) (m - matchFit l m s) d
      (copyMatch d.toNat (matchFit l m s) (copyLiterals (litsFit l s) s))) := by
  unfold copyTriplet matchFit litsFit
  dsimp only
  rw [copyLiterals_loop.room (min_le_right _ _)]
  split
  · rw [show min m (dstRoom s - min l (dstRoom s)) = 0 by omega, decide_eq_false (by omega)]
    rfl
  · rw [show l - min l (dstRoom s) = 0 by omega]
    split
    · rw [decide_eq_false (by omega)]
    · rw [decide_eq_true (by omega), show m - min m (dstRoom s - min l (dstRoom s)) = 0 by omega]

/-- What COPY_TRIPLET changes beside the bytes of DST. -/
theorem copyTriplet_state (l m : Nat) (d : Int) (s : State) :
    (copyTriplet l m d s).2 = savePending (l - litsFit l s) (m - matchFit l m s) d
      (copied (copyTriplet l m d s).2.dst (s.dec.cur.dstPos.toNat + litsFit l s + matchFit l m s) (litsFit l s) s) := by
  have hlit := copyLiterals_loop.state (litsFit_le l s)
  have hm := (copyMatch_loop d.toNat).state (n := matchFit l m s) (s := copyLiterals (litsFit l s) s)
    (by rw [copyLiterals_loop.room (litsFit_le l s)]; exact matchFit_le l m s)
  rw [copyLiterals_loop.pos (litsFit_le l s)] at hm
  rw [copyTriplet_eq]
  dsimp only
  rw [hm, hlit, copied_copied, Nat.mul_zero, Nat.mul_one]
  rfl

/-- Settles O46. -/
theorem copyTripletBytes : Obligations.CopyTripletBytes := by
  intro s l m d hlit hm hd hpe hdist p room nl nm
  have hl : nl ≤ dstRoom s := min_le_right _ _
  have hpos := copyLiterals_loop.pos hl
  have hroom := copyLiterals_loop.room hl
  have hfit : nm ≤ dstRoom (copyLiterals nl s) := by rw [hroom]; exact min_le_right _ _
  have heq : copyTriplet l m d s = (decide (l + m ≤ room), savePending (l - nl) (m - nm) d
    (copyMatch d nm (copyLiterals nl s))) := copyTriplet_eq l m d s
  have hstate := copyTriplet_state l m d s
  rw [heq] at hstate
  have hout := (copyMatch_loop d).outside hfit
  rw [hpos] at hout
  refine ⟨_, heq, fun i hi => ?_, fun i hi => ?_, fun a ha => ?_, hstate.trans ?_⟩
  · exact (hout _ (by omega)).trans (copyLiterals_stored hl hi (by omega))
  · have hall : nl = l := by omega
    have hmatch := copyMatch_stored hfit hd hi (by omega)
    rw [hpos, show s.dec.cur.dstPos.toNat + nl = p + l by omega] at hmatch
    exact hmatch
  · exact (hout a (by omega)).trans (copyLiterals_loop.outside hl a (by omega))
  · rfl

/-! ### LMD_LOOP, triplet by triplet (R210) -/

theorem runTriplet_bad {l m : Nat} {d : Int} {s : State} (h : ¬distanceOk s l d) : runTriplet l m d s = .error s := by
  unfold distanceOk at h
  rw [runTriplet, if_pos (by omega)]

theorem runTriplet_fits {l m : Nat} {d : Int} {s : State} (h : distanceOk s l d) (hfit : l + m ≤ dstRoom s) :
    runTriplet l m d s = .done (copyTriplet l m d s).2 := by
  unfold distanceOk at h
  rw [runTriplet, if_neg (by omega), copyTriplet_eq, decide_eq_true hfit]

theorem runTriplet_full {l m : Nat} {d : Int} {s : State} (h : distanceOk s l d) (hfull : dstRoom s < l + m) :
    runTriplet l m d s = .dstFull (copyTriplet l m d s).2 := by
  unfold distanceOk at h
  rw [runTriplet, if_neg (by omega), copyTriplet_eq, decide_eq_false (by omega)]

/-- The three ways a triplet can end (R210, R211). -/
theorem runTriplet_cases (l m : Nat) (d : Int) (s : State) :
    (¬distanceOk s l d ∧ runTriplet l m d s = .error s) ∨
    (distanceOk s l d ∧ l + m ≤ dstRoom s ∧ runTriplet l m d s = .done (copyTriplet l m d s).2) ∨
    (distanceOk s l d ∧ dstRoom s < l + m ∧ runTriplet l m d s = .dstFull (copyTriplet l m d s).2) := by
  by_cases h : distanceOk s l d
  · by_cases hfit : l + m ≤ dstRoom s
    · exact .inr (.inl ⟨h, hfit, runTriplet_fits h hfit⟩)
    · exact .inr (.inr ⟨h, by omega, runTriplet_full h (by omega)⟩)
  · exact .inl ⟨h, runTriplet_bad h⟩

theorem copyTriplet_nMatches (l m : Nat) (d : Int) (s : State) : (copyTriplet l m d s).2.dec.nMatches = s.dec.nMatches := by
  rw [copyTriplet_state]
  rfl

/-- No triplet is pending (R210). -/
abbrev noPending (s : State) : Prop := s.dec.pendL = 0 ∧ s.dec.pendM = 0

theorem copyTriplet_noPending {l m : Nat} {d : Int} {s : State} (h : l + m ≤ dstRoom s) :
    noPending (copyTriplet l m d s).2 := by
  have hl : l - litsFit l s = 0 := by unfold litsFit; omega
  have hm : m - matchFit l m s = 0 := by unfold matchFit litsFit; omega
  rw [copyTriplet_eq, hl, hm]
  exact ⟨rfl, rfl⟩

/-- The state after a triplet is pulled (R210). -/
def pulled (v : LmdPull) (s : State) : State :=
  { s with
    in1 := v.acc,
    dec := { s.dec with
      lState := BitVec.ofInt 16 v.lNext, mState := BitVec.ofInt 16 v.mNext, dState := BitVec.ofInt 16 v.dNext,
      nMatches := BitVec.ofNat 32 (s.dec.nMatches.toNat - 1) } }

/-- The distance of a triplet just pulled: 0 is the one before it (R210). -/
def pulledD (v : LmdPull) (s : State) : Int := if v.d ≠ 0 then v.d else s.dec.curD.toInt

/-- The state where a pull fails (R210, 60_exceptions.md R297). -/
def pullFailed (x : InAcc) (a b : U16) (s : State) : State :=
  { s with in1 := x, dec := { s.dec with lState := a, mState := b } }

/-- A pull either reads a whole triplet whose literals are there, or is an ERROR that has touched IN[1] and states alone. -/
theorem pullTriplet_cases (s : State) :
    (∃ v, lmdPull s = some v ∧ (s.dec.litPos.toNat : Int) + v.l ≤ s.dec.nLits.toNat ∧
      pullTriplet s = .triplet v.l.toNat v.m.toNat (pulledD v s) (pulled v s)) ∨
    ((∀ v, lmdPull s = some v → (s.dec.nLits.toNat : Int) < s.dec.litPos.toNat + v.l) ∧
      ∃ x a b, pullTriplet s = .error (pullFailed x a b s)) := by
  unfold lmdPull pullTriplet pullValue
  cases inFlush s.src { s.in1 with lo := s.dec.lmdLo } with
  | none => exact .inr ⟨nofun, s.in1, s.dec.lState, s.dec.mState, rfl⟩
  | some x0 =>
    dsimp only [Triple.get]
    cases fseVdecode s.vdecTab.l x0 s.dec.lState.toNat with
    | error _ => exact .inr ⟨nofun, x0, s.dec.lState, s.dec.mState, rfl⟩
    | ok rl =>
      obtain ⟨ln, l, x1⟩ := rl
      dsimp only
      by_cases hl : (s.dec.nLits.toNat : Int) < s.dec.litPos.toNat + l
      · rw [if_pos hl]
        refine .inr ⟨fun v hv => ?_, x1, BitVec.ofInt 16 ln, s.dec.mState, rfl⟩
        cases hm : fseVdecode s.vdecTab.m x1 s.dec.mState.toNat with
        | error _ => simp [hm] at hv
        | ok rm =>
          cases hd : fseVdecode s.vdecTab.d rm.2.2 s.dec.dState.toNat with
          | error _ => simp [hm, hd] at hv
          | ok rd =>
            simp only [hm, hd, Option.some.injEq] at hv
            subst hv
            exact hl
      · rw [if_neg hl]
        cases fseVdecode s.vdecTab.m x1 s.dec.mState.toNat with
        | error _ => exact .inr ⟨nofun, x1, BitVec.ofInt 16 ln, s.dec.mState, rfl⟩
        | ok rm =>
          obtain ⟨mn, m, x2⟩ := rm
          dsimp only
          cases fseVdecode s.vdecTab.d x2 s.dec.dState.toNat with
          | error _ => exact .inr ⟨nofun, x2, BitVec.ofInt 16 ln, BitVec.ofInt 16 mn, rfl⟩
          | ok rd => exact .inl ⟨_, rfl, not_lt.mp hl, rfl⟩

/-- The triplet that LMD_LOOP runs next: the pending one, else one it pulls (R210). -/
def nextTriplet (s : State) : Pulled :=
  if noPending s then pullTriplet s else .triplet s.dec.pendL.toNat s.dec.pendM.toNat s.dec.curD.toInt s

theorem nextTriplet_pending {s : State} (h : ¬noPending s) :
    nextTriplet s = .triplet s.dec.pendL.toNat s.dec.pendM.toNat s.dec.curD.toInt s := if_neg h

theorem nextTriplet_pull {s : State} (h : noPending s) : nextTriplet s = pullTriplet s := if_pos h

/-- All triplets of the block have run (R210). -/
def drained (s : State) : Prop := noPending s ∧ s.dec.nMatches = 0

/-- LMD_LOOP after a triplet. -/
def afterTriplet : LmdStep → LmdStep
  | .done s => lmdLoop s
  | .dstFull s => .dstFull s
  | .error s => .error s

theorem lmdLoop_noPending {s : State} (h : noPending s) : lmdLoop s = lmdTriplets s.dec.nMatches.toNat s := if_pos h

theorem lmdLoop_drained {s : State} (h : drained s) : lmdLoop s = .done s := by
  rw [lmdLoop_noPending h.1, h.2]
  rfl

/-- How much LMD_LOOP has left to do. -/
def lmdMeasure (s : State) : Nat := s.dec.nMatches.toNat + if noPending s then 0 else 1

/-- A triplet that LMD_LOOP runs is pending, or pulled from a block that is not drained. -/
theorem nextTriplet_cases {s u : State} {l m : Nat} {d : Int} (h : nextTriplet s = .triplet l m d u) :
    (¬noPending s ∧ l = s.dec.pendL.toNat ∧ m = s.dec.pendM.toNat ∧ d = s.dec.curD.toInt ∧ u = s) ∨
    (noPending s ∧ ∃ v, lmdPull s = some v ∧ (s.dec.litPos.toNat : Int) + v.l ≤ s.dec.nLits.toNat ∧
      l = v.l.toNat ∧ m = v.m.toNat ∧ d = pulledD v s ∧ u = pulled v s) := by
  by_cases hp : noPending s
  · rw [nextTriplet_pull hp] at h
    obtain ⟨v, hv, hl, e⟩ | ⟨-, x, a, b, e⟩ := pullTriplet_cases s
    · rw [e] at h
      cases h
      exact .inr ⟨hp, v, hv, hl, rfl, rfl, rfl, rfl⟩
    · rw [e] at h
      cases h
  · rw [nextTriplet_pending hp] at h
    cases h
    exact .inl ⟨hp, rfl, rfl, rfl, rfl⟩

theorem nextTriplet_error {s u : State} (h : nextTriplet s = .error u) : ∃ x a b, u = pullFailed x a b s := by
  by_cases hp : noPending s
  · rw [nextTriplet_pull hp] at h
    obtain ⟨v, -, -, e⟩ | ⟨-, x, a, b, e⟩ := pullTriplet_cases s
    · rw [e] at h
      cases h
    · rw [e] at h
      cases h
      exact ⟨x, a, b, rfl⟩
  · rw [nextTriplet_pending hp] at h
    cases h

theorem pulled_nMatches {v : LmdPull} {s : State} : (pulled v s).dec.nMatches.toNat = s.dec.nMatches.toNat - 1 :=
  Nat.mod_eq_of_lt (by have := s.dec.nMatches.isLt; omega)

theorem lmdLoop_error {s u : State} (hd : ¬drained s) (h : nextTriplet s = .error u) : lmdLoop s = .error u := by
  by_cases hp : noPending s
  · obtain ⟨n, hn⟩ : ∃ n, s.dec.nMatches.toNat = n + 1 :=
      Nat.exists_eq_succ_of_ne_zero fun h0 => hd ⟨hp, BitVec.eq_of_toNat_eq h0⟩
    rw [nextTriplet_pull hp] at h
    rw [lmdLoop_noPending hp, hn, lmdTriplets, h]
  · rw [nextTriplet_pending hp] at h
    cases h

/-- One triplet of LMD_LOOP, then the rest. -/
theorem lmdLoop_triplet {s u : State} {l m : Nat} {d : Int} (hd : ¬drained s) (h : nextTriplet s = .triplet l m d u) :
    lmdLoop s = afterTriplet (runTriplet l m d u) := by
  by_cases hp : noPending s
  · obtain ⟨n, hn⟩ : ∃ n, s.dec.nMatches.toNat = n + 1 :=
      Nat.exists_eq_succ_of_ne_zero fun h0 => hd ⟨hp, BitVec.eq_of_toNat_eq h0⟩
    obtain ⟨hp', -⟩ | ⟨-, v, -, -, -, -, -, rfl⟩ := nextTriplet_cases h
    · exact absurd hp hp'
    rw [nextTriplet_pull hp] at h
    rw [lmdLoop_noPending hp, hn, lmdTriplets, h]
    dsimp only
    obtain ⟨-, e⟩ | ⟨-, hfit, e⟩ | ⟨-, -, e⟩ := runTriplet_cases l m d (pulled v s)
    · rw [e]; rfl
    · rw [e, afterTriplet, lmdLoop_noPending (copyTriplet_noPending hfit), copyTriplet_nMatches, pulled_nMatches, hn]
      rfl
    · rw [e]; rfl
  · rw [nextTriplet_pending hp] at h
    cases h
    rw [lmdLoop, if_neg hp]
    obtain ⟨-, e⟩ | ⟨-, hfit, e⟩ | ⟨-, -, e⟩ :=
      runTriplet_cases s.dec.pendL.toNat s.dec.pendM.toNat s.dec.curD.toInt s
    · rw [e]; rfl
    · rw [e, afterTriplet, lmdLoop_noPending (copyTriplet_noPending hfit)]
    · rw [e]; rfl

theorem lmdMeasure_done {s u t : State} {l m : Nat} {d : Int} (hd : ¬drained s) (h : nextTriplet s = .triplet l m d u)
    (hr : runTriplet l m d u = .done t) : lmdMeasure t < lmdMeasure s := by
  obtain ⟨-, e⟩ | ⟨-, hfit, e⟩ | ⟨-, -, e⟩ := runTriplet_cases l m d u
  · rw [e] at hr
    cases hr
  · rw [e] at hr
    cases hr
    rw [lmdMeasure, lmdMeasure, if_pos (copyTriplet_noPending hfit), copyTriplet_nMatches]
    obtain ⟨hp, -, -, -, rfl⟩ | ⟨hp, v, -, -, -, -, -, rfl⟩ := nextTriplet_cases h
    · rw [if_neg hp]
      omega
    · have hn : s.dec.nMatches.toNat ≠ 0 := fun h0 => hd ⟨hp, BitVec.eq_of_toNat_eq h0⟩
      rw [if_pos hp, pulled_nMatches]
      omega
  · rw [e] at hr
    cases hr

/-- Induction along LMD_LOOP: a block that is not drained runs one triplet and goes on in the state after it. -/
theorem lmdLoop_induct {motive : State → Prop}
    (step : ∀ s, (∀ l m d u t, ¬drained s → nextTriplet s = .triplet l m d u → runTriplet l m d u = .done t → motive t) →
      motive s) (s : State) : motive s := by
  induction hn : lmdMeasure s using Nat.strong_induction_on generalizing s with
  | h n ih =>
    subst hn
    exact step s fun l m d u t hd h hr => ih _ (lmdMeasure_done hd h hr) t rfl

/-! ### DECODE_LITERALS (R207) -/

/-- IN[0] and the literals from entry `i` of DEC.lits on. -/
def storeLits (i : Nat) (l : List U8) (x : InAcc) (s : State) : State :=
  { s with in0 := x, dec := { s.dec with lits := arrSetAll 0 s.dec.lits i l } }

theorem litAt_setAll_inside (m : Arr U8) {l : List U8} {i : Nat} (h : i < l.length) : litAt (arrSetAll 0 m 0 l) i = l[i] := by
  have e := arrGet_setAll_inside 0 Config.freeByte m 0 i l h
  rwa [Nat.zero_add] at e

theorem litAt_setAll_outside (m : Arr U8) {l : List U8} {i : Nat} (h : l.length ≤ i) :
    litAt (arrSetAll 0 m 0 l) i = litAt m i :=
  arrGet_setAll_outside _ _ _ _ _ _ (by omega)

theorem arrSetAll_append {α : Type} [DecidableEq α] (d : α) (m : Arr α) (i : Nat) (l r : List α) :
    arrSetAll d m i (l ++ r) = arrSetAll d (arrSetAll d m i l) (i + l.length) r := by
  induction l generalizing m i with
  | nil => rfl
  | cons v l ih => rw [List.cons_append, arrSetAll, ih, List.length_cons, Nat.add_right_comm]; rfl

theorem storeLits_storeLits (i : Nat) (l l' : List U8) (x x' : InAcc) (s : State) :
    storeLits (i + l.length) l' x' (storeLits i l x s) = storeLits i (l ++ l') x' s := by
  simp only [storeLits, arrSetAll_append]

/-- The groups from g on, read from a table, SRC and IN[0] alone: the literals stored, IN[0] after them, and whether they are whole.
`literalRun` reads the same symbols. -/
structure GroupsRead (tab : Sparse DecEntry) (m : Memory) (count g : Nat) (x : LitStates) (a : InAcc) (ok : Bool) (l : List U8)
    (y : InAcc) : Prop where
  groups : ∀ s : State, s.decTab = tab → s.src = m → s.in0 = a → literalGroups count g x s = (ok, storeLits (4 * g) l y s)
  failed : ok = false → literalRun tab m count x a = none
  whole : ok = true → ∃ symbols, literalRun tab m count x a = some (symbols, y) ∧ l = symbols.map (BitVec.ofNat 8) ∧
    symbols.length = 4 * count

theorem GroupsRead.fail {tab : Sparse DecEntry} {m : Memory} {count g : Nat} {x : LitStates} {a y : InAcc} {l : List U8}
    (h : ∀ s : State, s.decTab = tab → s.src = m → s.in0 = a → literalGroup g x s = (false, x, storeLits (4 * g) l y s))
    (hrun : literalRun tab m (count + 1) x a = none) : GroupsRead tab m (count + 1) g x a false l y where
  groups s ht hm ha := by rw [literalGroups, h s ht hm ha]
  failed _ := hrun
  whole := nofun

theorem literalStep_eq (i x : Nat) (s : State) : literalStep i x s = match fseDecode s.decTab s.in0 x with
    | .error _ => none
    | .ok (n, b, y) => some (n.toNat, storeLits i [BitVec.ofNat 8 b] y s) := by
  unfold literalStep decodeLiteral
  cases fseDecode s.decTab s.in0 x <;> rfl

theorem groupsRead (tab : Sparse DecEntry) (m : Memory) (count g : Nat) (x : LitStates) (a : InAcc) :
    ∃ ok l y, GroupsRead tab m count g x a ok l y := by
  induction count generalizing g x a with
  | zero =>
    refine ⟨true, [], a, fun s _ _ ha => ?_, nofun, fun _ => ⟨[], rfl, rfl, rfl⟩⟩
    rw [← ha]
    rfl
  | succ count ih =>
    cases hF : inFlush m a with
    | none =>
      refine ⟨false, [], a, .fail (fun s ht hm ha => ?_) (by rw [literalRun, hF])⟩
      subst ht hm ha
      simp only [literalGroup, hF]
      rfl
    | some a0 =>
      cases hA : fseDecode tab a0 x.s0 with
      | error _ =>
        refine ⟨false, [], a0, .fail (fun s ht hm ha => ?_) (by simp only [literalRun, hF, hA])⟩
        subst ht hm ha
        simp only [literalGroup, literalStep_eq, hF, hA]
        rfl
      | ok rA =>
        obtain ⟨n0, b0, a1⟩ := rA
        cases hB : fseDecode tab a1 x.s1 with
        | error _ =>
          refine ⟨false, [BitVec.ofNat 8 b0], a1, .fail (fun s ht hm ha => ?_) (by simp only [literalRun, hF, hA, hB])⟩
          subst ht hm ha
          simp only [literalGroup, literalStep_eq, storeLits, hF, hA, hB]
        | ok rB =>
          obtain ⟨n1, b1, a2⟩ := rB
          cases hC : fseDecode tab a2 x.s2 with
          | error _ =>
            refine ⟨false, [BitVec.ofNat 8 b0, BitVec.ofNat 8 b1], a2, .fail (fun s ht hm ha => ?_)
              (by simp only [literalRun, hF, hA, hB, hC])⟩
            subst ht hm ha
            simp only [literalGroup, literalStep_eq, storeLits, hF, hA, hB, hC]
            rfl
          | ok rC =>
            obtain ⟨n2, b2, a3⟩ := rC
            cases hD : fseDecode tab a3 x.s3 with
            | error _ =>
              refine ⟨false, [BitVec.ofNat 8 b0, BitVec.ofNat 8 b1, BitVec.ofNat 8 b2], a3, .fail (fun s ht hm ha => ?_)
                (by simp only [literalRun, hF, hA, hB, hC, hD])⟩
              subst ht hm ha
              simp only [literalGroup, literalStep_eq, storeLits, hF, hA, hB, hC, hD]
              rfl
            | ok rD =>
              obtain ⟨n3, b3, a4⟩ := rD
              obtain ⟨ok, l, y, hr⟩ := ih (g + 1) { s0 := n0.toNat, s1 := n1.toNat, s2 := n2.toNat, s3 := n3.toNat } a4
              refine ⟨ok, [b0, b1, b2, b3].map (BitVec.ofNat 8) ++ l, y, fun s ht hm ha => ?_, fun hok => ?_, fun hok => ?_⟩
              · subst ht hm ha
                rw [← storeLits_storeLits (x := a4)]
                have hg := hr.groups (storeLits (4 * g) ([b0, b1, b2, b3].map (BitVec.ofNat 8)) a4 s) rfl rfl rfl
                have hG : literalGroup g x s = (true, { s0 := n0.toNat, s1 := n1.toNat, s2 := n2.toNat, s3 := n3.toNat },
                    storeLits (4 * g) ([b0, b1, b2, b3].map (BitVec.ofNat 8)) a4 s) := by
                  simp only [literalGroup, literalStep_eq, storeLits, hF, hA, hB, hC, hD]
                  rfl
                rw [literalGroups, hG]
                exact hg
              · simp only [literalRun, hF, hA, hB, hC, hD, hr.failed hok]
              · obtain ⟨symbols, hs, rfl, hlen⟩ := hr.whole hok
                exact ⟨b0 :: b1 :: b2 :: b3 :: symbols, by simp only [literalRun, hF, hA, hB, hC, hD, hs], rfl,
                  by simp only [List.length_cons, hlen]; omega⟩

/-! ### Opening a compressed block (R206 to R208) -/

/-- HDR_CHECK passes where each of its checks does (43_header_codec.md R187). -/
theorem headerMask_eq_zero {s : State} : headerMask s = 0 ↔ ∀ b, b < 17 → headerPasses s b := by
  have bit (b : Nat) (hb : b < 17) : (headerMask s).testBit b = false ↔ headerPasses s b := by
    rw [← Bool.not_eq_true, headerMask, failureMask_testBit, headerChecks_get s hb, not_not]
  constructor
  · intro h b hb
    rw [← bit b hb, h, Nat.zero_testBit]
  · intro h
    refine Nat.eq_of_testBit_eq fun b => ?_
    rw [Nat.zero_testBit]
    by_cases hb : b < 17
    · exact (bit b hb).mpr (h b hb)
    · exact Nat.testBit_lt_two_pow (lt_of_lt_of_le (failureMask_lt _) (Nat.pow_le_pow_right (by decide) (not_lt.mp hb)))

/-- The four literal states of a header (R207). -/
def litStates (h : Hdr) : LitStates :=
  { s0 := h.literalState0.toNat, s1 := h.literalState1.toNat, s2 := h.literalState2.toNat, s3 := h.literalState3.toNat }

/-- IN[0] at the literal payload that ends before q (R207). -/
def litStream (h : Hdr) (q : Nat) (s : State) : Bool × InAcc :=
  inInit s.src s.in0 h.literalBits.toInt q s.dec.cur.srcBegin.toNat

/-- IN[1] at the LMD payload that starts at q (R208). -/
def lmdStream (h : Hdr) (q : Nat) (s : State) : Bool × InAcc :=
  inInit s.src s.in1 h.lmdBits.toInt (q + h.nLmdPayloadBytes.toNat) q

/-- HDR, FREQ and HDR_SIZE loaded, and the tables of FREQ built (R206). -/
def blockTables (h : Hdr) (f : List Nat) (hs : Nat) (s : State) : State := buildBlockTables (loadHeader h f hs s)

/-- The literals of a header's block decoded (R207). -/
def litsLoaded (h : Hdr) (l : List U8) (x : InAcc) (s : State) : State :=
  { s with in0 := x, dec := { s.dec with lits := arrSetAll 0 s.dec.lits 0 l, nLits := h.nLiterals, litPos := 0 } }

/-- The block of a header open, its LMD payload at q (R206). -/
def blockOpened (block : Block) (h : Hdr) (q : Nat) (y : InAcc) (s : State) : State :=
  { s with
    in1 := y,
    dec := { s.dec with
      lmdLo := nat64 q, lState := h.lState, mState := h.mState, dState := h.dState, nMatches := h.nMatches,
      nLmdPayloadBytes := h.nLmdPayloadBytes, pendL := 0, pendM := 0, curD := BitVec.ofInt 32 (-1),
      cur := { s.dec.cur with srcPos := nat64 q }, block := block } }

section Streams

variable {p q : Nat} {u : State}

theorem decodeLiterals_badStart (hq : q = p + u.hdr.nLiteralPayloadBytes.toNat) (hlit : (litStream u.hdr q u).1 = false) :
    decodeLiterals p u = (false, storeLits 0 [] (litStream u.hdr q u).2 u) := by
  subst hq
  have e : inInit u.src u.in0 u.hdr.literalBits.toInt (p + u.hdr.nLiteralPayloadBytes.toNat) u.dec.cur.srcBegin.toNat =
    (false, (litStream u.hdr (p + u.hdr.nLiteralPayloadBytes.toNat) u).2) := Prod.ext hlit rfl
  simp only [decodeLiterals, e]
  rfl

theorem decodeLiterals_groups (hq : q = p + u.hdr.nLiteralPayloadBytes.toNat) (hlit : (litStream u.hdr q u).1 = true)
    {ok : Bool} {l : List U8} {x : InAcc}
    (hr : GroupsRead u.decTab u.src (u.hdr.nLiterals.toNat / 4) 0 (litStates u.hdr) (litStream u.hdr q u).2 ok l x) :
    decodeLiterals p u = (ok, if ok then litsLoaded u.hdr l x u else storeLits 0 l x u) := by
  subst hq
  have e : inInit u.src u.in0 u.hdr.literalBits.toInt (p + u.hdr.nLiteralPayloadBytes.toNat) u.dec.cur.srcBegin.toNat =
    (true, (litStream u.hdr (p + u.hdr.nLiteralPayloadBytes.toNat) u).2) := Prod.ext hlit rfl
  have hg := hr.groups { u with in0 := (litStream u.hdr (p + u.hdr.nLiteralPayloadBytes.toNat) u).2 } rfl rfl rfl
  unfold litStates at hg
  cases ok <;> simp only [decodeLiterals, e, hg] <;> rfl

theorem openLmd_bad (block : Block) (hlmd : (lmdStream u.hdr q u).1 = false) :
    openLmd block q u = .stop .error { u with in1 := (lmdStream u.hdr q u).2 } := by
  have e : inInit u.src u.in1 u.hdr.lmdBits.toInt (q + u.hdr.nLmdPayloadBytes.toNat) q = (false, (lmdStream u.hdr q u).2) :=
    Prod.ext hlmd rfl
  simp only [openLmd, initLmd, e]

theorem openLmd_opened (block : Block) (hlmd : (lmdStream u.hdr q u).1 = true) :
    openLmd block q u = .cont (blockOpened block u.hdr q (lmdStream u.hdr q u).2 u) := by
  have e : inInit u.src u.in1 u.hdr.lmdBits.toInt (q + u.hdr.nLmdPayloadBytes.toNat) q = (true, (lmdStream u.hdr q u).2) :=
    Prod.ext hlmd rfl
  simp only [openLmd, initLmd, e]
  rfl

end Streams

/-- OPEN_COMPRESSED once the literals have been decoded (R206). -/
def openRest (block : Block) (q : Nat) : Bool × State → BlockStep
  | (false, s) => .stop .error s
  | (true, s) => openLmd block q s

section OpenWith

variable {block : Block} {p : Nat} {h : Hdr} {f : List Nat} {hs q : Nat} {s : State}

theorem openWith_short (hlim : s.dec.cur.srcEnd.toNat < p + hs + h.nLiteralPayloadBytes.toNat + h.nLmdPayloadBytes.toNat) :
    openWith block p h f hs s = .stop .srcEmpty s := if_pos hlim

variable (hlim : p + hs + h.nLiteralPayloadBytes.toNat + h.nLmdPayloadBytes.toNat ≤ s.dec.cur.srcEnd.toNat)

include hlim

theorem openWith_badHeader (hmask : headerMask (loadHeader h f hs s) ≠ 0) :
    openWith block p h f hs s = .stop .error (loadHeader h f hs s) := by
  rw [openWith, if_neg (not_lt.mpr hlim)]
  exact if_pos hmask

variable (hmask : headerMask (loadHeader h f hs s) = 0) (hq : q = p + hs + h.nLiteralPayloadBytes.toNat)

include hmask hq

theorem openWith_passed :
    openWith block p h f hs s = openRest block q (decodeLiterals (p + hs) (blockTables h f hs s)) := by
  subst hq
  rw [openWith, if_neg (not_lt.mpr hlim)]
  exact if_neg (not_not.mpr hmask)

theorem openWith_badStart (hlit : (litStream h q s).1 = false) :
    openWith block p h f hs s = .stop .error (storeLits 0 [] (litStream h q s).2 (blockTables h f hs s)) := by
  rw [openWith_passed hlim hmask hq, decodeLiterals_badStart (u := blockTables h f hs s) hq hlit]
  rfl

variable (hlit : (litStream h q s).1 = true) {l : List U8} {x : InAcc}

include hlit

theorem openWith_badLiterals (hr : GroupsRead (blockTables h f hs s).decTab s.src (h.nLiterals.toNat / 4) 0 (litStates h)
    (litStream h q s).2 false l x) :
    openWith block p h f hs s = .stop .error (storeLits 0 l x (blockTables h f hs s)) := by
  rw [openWith_passed hlim hmask hq, decodeLiterals_groups (u := blockTables h f hs s) hq hlit hr]
  rfl

variable (hr : GroupsRead (blockTables h f hs s).decTab s.src (h.nLiterals.toNat / 4) 0 (litStates h) (litStream h q s).2
    true l x)

include hr

theorem openWith_badLmd (hlmd : (lmdStream h q s).1 = false) : openWith block p h f hs s =
    .stop .error { litsLoaded h l x (blockTables h f hs s) with in1 := (lmdStream h q s).2 } := by
  rw [openWith_passed hlim hmask hq, decodeLiterals_groups (u := blockTables h f hs s) hq hlit hr]
  exact openLmd_bad (u := litsLoaded h l x (blockTables h f hs s)) block hlmd

theorem openWith_opened (hlmd : (lmdStream h q s).1 = true) : openWith block p h f hs s =
    .cont (blockOpened block h q (lmdStream h q s).2 (litsLoaded h l x (blockTables h f hs s))) := by
  rw [openWith_passed hlim hmask hq, decodeLiterals_groups (u := blockTables h f hs s) hq hlit hr]
  exact openLmd_opened (u := litsLoaded h l x (blockTables h f hs s)) block hlmd

end OpenWith

/-! ### Between blocks (R203, R204) -/

section Between

variable {s : State}

theorem betweenBlocks_short (h : s.dec.cur.srcEnd.toNat < s.dec.cur.srcPos.toNat + 4) :
    betweenBlocks s = .stop .srcEmpty s := if_pos h

variable (h4 : s.dec.cur.srcPos.toNat + 4 ≤ s.dec.cur.srcEnd.toNat)

include h4

/-- The state past the end-of-stream magic. -/
theorem betweenBlocks_eos (hm : memRead s.src s.dec.cur.srcPos.toNat 4 = magicEos) : betweenBlocks s = .stop .ok { s with
    dec := { s.dec with cur := { s.dec.cur with srcPos := nat64 (s.dec.cur.srcPos.toNat + 4) }, endOfStream := true } } := by
  simp only [betweenBlocks, if_neg (not_lt.mpr h4), hm]
  rfl

theorem betweenBlocks_raw (hm : memRead s.src s.dec.cur.srcPos.toNat 4 = magicRaw) : betweenBlocks s =
    if s.dec.cur.srcEnd.toNat < s.dec.cur.srcPos.toNat + 8 then .stop .srcEmpty s
    else .cont { s with dec := { s.dec with
      rawRemaining := BitVec.ofNat 32 (memRead s.src (s.dec.cur.srcPos.toNat + 4) 4),
      cur := { s.dec.cur with srcPos := nat64 (s.dec.cur.srcPos.toNat + 8) }, block := .raw } } := by
  simp only [betweenBlocks, if_neg (not_lt.mpr h4), hm]
  rfl

theorem betweenBlocks_vn (hm : memRead s.src s.dec.cur.srcPos.toNat 4 = magicVn) : betweenBlocks s =
    if s.dec.cur.srcEnd.toNat < s.dec.cur.srcPos.toNat + 12 then .stop .srcEmpty s
    else .cont { s with dec := { s.dec with
      vnRaw := BitVec.ofNat 32 (memRead s.src (s.dec.cur.srcPos.toNat + 4) 4),
      vnPayload := BitVec.ofNat 32 (memRead s.src (s.dec.cur.srcPos.toNat + 8) 4),
      vnDprev := 0, cur := { s.dec.cur with srcPos := nat64 (s.dec.cur.srcPos.toNat + 12) }, block := .vn } } := by
  simp only [betweenBlocks, if_neg (not_lt.mpr h4), hm]
  rfl

theorem betweenBlocks_v1 (hm : memRead s.src s.dec.cur.srcPos.toNat 4 = magicV1) : betweenBlocks s = openV1 s := by
  simp only [betweenBlocks, if_neg (not_lt.mpr h4), hm]
  rfl

theorem betweenBlocks_v2 (hm : memRead s.src s.dec.cur.srcPos.toNat 4 = magicV2) : betweenBlocks s = openV2 s := by
  simp only [betweenBlocks, if_neg (not_lt.mpr h4), hm]
  rfl

theorem betweenBlocks_unknown
    (hm : memRead s.src s.dec.cur.srcPos.toNat 4 ∉ [magicEos, magicRaw, magicV1, magicV2, magicVn]) :
    betweenBlocks s = .stop .error s := by
  simp only [List.mem_cons, List.not_mem_nil, or_false, not_or] at hm
  obtain ⟨he, hr, h1, h2, hn⟩ := hm
  simp only [betweenBlocks, if_neg (not_lt.mpr h4), if_neg he, if_neg hr, if_neg h1, if_neg h2, if_neg hn]

end Between

/-- What R206 reads of the header at DEC.src_pos: the verbose image, or the packed header. -/
def headAt (block : Block) (s : State) : Unpacked :=
  if block = .v1 then
    if s.dec.cur.srcEnd.toNat < s.dec.cur.srcPos.toNat + 772 then .srcEmpty
    else .ok (v1Fields s.src s.dec.cur.srcPos.toNat) (v1Freqs s.src s.dec.cur.srcPos.toNat) 772
  else unpackHeader s.src s.dec.cur.srcPos.toNat s.dec.cur.srcEnd.toNat

/-- OPEN_COMPRESSED once the header has been read (R206). -/
def openHead (block : Block) (head : Unpacked) (s : State) : BlockStep :=
  match head with
  | .srcEmpty => .stop .srcEmpty s
  | .error => .stop .error s
  | .ok h f hs => openWith block s.dec.cur.srcPos.toNat h f hs s

theorem openV1_eq (s : State) : openV1 s = openHead .v1 (headAt .v1 s) s := by
  by_cases h : s.dec.cur.srcEnd.toNat < s.dec.cur.srcPos.toNat + 772
  · rw [headAt, if_pos rfl, if_pos h]
    exact if_pos h
  · rw [headAt, if_pos rfl, if_neg h]
    exact if_neg h

theorem openV2_eq (s : State) : openV2 s = openHead .v2 (headAt .v2 s) s := by
  rw [openV2, headAt, if_neg (by decide)]
  cases unpackHeader s.src s.dec.cur.srcPos.toNat s.dec.cur.srcEnd.toNat <;> rfl

/-! ### Every way of going on between blocks (R203 to R208) -/

/-- What BLOCK_STEP between blocks reads is the same in `u` as in `s`. -/
structure SameInputs (s u : State) : Prop where
  src : u.src = s.src
  in0 : u.in0 = s.in0
  in1 : u.in1 = s.in1
  srcBegin : u.dec.cur.srcBegin = s.dec.cur.srcBegin
  srcPos : u.dec.cur.srcPos = s.dec.cur.srcPos
  srcEnd : u.dec.cur.srcEnd = s.dec.cur.srcEnd

/-- The forms of a block step between blocks, each as a function of the state it is taken in. -/
inductive Opening (s : State) : (State → BlockStep) → Prop
  | stays (st : Status) (hst : st = .srcEmpty ∨ st = .error) : Opening s (.stop st)
  | eos (p : Nat) (hp : s.dec.cur.srcPos.toNat ≤ p) (he : p ≤ s.dec.cur.srcEnd.toNat) : Opening s fun u => .stop .ok { u with
      dec := { u.dec with cur := { u.dec.cur with srcPos := nat64 p }, endOfStream := true } }
  | raw (p : Nat) (n : U32) (hp : s.dec.cur.srcPos.toNat ≤ p) (he : p ≤ s.dec.cur.srcEnd.toNat) :
      Opening s fun u => .cont { u with dec := { u.dec with
        rawRemaining := n, cur := { u.dec.cur with srcPos := nat64 p }, block := .raw } }
  | secondary (p : Nat) (n k : U32) (hp : s.dec.cur.srcPos.toNat ≤ p) (he : p ≤ s.dec.cur.srcEnd.toNat) :
      Opening s fun u => .cont { u with dec := { u.dec with
        vnRaw := n, vnPayload := k, vnDprev := 0, cur := { u.dec.cur with srcPos := nat64 p }, block := .vn } }
  | badHeader (h : Hdr) (f : List Nat) (hs : Nat) : Opening s fun u => .stop .error (loadHeader h f hs u)
  | badLiterals (h : Hdr) (f : List Nat) (hs : Nat) (l : List U8) (x : InAcc) :
      Opening s fun u => .stop .error (storeLits 0 l x (blockTables h f hs u))
  | badLmd (h : Hdr) (f : List Nat) (hs : Nat) (l : List U8) (x y : InAcc) (hl : l.length = h.nLiterals.toNat) :
      Opening s fun u => .stop .error { litsLoaded h l x (blockTables h f hs u) with in1 := y }
  | opened (block : Block) (hb : block = .v1 ∨ block = .v2) (h : Hdr) (f : List Nat) (hs q : Nat) (l : List U8) (x y : InAcc)
      (hl : l.length = h.nLiterals.toNat) (hp : s.dec.cur.srcPos.toNat ≤ q) (he : q ≤ s.dec.cur.srcEnd.toNat) :
      Opening s fun u => .cont (blockOpened block h q y (litsLoaded h l x (blockTables h f hs u)))

/-- The number of literals of a header that HDR_CHECK passes is a multiple of 4 (43_header_codec.md R187). -/
theorem nLiterals_mod_of_mask {s : State} (h : headerMask s = 0) : s.hdr.nLiterals.toNat % 4 = 0 := by
  have := headerMask_eq_zero.mp h 14 (by decide)
  exact this

section Opening

variable {s : State}

theorem SameInputs.refl (s : State) : SameInputs s s := ⟨rfl, rfl, rfl, rfl, rfl, rfl⟩

theorem SameInputs.litStream {u : State} (hu : SameInputs s u) (h : Hdr) (q : Nat) :
    litStream h q u = Proofs.litStream h q s := by
  rw [Proofs.litStream, hu.src, hu.in0, hu.srcBegin]
  rfl

theorem SameInputs.lmdStream {u : State} (hu : SameInputs s u) (h : Hdr) (q : Nat) :
    lmdStream h q u = Proofs.lmdStream h q s := by
  rw [Proofs.lmdStream, hu.src, hu.in1]
  rfl

theorem openWith_opening {block : Block} (hb : block = .v1 ∨ block = .v2) (h : Hdr) (f : List Nat) (hs : Nat) (s : State) :
    ∃ F, Opening s F ∧ ∀ u, SameInputs s u → openWith block s.dec.cur.srcPos.toNat h f hs u = F u := by
  have mask (u : State) : headerMask (loadHeader h f hs u) = headerMask (loadHeader h f hs s) := rfl
  by_cases hlim : s.dec.cur.srcEnd.toNat <
    s.dec.cur.srcPos.toNat + hs + h.nLiteralPayloadBytes.toNat + h.nLmdPayloadBytes.toNat
  · exact ⟨_, .stays .srcEmpty (.inl rfl), fun u hu => openWith_short (hu.srcEnd ▸ hlim)⟩
  have hlim' {u : State} (hu : SameInputs s u) : _ ≤ u.dec.cur.srcEnd.toNat := hu.srcEnd ▸ not_lt.mp hlim
  by_cases hmask : headerMask (loadHeader h f hs s) = 0
  swap
  · exact ⟨_, .badHeader h f hs, fun u hu => openWith_badHeader (hlim' hu) hmask⟩
  obtain ⟨q, hq⟩ : ∃ q, q = s.dec.cur.srcPos.toNat + hs + h.nLiteralPayloadBytes.toNat := ⟨_, rfl⟩
  cases hlit : (litStream h q s).1 with
  | false =>
    refine ⟨_, .badLiterals h f hs [] (litStream h q s).2, fun u hu => ?_⟩
    rw [← hu.litStream] at hlit ⊢
    exact openWith_badStart (hlim' hu) hmask hq hlit
  | true =>
    obtain ⟨ok, l, x, hr⟩ := groupsRead (blockTables h f hs s).decTab s.src (h.nLiterals.toNat / 4) 0 (litStates h)
      (litStream h q s).2
    have hr' {u : State} (hu : SameInputs s u) : GroupsRead (blockTables h f hs u).decTab u.src _ 0 _ (litStream h q u).2
      ok l x := hu.src ▸ hu.litStream h q ▸ hr
    have hlit' {u : State} (hu : SameInputs s u) : (litStream h q u).1 = true := hu.litStream h q ▸ hlit
    cases ok with
    | false => exact ⟨_, .badLiterals h f hs l x, fun u hu => openWith_badLiterals (hlim' hu) hmask hq (hlit' hu) (hr' hu)⟩
    | true =>
      obtain ⟨symbols, -, rfl, hlen⟩ := hr.whole rfl
      have hl : (symbols.map (BitVec.ofNat 8)).length = h.nLiterals.toNat := by
        have := nLiterals_mod_of_mask hmask
        rw [List.length_map, hlen]
        exact Nat.mul_div_cancel' (Nat.dvd_of_mod_eq_zero this)
      cases hlmd : (lmdStream h q s).1 with
      | false =>
        refine ⟨_, .badLmd h f hs _ x (lmdStream h q s).2 hl, fun u hu => ?_⟩
        rw [← hu.lmdStream] at hlmd ⊢
        exact openWith_badLmd (hlim' hu) hmask hq (hlit' hu) (hr' hu) hlmd
      | true =>
        refine ⟨_, .opened block hb h f hs q _ x (lmdStream h q s).2 hl (by omega) (by omega), fun u hu => ?_⟩
        rw [← hu.lmdStream] at hlmd ⊢
        exact openWith_opened (hlim' hu) hmask hq (hlit' hu) (hr' hu) hlmd

theorem headAt_congr {u : State} (hu : SameInputs s u) (block : Block) : headAt block u = headAt block s := by
  rw [headAt, hu.src, hu.srcPos, hu.srcEnd]
  rfl

theorem openHead_opening {block : Block} (hb : block = .v1 ∨ block = .v2) (s : State) :
    ∃ F, Opening s F ∧ ∀ u, SameInputs s u → openHead block (headAt block u) u = F u := by
  cases hh : headAt block s with
  | srcEmpty => exact ⟨_, .stays .srcEmpty (.inl rfl), fun u hu => by rw [headAt_congr hu, hh]; rfl⟩
  | error => exact ⟨_, .stays .error (.inr rfl), fun u hu => by rw [headAt_congr hu, hh]; rfl⟩
  | ok h f hs =>
    obtain ⟨F, hF, e⟩ := openWith_opening hb h f hs s
    refine ⟨F, hF, fun u hu => ?_⟩
    rw [headAt_congr hu, hh, ← e u hu, ← hu.srcPos]
    rfl

theorem betweenBlocks_opening (s : State) : ∃ F, Opening s F ∧ ∀ u, SameInputs s u → betweenBlocks u = F u := by
  have magic {u : State} (hu : SameInputs s u) :
      memRead u.src u.dec.cur.srcPos.toNat 4 = memRead s.src s.dec.cur.srcPos.toNat 4 := by rw [hu.src, hu.srcPos]
  by_cases h4 : s.dec.cur.srcEnd.toNat < s.dec.cur.srcPos.toNat + 4
  · exact ⟨_, .stays .srcEmpty (.inl rfl), fun u hu => betweenBlocks_short (by rwa [hu.srcEnd, hu.srcPos])⟩
  have h4' {u : State} (hu : SameInputs s u) : u.dec.cur.srcPos.toNat + 4 ≤ u.dec.cur.srcEnd.toNat := by
    rw [hu.srcEnd, hu.srcPos]
    omega
  by_cases hm : memRead s.src s.dec.cur.srcPos.toNat 4 ∈ [magicEos, magicRaw, magicV1, magicV2, magicVn]
  swap
  · exact ⟨_, .stays .error (.inr rfl), fun u hu => betweenBlocks_unknown (h4' hu) (magic hu ▸ hm)⟩
  simp only [List.mem_cons, List.not_mem_nil, or_false] at hm
  obtain hm | hm | hm | hm | hm := hm
  · refine ⟨_, .eos (s.dec.cur.srcPos.toNat + 4) (by omega) (by omega), fun u hu => ?_⟩
    rw [betweenBlocks_eos (h4' hu) ((magic hu).trans hm), hu.srcPos]
  · by_cases h8 : s.dec.cur.srcEnd.toNat < s.dec.cur.srcPos.toNat + 8
    · refine ⟨_, .stays .srcEmpty (.inl rfl), fun u hu => ?_⟩
      rw [betweenBlocks_raw (h4' hu) ((magic hu).trans hm), hu.srcEnd, hu.srcPos, if_pos h8]
    · refine ⟨_, .raw (s.dec.cur.srcPos.toNat + 8)
        (BitVec.ofNat 32 (memRead s.src (s.dec.cur.srcPos.toNat + 4) 4)) (by omega) (by omega), fun u hu => ?_⟩
      rw [betweenBlocks_raw (h4' hu) ((magic hu).trans hm), hu.srcEnd, hu.srcPos, if_neg h8, hu.src]
  · obtain ⟨F, hF, e⟩ := openHead_opening (.inl rfl) s
    exact ⟨F, hF, fun u hu => by rw [betweenBlocks_v1 (h4' hu) ((magic hu).trans hm), openV1_eq, e u hu]⟩
  · obtain ⟨F, hF, e⟩ := openHead_opening (.inr rfl) s
    exact ⟨F, hF, fun u hu => by rw [betweenBlocks_v2 (h4' hu) ((magic hu).trans hm), openV2_eq, e u hu]⟩
  · by_cases h12 : s.dec.cur.srcEnd.toNat < s.dec.cur.srcPos.toNat + 12
    · refine ⟨_, .stays .srcEmpty (.inl rfl), fun u hu => ?_⟩
      rw [betweenBlocks_vn (h4' hu) ((magic hu).trans hm), hu.srcEnd, hu.srcPos, if_pos h12]
    · refine ⟨_, .secondary (s.dec.cur.srcPos.toNat + 12)
        (BitVec.ofNat 32 (memRead s.src (s.dec.cur.srcPos.toNat + 4) 4))
        (BitVec.ofNat 32 (memRead s.src (s.dec.cur.srcPos.toNat + 8) 4)) (by omega) (by omega), fun u hu => ?_⟩
      rw [betweenBlocks_vn (h4' hu) ((magic hu).trans hm), hu.srcEnd, hu.srcPos, if_neg h12, hu.src]

end Opening

/-! ### An uncompressed block (R205) -/

/-- The bytes that one block step copies in an uncompressed block. -/
def rawCount (s : State) : Nat :=
  min (min s.dec.rawRemaining.toNat (s.dec.cur.srcEnd.toNat - s.dec.cur.srcPos.toNat))
    (s.dec.cur.dstEnd.toNat - s.dec.cur.dstPos.toNat)

section Raw

variable {s : State}

theorem rawBlock_closes (h : s.dec.rawRemaining.toNat = 0) : rawBlock s = .cont (setDecBlock .noBlock s) := if_pos h

variable (h : s.dec.rawRemaining.toNat ≠ 0)

include h

theorem rawBlock_srcEmpty (ha : s.dec.cur.srcEnd.toNat ≤ s.dec.cur.srcPos.toNat) : rawBlock s = .stop .srcEmpty s := by
  rw [rawBlock, if_neg h, if_pos ha]

variable (ha : s.dec.cur.srcPos.toNat < s.dec.cur.srcEnd.toNat)

include ha

theorem rawBlock_dstFull (hr : s.dec.cur.dstEnd.toNat ≤ s.dec.cur.dstPos.toNat) : rawBlock s = .stop .dstFull s := by
  rw [rawBlock, if_neg h, if_neg (not_le.mpr ha), if_pos hr]

theorem rawBlock_copies (hr : s.dec.cur.dstPos.toNat < s.dec.cur.dstEnd.toNat) : rawBlock s = .cont (copyRaw (rawCount s) s) := by
  rw [rawBlock, if_neg h, if_neg (not_le.mpr ha), if_neg (not_le.mpr hr)]
  rfl

end Raw

/-! ### An open compressed block (R209) -/

/-- The LMD payload of the open block is not whole (R209). -/
def payloadShort (s : State) : Prop :=
  s.dec.cur.srcEnd.toNat ≤ s.dec.cur.srcPos.toNat ∨
    s.dec.cur.srcEnd.toNat - s.dec.cur.srcPos.toNat < s.dec.nLmdPayloadBytes.toNat

/-- The state past a block whose triplets have all run (R209). -/
def pastBlock (s : State) : State :=
  setDecSrcPos (s.dec.cur.srcPos.toNat + s.dec.nLmdPayloadBytes.toNat) (setDecBlock .noBlock s)

/-- What BLOCK_STEP makes of the end of LMD_LOOP (R209). -/
def blockOfLmd : LmdStep → BlockStep
  | .done s => .cont (pastBlock s)
  | .dstFull s => .stop .dstFull s
  | .error s => .stop .error s

theorem compressedBlock_short {s : State} (h : payloadShort s) : compressedBlock s = .stop .srcEmpty s := if_pos h

theorem compressedBlock_whole {s : State} (h : ¬payloadShort s) : compressedBlock s = blockOfLmd (lmdLoop s) := by
  refine (if_neg h).trans ?_
  cases lmdLoop s <;> rfl

/-! ### A secondary block (R214) -/

/-- The payload of the secondary block is not whole (R214). -/
def secondaryShort (s : State) : Prop := s.dec.cur.srcEnd.toNat < s.dec.cur.srcPos.toNat + s.dec.vnPayload.toNat

/-- The agent's answer in a secondary block (92_eei_decisions.md P1). -/
def agentAnswer (s : State) : SecondaryResult := Config.secondaryDecode (secondaryCall s)

/-- The agent's bytes that the block takes (log entry 6). -/
def agentBytes (s : State) : List U8 :=
  (agentAnswer s).produced.take ((secondaryCall s).dstLim - s.dec.cur.dstPos.toNat)

/-- The agent took or gave more than the block has (R214). -/
def agentOver (s : State) : Prop :=
  s.dec.vnPayload.toNat < (agentAnswer s).consumed ∨ s.dec.vnRaw.toNat < (agentAnswer s).produced.length

/-- The state after the agent's answer. -/
def answered (s : State) : State := secondaryApply (agentAnswer s) (agentBytes s) s

theorem agentBytes_fit (s : State) : (agentBytes s).length ≤ s.dec.cur.dstEnd.toNat - s.dec.cur.dstPos.toNat := by
  have hlim : (secondaryCall s).dstLim ≤ s.dec.cur.dstEnd.toNat := min_le_left _ _
  rw [agentBytes, List.length_take]
  omega

section Secondary

variable {s : State}

theorem secondaryBlock_short (h : secondaryShort s) : secondaryBlock s = .stop .srcEmpty s := by
  unfold secondaryShort at h
  exact if_pos (by omega)

variable (h : ¬secondaryShort s)

include h

theorem secondaryBlock_whole : secondaryBlock s = secondaryAnswer (agentAnswer s) s := by
  unfold secondaryShort at h
  exact if_neg (by omega)

theorem secondaryBlock_over (ho : agentOver s) : secondaryBlock s = .stop .error s :=
  (secondaryBlock_whole h).trans (if_pos ho)

variable (ho : ¬agentOver s)

include ho

theorem secondaryBlock_answered : secondaryBlock s =
    if (answered s).dec.vnPayload = 0 ∧ (answered s).dec.vnRaw = 0 ∧ (agentAnswer s).eos then
      .cont (setDecBlock .noBlock (answered s))
    else if (answered s).dec.vnPayload = 0 ∨ (answered s).dec.vnRaw = 0 ∨ (agentAnswer s).eos then
      .stop .error (answered s)
    else .stop .dstFull (answered s) :=
  (secondaryBlock_whole h).trans (if_neg ho)

/-- The three ways in which an answer within the block ends a block step. -/
theorem secondaryBlock_cases :
    ((answered s).dec.vnPayload = 0 ∧ (answered s).dec.vnRaw = 0 ∧ (agentAnswer s).eos = true ∧
      secondaryBlock s = .cont (setDecBlock .noBlock (answered s))) ∨
    secondaryBlock s = .stop .error (answered s) ∨ secondaryBlock s = .stop .dstFull (answered s) := by
  rw [secondaryBlock_answered h ho]
  split
  · rename_i hall
    exact .inl ⟨hall.1, hall.2.1, hall.2.2, rfl⟩
  · split
    · exact .inr (.inl rfl)
    · exact .inr (.inr rfl)

end Secondary

/-! ### DEC_STEP always ends (R201, R215) -/

/-- The source cursors move forward in the decode; its bounds and POISONED stay. -/
structure Advances (s t : State) : Prop where
  srcBegin : t.dec.cur.srcBegin = s.dec.cur.srcBegin
  srcEnd : t.dec.cur.srcEnd = s.dec.cur.srcEnd
  dstBegin : t.dec.cur.dstBegin = s.dec.cur.dstBegin
  srcPos : s.dec.cur.srcPos.toNat ≤ t.dec.cur.srcPos.toNat
  poisoned : t.dec.poisoned = s.dec.poisoned

theorem Advances.refl (s : State) : Advances s s := ⟨rfl, rfl, rfl, le_rfl, rfl⟩

theorem Advances.trans {s t u : State} (h : Advances s t) (k : Advances t u) : Advances s u :=
  ⟨k.srcBegin.trans h.srcBegin, k.srcEnd.trans h.srcEnd, k.dstBegin.trans h.dstBegin, h.srcPos.trans k.srcPos,
    k.poisoned.trans h.poisoned⟩

theorem Advances.of_cur {s t : State} (hc : t.dec.cur = s.dec.cur) (hp : t.dec.poisoned = s.dec.poisoned) : Advances s t :=
  ⟨by rw [hc], by rw [hc], by rw [hc], by rw [hc], hp⟩

/-- Where the source position moves to one within the end. -/
theorem Advances.of_srcPos {s t : State} {p : Nat} (hp : s.dec.cur.srcPos.toNat ≤ p) (he : p ≤ s.dec.cur.srcEnd.toNat)
    (hb : t.dec.cur.srcBegin = s.dec.cur.srcBegin) (hpos : t.dec.cur.srcPos = nat64 p)
    (hend : t.dec.cur.srcEnd = s.dec.cur.srcEnd) (hd : t.dec.cur.dstBegin = s.dec.cur.dstBegin)
    (hpo : t.dec.poisoned = s.dec.poisoned) : Advances s t :=
  ⟨hb, hend, hd, by rwa [hpos, nat64_toNat_le he], hpo⟩

/-- A block step goes forward, and it ends the stream where its status is OK, and only there. -/
def StepAdvances (s : State) : BlockStep → Prop
  | .cont u => Advances s u ∧ u.dec.endOfStream = s.dec.endOfStream
  | .stop st u => Advances s u ∧ ((st = .ok ∧ u.dec.endOfStream = true) ∨
      (st ∈ [.srcEmpty, .dstFull, .error] ∧ u.dec.endOfStream = s.dec.endOfStream))

theorem stepAdvances_stop {s : State} {st : Status} (hst : st ∈ [Status.srcEmpty, .dstFull, .error]) :
    StepAdvances s (.stop st s) :=
  ⟨.refl s, .inr ⟨hst, rfl⟩⟩

theorem betweenBlocks_advances (s : State) : StepAdvances s (betweenBlocks s) := by
  obtain ⟨F, hF, e⟩ := betweenBlocks_opening s
  rw [e s (.refl s)]
  cases hF with
  | stays st hst => exact stepAdvances_stop (by rcases hst with rfl | rfl <;> decide)
  | eos p hp he => exact ⟨.of_srcPos hp he rfl rfl rfl rfl rfl, .inl ⟨rfl, rfl⟩⟩
  | raw p n hp he => exact ⟨.of_srcPos hp he rfl rfl rfl rfl rfl, rfl⟩
  | secondary p n k hp he => exact ⟨.of_srcPos hp he rfl rfl rfl rfl rfl, rfl⟩
  | badHeader h f hs => exact ⟨.of_cur rfl rfl, .inr ⟨by decide, rfl⟩⟩
  | badLiterals h f hs l x => exact ⟨.of_cur rfl rfl, .inr ⟨by decide, rfl⟩⟩
  | badLmd h f hs l x y hl => exact ⟨.of_cur rfl rfl, .inr ⟨by decide, rfl⟩⟩
  | opened block hb h f hs q l x y hl hp he => exact ⟨.of_srcPos hp he rfl rfl rfl rfl rfl, rfl⟩

theorem rawBlock_advances (s : State) : StepAdvances s (rawBlock s) := by
  by_cases h : s.dec.rawRemaining.toNat = 0
  · rw [rawBlock_closes h]
    exact ⟨.of_cur rfl rfl, rfl⟩
  by_cases ha : s.dec.cur.srcEnd.toNat ≤ s.dec.cur.srcPos.toNat
  · rw [rawBlock_srcEmpty h ha]
    exact stepAdvances_stop (by decide)
  by_cases hr : s.dec.cur.dstEnd.toNat ≤ s.dec.cur.dstPos.toNat
  · rw [rawBlock_dstFull h (not_le.mp ha) hr]
    exact stepAdvances_stop (by decide)
  · rw [rawBlock_copies h (not_le.mp ha) (not_le.mp hr)]
    have hc : rawCount s ≤ s.dec.cur.srcEnd.toNat - s.dec.cur.srcPos.toNat := by unfold rawCount; omega
    exact ⟨.of_srcPos (p := s.dec.cur.srcPos.toNat + rawCount s) (by omega) (by omega) rfl rfl rfl rfl rfl, rfl⟩

theorem compressedBlock_advances (s : State) : StepAdvances s (compressedBlock s) := by
  by_cases h : payloadShort s
  · rw [compressedBlock_short h]
    exact stepAdvances_stop (by decide)
  rw [compressedBlock_whole h]
  have hk := lmdLoop_key s
  simp only [lmdKey, Prod.mk.injEq] at hk
  obtain ⟨-, hb, hp, he, hd, -, -, hn, heos, hpo⟩ := hk
  have ha : Advances s (lmdState (lmdLoop s)) := ⟨hb, he, hd, by rw [hp], hpo⟩
  unfold payloadShort at h
  generalize lmdLoop s = r at *
  cases r with
  | done t =>
    dsimp only [lmdState] at *
    refine ⟨ha.trans (.of_srcPos (p := t.dec.cur.srcPos.toNat + t.dec.nLmdPayloadBytes.toNat) ?_ ?_ rfl rfl rfl rfl rfl),
      heos⟩
    · omega
    · rw [hp, he, hn]
      omega
  | dstFull t => exact ⟨ha, .inr ⟨by decide, heos⟩⟩
  | error t => exact ⟨ha, .inr ⟨by decide, heos⟩⟩

theorem secondaryBlock_advances (s : State) : StepAdvances s (secondaryBlock s) := by
  by_cases h : secondaryShort s
  · rw [secondaryBlock_short h]
    exact stepAdvances_stop (by decide)
  by_cases ho : agentOver s
  · rw [secondaryBlock_over h ho]
    exact stepAdvances_stop (by decide)
  have ha : Advances s (answered s) := by
    unfold secondaryShort at h
    unfold agentOver at ho
    exact .of_srcPos (p := s.dec.cur.srcPos.toNat + (agentAnswer s).consumed) (by omega) (by omega) rfl rfl rfl rfl rfl
  obtain ⟨-, -, -, e⟩ | e | e := secondaryBlock_cases h ho
  · rw [e]
    exact ⟨ha.trans (.of_cur rfl rfl), rfl⟩
  · rw [e]
    exact ⟨ha, .inr ⟨by decide, rfl⟩⟩
  · rw [e]
    exact ⟨ha, .inr ⟨by decide, rfl⟩⟩

theorem blockStep_advances (s : State) : StepAdvances s (blockStep s) := by
  unfold blockStep
  split
  · exact betweenBlocks_advances s
  · exact rawBlock_advances s
  · exact compressedBlock_advances s
  · exact compressedBlock_advances s
  · exact secondaryBlock_advances s

/-- What a run of block steps does to the cursors, and how it ends. -/
theorem Runs.advances {s t : State} {st : Status} (h : Runs s (st, t)) : StepAdvances s (.stop st t) := by
  refine h.induct (motive := fun s => StepAdvances s (.stop st t)) (fun s hb => ?_) fun s u hb _ ih => ?_
  · have := blockStep_advances s
    rwa [hb] at this
  · have := blockStep_advances s
    rw [hb] at this
    obtain ⟨hu, he⟩ := this
    obtain ⟨ht, hst⟩ := ih
    exact ⟨hu.trans ht, he ▸ hst⟩

/-- The frame of the decoder engine, as one equation. -/
theorem eq_of_decKey {s t : State} (h : decKey t = decKey s) : t = { s with
    cur := t.cur, in0 := t.in0, in1 := t.in1, freq := t.freq, decTab := t.decTab, vdecTab := t.vdecTab, hdr := t.hdr,
    hdrSize := t.hdrSize, dec := t.dec, dst := t.dst, freeTag := t.freeTag } := by
  obtain ⟨⟩ := s
  obtain ⟨⟩ := t
  simp only [decKey, Prod.mk.injEq] at h
  obtain ⟨rfl, rfl, rfl, rfl, rfl, rfl, rfl, rfl, rfl, rfl, rfl, rfl, rfl, rfl, rfl, rfl, rfl, rfl⟩ := h
  rfl

/-- Settles O44. -/
theorem decStepEnds : Obligations.DecStepEnds := by
  intro s hr hp
  cases he : s.dec.endOfStream with
  | true =>
    refine ⟨_, exec_decStep_ended hr hp he, rfl, List.mem_cons_self, ?_, ?_, rfl, rfl, rfl, rfl, le_rfl, le_rfl, sameOutside_refl _ _ _⟩
    · exact iff_of_true rfl he
    · exact iff_of_false nofun (Bool.eq_false_iff.mp hp)
  | false =>
    obtain ⟨st, t, hrun⟩ := runs_exists s
    obtain ⟨ha, hst⟩ := hrun.advances
    obtain ⟨n, hn⟩ := hrun
    have hstore := blockLoop_stores n s hn
    have hkey := eq_of_decKey (blockLoop_key n s hn)
    have hd := decEnd_dec st t
    have hcur : (decEnd st t).dec.cur = t.dec.cur := by rw [hd]
    refine ⟨_, exec_decStep_of_runs ⟨hr, hp, he⟩ ⟨n, hn⟩, ?_, ?_, ?_, ?_, ?_⟩
    · rw [decEnd_eq, hkey]
    · rcases hst with ⟨rfl, -⟩ | ⟨h, -⟩
      · exact List.mem_cons_self
      · exact List.mem_cons_of_mem _ h
    · show st = .ok ↔ _
      rw [hd]
      rcases hst with ⟨rfl, h⟩ | ⟨h, h'⟩
      · exact iff_of_true rfl h
      · exact iff_of_false (fun hok => absurd (hok ▸ h) (by decide)) (by simp [h', he])
    · show st = .error ↔ _
      rw [hd]
      by_cases hs : st = .error
      · simp [hs]
      · simp [hs, ha.poisoned, hp]
    · rw [hcur]
      refine ⟨ha.srcBegin, ha.srcEnd, ha.dstBegin, hstore.stop, ha.srcPos, hstore.pos, fun a hout => ?_⟩
      have hpos := hstore.pos
      have hstop := hstore.stop
      rw [decEnd_outside st t a (by rw [show t.dec.cur.dstEnd = _ from hstop]; exact fun h => hout ⟨hpos.trans h.1, h.2⟩)]
      exact hstore.outside a hout

/-! ### What DEC_STEP does next (R203 to R210, R214) -/

section Ends

variable {s u : State} {st : Status} (hs : Live s)

include hs

theorem decEnds_of_runs (h : Runs s (st, u)) :
    decEnds s st { u.dec with poisoned := if st = .error then true else u.dec.poisoned } :=
  ⟨_, exec_decStep_of_runs hs h, rfl, decEnd_dec st u⟩

theorem decEnds_of_stop (h : blockStep s = .stop st u) :
    decEnds s st { u.dec with poisoned := if st = .error then true else u.dec.poisoned } :=
  decEnds_of_runs hs (runs_of_stop h)

theorem decFails_of_stop (h : blockStep s = .stop .error u) (hc : u.dec.cur = s.dec.cur) : decFails s := by
  obtain ⟨t, ht, hst, hd⟩ := decEnds_of_stop hs h
  exact ⟨t, ht, hst, by rw [hd]; rfl, by rw [hd, ← hc]⟩

/-- A block step that goes on, as an equation between two DEC_STEPs. -/
theorem decStep_of_cont (h : blockStep s = .cont u) (hu : Live u) : exec .decStep s = exec .decStep u :=
  exec_decStep_congr hs hu (runs_cont h)

end Ends

section BlockKind

variable {s : State}

theorem blockStep_between (h : s.dec.block = .noBlock) : blockStep s = betweenBlocks s := by rw [blockStep, h]

theorem blockStep_raw (h : s.dec.block = .raw) : blockStep s = rawBlock s := by rw [blockStep, h]

theorem blockStep_compressed (h : s.dec.block = .v1 ∨ s.dec.block = .v2) : blockStep s = compressedBlock s := by
  rcases h with h | h <;> rw [blockStep, h]

theorem blockStep_secondary (h : s.dec.block = .vn) : blockStep s = secondaryBlock s := by rw [blockStep, h]

theorem compressedOpen_between (h : s.dec.block = .noBlock) : compressedOpen s = false := by
  rw [compressedOpen, h]

end BlockKind

/-! #### A compressed block is opened (R206 to R208) -/

section OpensWhole

variable {h : Hdr} {f : List Nat} {hs : Nat} {s : State}

/-- The tables of a header that HDR_CHECK passes are those that BUILD_DEC and BUILD_VDEC make (R206). -/
theorem blockTables_of_mask (hmask : headerMask (loadHeader h f hs s) = 0) : blockTables h f hs s =
    { loadHeader h f hs s with
      decTab := tableOf (stacked (decSymbolEntries 1024) 0 ((loadHeader h f hs s).freqList .lit)),
      vdecTab := {
        l := tableOf (stacked (valueEntries .l) 0 ((loadHeader h f hs s).freqList .l)),
        m := tableOf (stacked (valueEntries .m) 0 ((loadHeader h f hs s).freqList .m)),
        d := tableOf (stacked (valueEntries .d) 0 ((loadHeader h f hs s).freqList .d)) } } := by
  have pass := headerMask_eq_zero.mp hmask
  have vtab (sel : VSel) (hfit : freqTotal (loadHeader h f hs s) (streamOf sel) ≤ nstates (streamOf sel)) :
      (vdecTable sel ((loadHeader h f hs s).freqList (streamOf sel))).getD [] =
        tableOf (stacked (valueEntries sel) 0 ((loadHeader h f hs s).freqList (streamOf sel))) := by
    rw [vdecTable_eq, ← freqTotal_eq, if_pos hfit, Option.getD_some]
  have dtab : decTable ((loadHeader h f hs s).freqList .lit) =
      some (tableOf (stacked (decSymbolEntries 1024) 0 ((loadHeader h f hs s).freqList .lit))) := by
    rw [decTable_eq, ← freqTotal_eq]
    exact if_pos (pass 13 (by decide))
  have ltab := vtab .l (pass 10 (by decide))
  have mtab := vtab .m (pass 11 (by decide))
  have vdtab := vtab .d (pass 12 (by decide))
  dsimp only [streamOf] at ltab mtab vdtab
  rw [blockTables, buildBlockTables, dtab, ltab, mtab, vdtab, Option.getD_some]

section Streams

variable {block : Block} {q : Nat} (hlive : Live s)
  (hstep : blockStep s = openWith block s.dec.cur.srcPos.toNat h f hs s)
  (hlim : s.dec.cur.srcPos.toNat + hs + h.nLiteralPayloadBytes.toNat + h.nLmdPayloadBytes.toNat ≤ s.dec.cur.srcEnd.toNat)

include hlive hstep hlim

theorem decStep_badHeader (hmask : headerMask (loadHeader h f hs s) ≠ 0) : ∃ t, exec .decStep s = .next t ∧
    t.status = .error ∧ t.dec = { s.dec with lits := t.dec.lits, poisoned := true } ∧
    t.hdr = (loadHeader h f hs s).hdr ∧ t.freq = (loadHeader h f hs s).freq ∧ t.hdrSize = (loadHeader h f hs s).hdrSize := by
  refine ⟨_, exec_decStep_of_runs hlive (runs_of_stop (hstep.trans (openWith_badHeader hlim hmask))), rfl,
    decEnd_dec _ _, ?_, ?_, ?_⟩ <;> rw [decEnd_eq]

variable (hmask : headerMask (loadHeader h f hs s) = 0) (hq : q = s.dec.cur.srcPos.toNat + hs + h.nLiteralPayloadBytes.toNat)

include hmask hq

/-- A stream that cannot be opened or a literal that cannot be read (R207, R208). -/
theorem decFails_of_streams (hbad : (litStream h q s).1 = false ∨ literalRun (blockTables h f hs s).decTab s.src
    (h.nLiterals.toNat / 4) (litStates h) (litStream h q s).2 = none ∨ (lmdStream h q s).1 = false) : decFails s := by
  cases hlit : (litStream h q s).1 with
  | false => exact decFails_of_stop hlive (hstep.trans (openWith_badStart hlim hmask hq hlit)) rfl
  | true =>
    obtain ⟨ok, l, x, hg⟩ := groupsRead (blockTables h f hs s).decTab s.src (h.nLiterals.toNat / 4) 0 (litStates h)
      (litStream h q s).2
    cases ok with
    | false => exact decFails_of_stop hlive (hstep.trans (openWith_badLiterals hlim hmask hq hlit hg)) rfl
    | true =>
      obtain ⟨symbols, hrun, -⟩ := hg.whole rfl
      simp only [hlit, hrun, Bool.true_eq_false, reduceCtorEq, false_or] at hbad
      exact decFails_of_stop hlive (hstep.trans (openWith_badLmd hlim hmask hq hlit hg hbad)) rfl

/-- A block whose streams are good is open. -/
theorem decStep_opened {symbols : List Nat} {x : InAcc} (hlit : (litStream h q s).1 = true)
    (hrun : literalRun (blockTables h f hs s).decTab s.src (h.nLiterals.toNat / 4) (litStates h) (litStream h q s).2 =
      some (symbols, x)) (hlmd : (lmdStream h q s).1 = true) :
    exec .decStep s = exec .decStep (blockOpened block h q (lmdStream h q s).2
      (litsLoaded h (symbols.map (BitVec.ofNat 8)) x (blockTables h f hs s))) := by
  obtain ⟨ok, l, y, hg⟩ := groupsRead (blockTables h f hs s).decTab s.src (h.nLiterals.toNat / 4) 0 (litStates h)
    (litStream h q s).2
  cases ok with
  | false =>
    rw [hg.failed rfl] at hrun
    cases hrun
  | true =>
    obtain ⟨symbols', hrun', rfl, -⟩ := hg.whole rfl
    rw [hrun'] at hrun
    cases hrun
    exact decStep_of_cont hlive (hstep.trans (openWith_opened hlim hmask hq hlit hg hlmd))
      ⟨hlive.ready, hlive.clean, hlive.more⟩

end Streams

theorem opensWhole_of_step {block : Block} (hlive : Live s) (hb : s.dec.block = .noBlock)
    (hstep : blockStep s = openWith block s.dec.cur.srcPos.toNat h f hs s)
    (hlim : s.dec.cur.srcPos.toNat + hs + h.nLiteralPayloadBytes.toNat + h.nLmdPayloadBytes.toNat ≤ s.dec.cur.srcEnd.toNat) :
    opensWhole block h f hs s := by
  have hr : ready (loadHeader h f hs s) := hlive.ready
  have hopen : compressedOpen (loadHeader h f hs s) = false := compressedOpen_between hb
  refine ⟨?_, fun hpass => ?_⟩
  · rintro ⟨b, hb17, hbad⟩
    exact decStep_badHeader hlive hstep hlim fun h0 => hbad (headerMask_eq_zero.mp h0 b hb17)
  have hmask := headerMask_eq_zero.mpr hpass
  refine ⟨_, _, _, _, ⟨exec_buildDec_fits hr (hpass 13 (by decide)), rfl⟩,
    ⟨exec_buildVdec_fits (sel := .l) hr hopen (hpass 10 (by decide)), rfl⟩,
    ⟨exec_buildVdec_fits (sel := .m) hr hopen (hpass 11 (by decide)), rfl⟩,
    ⟨exec_buildVdec_fits (sel := .d) hr hopen (hpass 12 (by decide)), rfl⟩, ?_⟩
  have htab := blockTables_of_mask hmask
  intro lit run lmd
  obtain ⟨q, hq⟩ : ∃ q, q = s.dec.cur.srcPos.toNat + hs + h.nLiteralPayloadBytes.toNat := ⟨_, rfl⟩
  have elit : lit = litStream h q s := hq ▸ rfl
  have elmd : lmd = lmdStream h q s := hq ▸ rfl
  have erun : run = literalRun (blockTables h f hs s).decTab s.src (h.nLiterals.toNat / 4) (litStates h)
      (litStream h q s).2 := by
    rw [htab, ← elit]
    rfl
  rw [elit, elmd, erun]
  refine ⟨decFails_of_streams hlive hstep hlim hmask hq, fun symbols x hlit hrun hlmd => ⟨_, ?_, fun i hi => ?_,
    decStep_opened hlive hstep hlim hmask hq hlit hrun hlmd⟩⟩
  · rw [htab, ← hq]
    rfl
  · have hsym : litAt (arrSetAll 0 s.dec.lits 0 (symbols.map (BitVec.ofNat 8))) i = BitVec.ofNat 8 symbols[i] := by
      rw [litAt_setAll_inside _ (by simpa), List.getElem_map]
    exact (congrArg BitVec.toNat hsym).trans (BitVec.toNat_ofNat _ _)

theorem opensBlock_of_step {block : Block} {head : Unpacked} (hlive : Live s) (hb : s.dec.block = .noBlock)
    (hstep : blockStep s = openHead block head s) : opensBlock block head s := by
  refine ⟨?_, ?_, ?_⟩
  · rintro rfl
    exact decEnds_of_stop hlive hstep
  · rintro rfl
    exact decEnds_of_stop hlive hstep
  · rintro h f hs rfl
    exact ⟨fun hlim => decEnds_of_stop hlive (hstep.trans (openWith_short hlim)), opensWhole_of_step hlive hb hstep⟩

end OpensWhole

/-! #### An uncompressed block -/

section RawRuns

variable {s : State}

theorem copyRaw_zero (s : State) : copyRaw 0 s = s := by
  simp [copyRaw, nat64, writeBytes, readBytes]

theorem nat64_add (x : U64) (n : Nat) : nat64 (x.toNat + n) = x + BitVec.ofNat 64 n := by
  apply BitVec.eq_of_toNat_eq
  simp [nat64]

theorem copyRaw_stored (n : Nat) (s : State) {k : Nat} (hk : k < n) :
    readByte (copyRaw n s).dst (s.dec.cur.dstPos.toNat + k) = readByte s.src (s.dec.cur.srcPos.toNat + k) := by
  have hlen : k < (readBytes s.src s.dec.cur.srcPos.toNat n).length := by rwa [readBytes_length]
  exact (readByte_writeBytes_inside _ _ _ _ hlen).trans (readBytes_getElem _ _ _ _ hlen)

theorem copyRaw_outside (n : Nat) (s : State) :
    sameOutside s.dec.cur.dstPos.toNat (s.dec.cur.dstPos.toNat + n) s.dst (copyRaw n s).dst := by
  intro a ha
  exact readByte_writeBytes_outside _ _ _ _ (by rw [readBytes_length]; omega)

theorem rawCount_src (s : State) : rawCount s ≤ s.dec.cur.srcEnd.toNat - s.dec.cur.srcPos.toNat := by
  unfold rawCount
  omega

theorem rawCount_dst (s : State) : rawCount s ≤ s.dec.cur.dstEnd.toNat - s.dec.cur.dstPos.toNat := min_le_right _ _

section Copied

variable {n : Nat} (hsrc : n ≤ s.dec.cur.srcEnd.toNat - s.dec.cur.srcPos.toNat)
  (hdst : n ≤ s.dec.cur.dstEnd.toNat - s.dec.cur.dstPos.toNat)

include hsrc in
theorem copyRaw_srcPos : (copyRaw n s).dec.cur.srcPos.toNat = s.dec.cur.srcPos.toNat + n :=
  nat64_lt (by have := s.dec.cur.srcPos.isLt; have := s.dec.cur.srcEnd.isLt; omega)

include hdst in
theorem copyRaw_dstPos : (copyRaw n s).dec.cur.dstPos.toNat = s.dec.cur.dstPos.toNat + n :=
  nat64_lt (by have := s.dec.cur.dstPos.isLt; have := s.dec.cur.dstEnd.isLt; omega)

end Copied

theorem copyRaw_remaining (n : Nat) (s : State) :
    (copyRaw n s).dec.rawRemaining.toNat = s.dec.rawRemaining.toNat - n :=
  Nat.mod_eq_of_lt (by have := s.dec.rawRemaining.isLt; omega)

variable (hb : s.dec.block = .raw)

include hb

/-- In an uncompressed block DEC_STEP goes on from where it has copied what it can. -/
theorem raw_runs (r : Status × State) : Runs s r ↔ Runs (copyRaw (rawCount s) s) r := by
  by_cases h : s.dec.rawRemaining.toNat ≠ 0 ∧ s.dec.cur.srcPos.toNat < s.dec.cur.srcEnd.toNat ∧
      s.dec.cur.dstPos.toNat < s.dec.cur.dstEnd.toNat
  · obtain ⟨hn, ha, hr⟩ := h
    exact runs_cont ((blockStep_raw hb).trans (rawBlock_copies hn ha hr)) r
  · rw [show rawCount s = 0 by unfold rawCount; omega, copyRaw_zero]

/-- The block ends once it has been copied whole. -/
theorem raw_closes (hc : rawCount s = s.dec.rawRemaining.toNat) :
    blockStep (copyRaw (rawCount s) s) = .cont (setDecBlock .noBlock (copyRaw (rawCount s) s)) := by
  rw [blockStep_raw (s := copyRaw (rawCount s) s) hb, rawBlock_closes]
  rw [copyRaw_remaining]
  omega

/-- DEC_STEP stops where the block is not whole, at the end of the source before that of the destination. -/
theorem raw_stops (hc : rawCount s < s.dec.rawRemaining.toNat) : blockStep (copyRaw (rawCount s) s) =
    .stop (if rawCount s = s.dec.cur.srcEnd.toNat - s.dec.cur.srcPos.toNat then .srcEmpty else .dstFull)
      (copyRaw (rawCount s) s) := by
  have hrem : (copyRaw (rawCount s) s).dec.rawRemaining.toNat ≠ 0 := by
    rw [copyRaw_remaining]
    omega
  have hsrc := copyRaw_srcPos (rawCount_src s)
  have hdst := copyRaw_dstPos (rawCount_dst s)
  have hle := rawCount_src s
  have hmin : rawCount s = s.dec.cur.srcEnd.toNat - s.dec.cur.srcPos.toNat ∨
      rawCount s = s.dec.cur.dstEnd.toNat - s.dec.cur.dstPos.toNat := by
    unfold rawCount at hc ⊢
    omega
  rw [blockStep_raw (s := copyRaw (rawCount s) s) hb]
  split
  · exact rawBlock_srcEmpty hrem (by rw [hsrc]; show s.dec.cur.srcEnd.toNat ≤ _; omega)
  · exact rawBlock_dstFull hrem (by rw [hsrc]; show _ < s.dec.cur.srcEnd.toNat; omega)
      (by rw [hdst]; show s.dec.cur.dstEnd.toNat ≤ _; omega)

end RawRuns

/-! #### An open compressed block -/

section OpenBlock

variable {s u : State}

/-- A triplet that has been copied whole leaves the block step to what follows. -/
theorem compressedBlock_afterTriplet (hw : ¬payloadShort s) (hu : lmdKey u = lmdKey s) (h : lmdLoop s = lmdLoop u) :
    compressedBlock s = compressedBlock u := by
  simp only [lmdKey, Prod.mk.injEq] at hu
  obtain ⟨-, -, hp, he, -, -, -, hn, -, -⟩ := hu
  have hwu : ¬payloadShort u := by rwa [payloadShort, hp, he, hn]
  rw [compressedBlock_whole hw, compressedBlock_whole hwu, h]

theorem Live.of_lmdKey (hs : Live s) (hu : lmdKey u = lmdKey s) : Live u := by
  simp only [lmdKey, decKey, Prod.mk.injEq] at hu
  obtain ⟨⟨-, -, -, -, -, -, -, -, hf, -⟩, -, -, -, -, -, -, -, he, hp⟩ := hu
  exact ⟨hf.trans hs.ready, hp.trans hs.clean, he.trans hs.more⟩

theorem nMatches_pred {n : U32} (h : n ≠ 0) : n - 1 = BitVec.ofNat 32 (n.toNat - 1) := by
  have h0 : n.toNat ≠ 0 := fun h0 => h (BitVec.eq_of_toNat_eq h0)
  apply BitVec.eq_of_toNat_eq
  have h1 : (1 : U32) ≤ n := BitVec.le_def.mpr (Nat.one_le_iff_ne_zero.mpr h0)
  rw [BitVec.toNat_sub_of_le h1, BitVec.toNat_ofNat, Nat.mod_eq_of_lt (by have := n.isLt; omega)]
  rfl

theorem runsTriplet_of_next {l m : Nat} {d : Int} (hs : Live s) (hb : s.dec.block = .v1 ∨ s.dec.block = .v2)
    (hw : ¬payloadShort s) (hd : ¬drained s) (hn : nextTriplet s = .triplet l m d u) (hu : lmdKey u = lmdKey s)
    (hc : u.dec.cur = s.dec.cur) : runsTriplet l m d s u := by
  have hstep : blockStep s = blockOfLmd (afterTriplet (runTriplet l m d u)) := by
    rw [blockStep_compressed hb, compressedBlock_whole hw, lmdLoop_triplet hd hn]
  refine ⟨fun hbad => ?_, fun hok => ⟨fun hfull => ?_, fun hdone => ?_⟩⟩
  · rw [runTriplet_bad hbad] at hstep
    exact decFails_of_stop hs hstep hc
  · rw [copyTriplet_eq, decide_eq_false_iff_not] at hfull
    rw [runTriplet_full hok (by omega)] at hstep
    exact decEnds_of_stop hs hstep
  · rw [copyTriplet_eq, decide_eq_true_iff] at hdone
    have hrun := runTriplet_fits hok hdone
    have hkey : lmdKey (copyTriplet l m d u).2 = lmdKey s := by
      rw [← hu, copyTriplet_state]
      rfl
    have hloop : lmdLoop s = lmdLoop (copyTriplet l m d u).2 := by
      rw [lmdLoop_triplet hd hn, hrun]
      rfl
    have hb' : (copyTriplet l m d u).2.dec.block = s.dec.block := by
      simp only [lmdKey, Prod.mk.injEq] at hkey
      exact hkey.2.2.2.2.2.2.1
    refine exec_decStep_congr hs (hs.of_lmdKey hkey) (runs_congr ?_)
    rw [blockStep_compressed hb, blockStep_compressed (hb'.symm ▸ hb), compressedBlock_afterTriplet hw hkey hloop]

/-- The clause of an open compressed block (R209, R210). -/
theorem runsOpenBlock_of_live (hs : Live s) (hb : s.dec.block = .v1 ∨ s.dec.block = .v2) : runsOpenBlock s := by
  refine ⟨fun h => ?_, fun h1 h2 => ?_⟩
  · have hshort : payloadShort s := by unfold payloadShort; omega
    exact decEnds_of_stop hs ((blockStep_compressed hb).trans (compressedBlock_short hshort))
  have hw : ¬payloadShort s := by unfold payloadShort; omega
  have hstep := (blockStep_compressed hb).trans (compressedBlock_whole hw)
  refine ⟨fun hpend => ?_, fun hl hm hn => ?_, fun hl hm hn => ?_⟩
  · have hp : ¬noPending s := by unfold noPending; tauto
    exact runsTriplet_of_next hs hb hw (fun hd => hp hd.1) (nextTriplet_pending hp) rfl rfl
  · rw [lmdLoop_drained ⟨⟨hl, hm⟩, hn⟩] at hstep
    exact decStep_of_cont hs hstep ⟨hs.ready, hs.clean, hs.more⟩
  · have hp : noPending s := ⟨hl, hm⟩
    have hd : ¬drained s := fun hd => hn hd.2
    have hfail {x : InAcc} {a b : U16} (e : pullTriplet s = .error (pullFailed x a b s)) : decFails s := by
      rw [lmdLoop_error hd ((nextTriplet_pull hp).trans e)] at hstep
      exact decFails_of_stop hs hstep rfl
    obtain ⟨v, hv, hlits, e⟩ | ⟨hbad, x, a, b, e⟩ := pullTriplet_cases s
    · refine ⟨fun h => absurd (hv.symm.trans h) nofun, fun v' hv' => ?_⟩
      cases hv.symm.trans hv'
      refine ⟨fun h => absurd hlits (by omega), fun _ => ?_⟩
      rw [nMatches_pred hn]
      exact runsTriplet_of_next hs hb hw hd ((nextTriplet_pull hp).trans e) rfl rfl
    · refine ⟨fun _ => hfail e, fun v hv => ⟨fun _ => hfail e, fun hlits => absurd (hbad v hv) (by omega)⟩⟩

end OpenBlock

/-! #### A secondary block -/

theorem runsSecondary_of_live {s : State} (hs : Live s) (hb : s.dec.block = .vn) : runsSecondary s := by
  have hstep := blockStep_secondary hb
  refine ⟨fun h => decEnds_of_stop hs (hstep.trans (secondaryBlock_short h)), fun hw => ?_⟩
  have hw : ¬secondaryShort s := not_lt.mpr hw
  refine ⟨fun ho => decEnds_of_stop hs (hstep.trans (secondaryBlock_over hw ho)), fun hc hp => ?_⟩
  have ho : ¬agentOver s := by unfold agentOver; exact not_or.mpr ⟨not_lt.mpr hc, not_lt.mpr hp⟩
  have hans := hstep.trans (secondaryBlock_answered hw ho)
  have hbytes : bytesAt (answered s).dst s.dec.cur.dstPos.toNat (agentBytes s) := fun i hi =>
    readByte_writeBytes_inside _ _ _ _ hi
  refine ⟨answered s, rfl, hbytes, fun a ha => ?_, fun h1 h2 h3 => ?_, fun hnot hor => ?_, fun h1 h2 h3 => ?_⟩
  · exact readByte_writeBytes_outside _ _ _ _ (by change ¬(_ ∧ _ < _ + (agentBytes s).length) at ha; omega)
  · exact decStep_of_cont hs (hans.trans (if_pos ⟨h1, h2, h3⟩)) ⟨hs.ready, hs.clean, hs.more⟩
  · exact decEnds_of_stop hs (hans.trans ((if_neg hnot).trans (if_pos hor)))
  · have hor : ¬((answered s).dec.vnPayload = 0 ∨ (answered s).dec.vnRaw = 0 ∨ (agentAnswer s).eos = true) := by
      rintro (h | h | h)
      · exact h1 h
      · exact h2 h
      · exact absurd (h.symm.trans h3) nofun
    rw [if_neg fun h => h1 h.1, if_neg hor] at hans
    refine ⟨_, exec_decStep_of_runs hs (runs_of_stop hans), rfl, decEnd_dec _ _, fun i hi => ?_⟩
    have hfit := agentBytes_fit s
    change i < (agentBytes s).length at hi
    have hpos : (answered s).dec.cur.dstPos.toNat = s.dec.cur.dstPos.toNat + (agentBytes s).length :=
      nat64_toNat_le (m := s.dec.cur.dstEnd) (by omega)
    exact (decEnd_outside _ _ _ (by rw [hpos]; omega)).trans (hbytes i hi)

/-! #### Every kind of block -/

theorem rawBlock_ends {s : State} (hs : Live s) (hb : s.dec.block = .raw) (hc : rawCount s < s.dec.rawRemaining.toNat) :
    ∃ t, exec .decStep s = .next t ∧
      t.status = (if rawCount s = s.dec.cur.srcEnd.toNat - s.dec.cur.srcPos.toNat then .srcEmpty else .dstFull) ∧
      t.dec = { (copyRaw (rawCount s) s).dec with lits := t.dec.lits } ∧
      ∀ k, k < rawCount s → readByte t.dst (s.dec.cur.dstPos.toNat + k) = readByte s.src (s.dec.cur.srcPos.toNat + k) := by
  have hrun := (raw_runs hb _).mpr (runs_of_stop (raw_stops hb hc))
  refine ⟨_, exec_decStep_of_runs hs hrun, rfl, ?_, fun k hk => ?_⟩
  · have hne : (if rawCount s = s.dec.cur.srcEnd.toNat - s.dec.cur.srcPos.toNat then Status.srcEmpty else .dstFull) ≠ .error := by
      split <;> decide
    refine (decEnd_dec _ _).trans ?_
    rw [if_neg hne]
  · rw [decEnd_outside _ _ _ (by rw [copyRaw_dstPos (rawCount_dst s)]; omega), copyRaw_stored _ _ hk]

theorem copyRaw_dec (n : Nat) (s : State) : (copyRaw n s).dec = { s.dec with
    rawRemaining := BitVec.ofNat 32 (s.dec.rawRemaining.toNat - n),
    cur := { s.dec.cur with srcPos := s.dec.cur.srcPos + BitVec.ofNat 64 n,
                            dstPos := s.dec.cur.dstPos + BitVec.ofNat 64 n } } := by
  rw [← nat64_add, ← nat64_add]
  rfl

/-- Settles O45. -/
theorem decStepBlocks : Obligations.DecStepBlocks := by
  intro s hr hp he
  have hs : Live s := ⟨hr, hp, he⟩
  refine ⟨fun hb => ?_, fun hb => ?_, runsOpenBlock_of_live hs, runsSecondary_of_live hs⟩
  · have hstep := blockStep_between hb
    refine ⟨fun h => decEnds_of_stop hs (hstep.trans (betweenBlocks_short h)), fun h4 => ⟨fun hm => ?_, fun hm => ?_, fun hm => ?_,
      fun hm => ?_, fun hm => ?_, fun hm => ?_⟩⟩
    · exact decEnds_of_stop hs (hstep.trans (betweenBlocks_eos h4 hm))
    · exact decEnds_of_stop hs (hstep.trans (betweenBlocks_unknown h4 hm))
    · have hraw := hstep.trans (betweenBlocks_raw h4 hm)
      refine ⟨fun h => ?_, fun h => ?_⟩
      · rw [if_pos h] at hraw
        exact decEnds_of_stop hs hraw
      · rw [if_neg (not_lt.mpr h)] at hraw
        exact decStep_of_cont hs hraw ⟨hr, hp, he⟩
    · have hvn := hstep.trans (betweenBlocks_vn h4 hm)
      refine ⟨fun h => ?_, fun h => ?_⟩
      · rw [if_pos h] at hvn
        exact decEnds_of_stop hs hvn
      · rw [if_neg (not_lt.mpr h)] at hvn
        exact decStep_of_cont hs hvn ⟨hr, hp, he⟩
    · exact opensBlock_of_step hs hb (hstep.trans ((betweenBlocks_v1 h4 hm).trans (openV1_eq s)))
    · exact opensBlock_of_step hs hb (hstep.trans ((betweenBlocks_v2 h4 hm).trans (openV2_eq s)))
  · intro n a r c after
    have hc : c = rawCount s := (min_assoc _ _ _).symm
    have hafter : after = (copyRaw (rawCount s) s).dec := by rw [copyRaw_dec, ← hc]
    rw [hc, hafter]
    refine ⟨rawBlock_ends hs hb, fun hn => ⟨setDecBlock .noBlock (copyRaw (rawCount s) s), rfl, fun k hk => ?_, ?_, ?_⟩⟩
    · exact copyRaw_stored _ _ (hn ▸ hk)
    · have hout := copyRaw_outside (rawCount s) s
      rw [hn] at hout ⊢
      exact hout
    · exact exec_decStep_congr hs ⟨hr, hp, he⟩ fun q => (raw_runs hb q).trans (runs_cont (raw_closes hb hn) q)

/-! ### A decode with another end of the destination (R213, R217) -/

/-- What may differ where a decode is resumed: the end of the destination, the literals, and what DEC_STEP never reads. -/
structure Patch where
  cur : Cursors
  res0 : U64
  res1 : U64
  status : Status
  freeTag : Nat
  dstEnd : U64
  lits : Arr U8

/-- The state with the pieces of a patch. -/
def Patch.apply (P : Patch) (s : State) : State :=
  { s with
    cur := P.cur, res0 := P.res0, res1 := P.res1, status := P.status, freeTag := P.freeTag,
    dec := { s.dec with lits := P.lits, cur := { s.dec.cur with dstEnd := P.dstEnd } } }

/-- A patch that does not lower the end of the destination and has the literals of the block. -/
structure Patch.Fits (P : Patch) (s : State) : Prop where
  room : s.dec.cur.dstEnd.toNat ≤ P.dstEnd.toNat
  lits : ∀ i, i < s.dec.nLits.toNat → litAt P.lits i = litAt s.dec.lits i

section CopyComm

variable {loop : Nat → State → State} {lit : Nat} {byte : State → U8}

/-- A copy commutes with a change that leaves alone what it reads and stores. -/
theorem CopyLoop.comm (hc : CopyLoop loop lit byte) (f : State → State)
    (hcopied : ∀ m p k s, f (copied m p k s) = copied m p k (f s)) (hdst : ∀ s, (f s).dst = s.dst)
    (hpos : ∀ s, (f s).dec.cur.dstPos = s.dec.cur.dstPos) {n : Nat} {s : State}
    (hbyte : ∀ i, i < n → byte (f (loop i s)) = byte (loop i s)) : loop n (f s) = f (loop n s) := by
  induction n with
  | zero => rw [hc.zero, hc.zero]
  | succ n ih =>
    rw [hc.add, ih fun i hi => hbyte i (by omega), hc.one, hc.add n 1 s, hc.one, hcopied, hdst, hpos, hbyte n (by omega)]

variable {a b n : Nat} {d : Int} {s : State}

theorem copyLiterals_savePending : copyLiterals n (savePending a b d s) = savePending a b d (copyLiterals n s) :=
  copyLiterals_loop.comm (savePending a b d) (fun _ _ _ _ => rfl) (fun _ => rfl) (fun _ => rfl) fun _ _ => rfl

theorem copyMatch_savePending {k : Nat} : copyMatch k n (savePending a b d s) = savePending a b d (copyMatch k n s) :=
  (copyMatch_loop k).comm (savePending a b d) (fun _ _ _ _ => rfl) (fun _ => rfl) (fun _ => rfl) fun _ _ => rfl

variable {P : Patch}

theorem copyMatch_apply {k : Nat} : copyMatch k n (P.apply s) = P.apply (copyMatch k n s) :=
  (copyMatch_loop k).comm P.apply (fun _ _ _ _ => rfl) (fun _ => rfl) (fun _ => rfl) fun _ _ => rfl

theorem copyLiterals_apply (hP : P.Fits s) (hroom : n ≤ dstRoom s) (hn : s.dec.litPos.toNat + n ≤ s.dec.nLits.toNat) :
    copyLiterals n (P.apply s) = P.apply (copyLiterals n s) := by
  refine copyLiterals_loop.comm P.apply (fun _ _ _ _ => rfl) (fun _ => rfl) (fun _ => rfl) fun i hi => ?_
  have hlt := s.dec.nLits.isLt
  have hpos : (BitVec.ofNat 32 (s.dec.litPos.toNat + i * 1)).toNat = s.dec.litPos.toNat + i :=
    (Nat.mul_one i).symm ▸ Nat.mod_eq_of_lt (by omega)
  rw [copyLiterals_loop.state (n := i) (s := s) (by omega)]
  exact (congrArg (litAt P.lits) hpos).trans
    ((hP.lits (s.dec.litPos.toNat + i) (by omega)).trans (congrArg (litAt s.dec.lits) hpos).symm)

end CopyComm

/-! #### A triplet in a larger destination -/

/-- A triplet that may be copied: its literals are there and its parts can be saved (R210, R211). -/
structure TripletOk (l m : Nat) (d : Int) (s : State) : Prop where
  room : s.dec.cur.dstPos.toNat ≤ s.dec.cur.dstEnd.toNat
  lits : s.dec.litPos.toNat + l ≤ s.dec.nLits.toNat
  matchLt : m < 2 ^ 32
  distance : (BitVec.ofInt 32 d).toInt = d

section Triplet

variable {P : Patch} {l m : Nat} {d : Int} {s : State}

theorem dstRoom_apply (hP : P.Fits s) : dstRoom s ≤ dstRoom (P.apply s) :=
  Nat.sub_le_sub_right hP.room _

theorem dstRoom_apply_same (hP : P.dstEnd = s.dec.cur.dstEnd) : dstRoom (P.apply s) = dstRoom s := by
  unfold dstRoom
  rw [← hP]
  rfl

/-- Where the same parts fit, the copy is the same. -/
theorem copyTriplet_apply (hP : P.Fits s) (hok : TripletOk l m d s) (hl : litsFit l (P.apply s) = litsFit l s)
    (hm : matchFit l m (P.apply s) = matchFit l m s) :
    (copyTriplet l m d (P.apply s)).2 = P.apply (copyTriplet l m d s).2 := by
  have hle : litsFit l s ≤ l := min_le_left _ _
  have hlits := hok.lits
  rw [copyTriplet_eq, copyTriplet_eq, hl, hm, copyLiterals_apply hP (litsFit_le l s) (by omega), copyMatch_apply]
  rfl

theorem copyTriplet_apply_fits (hP : P.Fits s) (hok : TripletOk l m d s) (hfit : l + m ≤ dstRoom s) :
    (copyTriplet l m d (P.apply s)).2 = P.apply (copyTriplet l m d s).2 := by
  have hroom := dstRoom_apply hP
  refine copyTriplet_apply hP hok ?_ ?_
  · unfold litsFit
    omega
  · unfold matchFit litsFit
    omega

theorem copyTriplet_apply_same (hP : P.Fits s) (hok : TripletOk l m d s) (he : P.dstEnd = s.dec.cur.dstEnd) :
    (copyTriplet l m d (P.apply s)).2 = P.apply (copyTriplet l m d s).2 := by
  refine copyTriplet_apply hP hok ?_ ?_
  · rw [litsFit, litsFit, dstRoom_apply_same he]
  · rw [matchFit, matchFit, litsFit, litsFit, dstRoom_apply_same he]

/-- The copy that a short room cut off, taken up in a larger one, ends where the copy in the larger room does. -/
theorem copyTriplet_resumed (hP : P.Fits s) (hok : TripletOk l m d s) (hfull : dstRoom s < l + m) :
    copyTriplet (l - litsFit l s) (m - matchFit l m s) d (P.apply (copyTriplet l m d s).2) =
      copyTriplet l m d (P.apply s) := by
  have hroom := dstRoom_apply hP
  have hlits := hok.lits
  have hle : litsFit l s ≤ l := min_le_left _ _
  have hmle : matchFit l m s ≤ m := min_le_left _ _
  have hsum : litsFit l s + matchFit l m s = dstRoom s := by
    unfold matchFit litsFit
    omega
  have hcut : P.apply (copyTriplet l m d s).2 = savePending (l - litsFit l s) (m - matchFit l m s) d
      (copyMatch d.toNat (matchFit l m s) (copyLiterals (litsFit l s) (P.apply s))) := by
    rw [copyTriplet_eq, copyLiterals_apply hP (litsFit_le l s) (by omega), copyMatch_apply]
    rfl
  have hleft : dstRoom (P.apply (copyTriplet l m d s).2) = dstRoom (P.apply s) - dstRoom s := by
    rw [hcut]
    show dstRoom (copyMatch _ _ _) = _
    have h1 := copyLiterals_loop.room (n := litsFit l s) (s := P.apply s) (by omega)
    rw [(copyMatch_loop _).room (by rw [h1]; omega), h1, ← hsum]
    omega
  rw [copyTriplet_eq, copyTriplet_eq l m d (P.apply s)]
  refine Prod.ext ?_ ?_
  · rw [hleft]
    exact decide_eq_decide.mpr (by omega)
  · generalize hx : P.apply s = x at *
    have hL : litsFit (l - litsFit l s) (P.apply (copyTriplet l m d s).2) + litsFit l s = litsFit l x := by
      unfold litsFit at *
      rw [hleft]
      omega
    have hM : matchFit (l - litsFit l s) (m - matchFit l m s) (P.apply (copyTriplet l m d s).2) + matchFit l m s =
        matchFit l m x := by
      unfold matchFit litsFit at *
      rw [hleft]
      omega
    generalize litsFit (l - litsFit l s) _ = L at *
    generalize matchFit (l - litsFit l s) _ _ = M at *
    rw [hcut]
    have hcopy : copyMatch d.toNat M (copyLiterals L (copyMatch d.toNat (matchFit l m s) (copyLiterals (litsFit l s) x))) =
        copyMatch d.toNat (matchFit l m x) (copyLiterals (litsFit l x) x) := by
      by_cases h0 : matchFit l m s = 0
      · rw [h0, (copyMatch_loop _).zero, ← copyLiterals_loop.add, show litsFit l s + L = litsFit l x by omega,
          show M = matchFit l m x by omega]
      · have hL0 : L = 0 := by
          unfold matchFit litsFit at *
          omega
        rw [hL0, copyLiterals_loop.zero, ← (copyMatch_loop _).add, show matchFit l m s + M = matchFit l m x by omega,
          show litsFit l s = litsFit l x by omega]
    rw [copyLiterals_savePending, copyMatch_savePending, hcopy, show l - litsFit l s - L = l - litsFit l x by omega,
      show m - matchFit l m s - M = m - matchFit l m x by omega]
    rfl

end Triplet

/-! ### The values of a block (30_encoding.md R104) -/

/-- Every entry of a value table gives values below 2^20. -/
def tableBelow (tab : Sparse VEntry) : Prop :=
  ∀ j e, sparseFind tab j = some e → 0 ≤ e.valueBase.toInt ∧ e.valueBase.toInt + 2 ^ e.valueBits.toNat ≤ 2 ^ 20

theorem mem_stacked {α : Type} {entries : Nat → Nat → List α} {e : α} {i : Nat} {l : List Nat}
    (h : e ∈ stacked entries i l) : ∃ k f, e ∈ entries k f := by
  induction l generalizing i with
  | nil => cases h
  | cons f r ih =>
    rw [stacked, List.mem_append] at h
    rcases h with h | h
    · exact ⟨i, f, h⟩
    · exact ih h

/-- The base and the bits of a value code (R104); beyond the codes both are 0. -/
theorem valueCode_below (sel : VSel) (i : Nat) :
    (vbits sel).getD i 0 < 256 ∧ (vbase sel).getD i 0 + 2 ^ (vbits sel).getD i 0 ≤ 2 ^ 20 := by
  by_cases h : i < 64
  · have all : ∀ sel, ∀ i < 64, (vbits sel).getD i 0 < 256 ∧ (vbase sel).getD i 0 + 2 ^ (vbits sel).getD i 0 ≤ 2 ^ 20 := by
      intro sel
      cases sel <;> decide
    exact all sel i h
  · have hlen : (vbits sel).length ≤ i ∧ (vbase sel).length ≤ i := by
      have : (vbits sel).length ≤ 64 ∧ (vbase sel).length ≤ 64 := by cases sel <;> decide
      omega
    rw [List.getD_eq_default _ _ hlen.1, List.getD_eq_default _ _ hlen.2]
    decide

theorem vdecTable_below (sel : VSel) (l : List Nat) : tableBelow ((vdecTable sel l).getD []) := by
  intro j e h
  rw [vdecTable_eq] at h
  split at h
  · rw [Option.getD_some, sparseFind_tableOf] at h
    obtain ⟨i, f, hmem⟩ := mem_stacked (List.mem_of_getElem? h)
    obtain ⟨k, -, rfl⟩ := List.mem_map.mp hmem
    obtain ⟨hbits, hbase⟩ := valueCode_below sel i
    have hpos := Nat.two_pow_pos ((vbits sel).getD i 0)
    have eb : (BitVec.ofNat 8 ((vbits sel).getD i 0)).toNat = (vbits sel).getD i 0 := Nat.mod_eq_of_lt hbits
    have ev : (BitVec.ofNat 32 ((vbase sel).getD i 0)).toInt = (vbase sel).getD i 0 := by
      have hn : (BitVec.ofNat 32 ((vbase sel).getD i 0)).toNat = (vbase sel).getD i 0 := Nat.mod_eq_of_lt (by omega)
      rw [BitVec.toInt_eq_toNat_of_lt (by omega), hn]
    dsimp only
    rw [eb, ev]
    exact ⟨by omega, by exact_mod_cast hbase⟩
  · cases h

theorem fseVdecode_below {tab : Sparse VEntry} {x y : InAcc} {i : Nat} {n v : Int} (ht : tableBelow tab)
    (h : fseVdecode tab x i = .ok (n, v, y)) : 0 ≤ v ∧ v < 2 ^ 20 := by
  cases hf : sparseFind tab i with
  | none => rw [fseVdecode_empty hf] at h; cases h
  | some e =>
    obtain ⟨h0, h20⟩ := ht i e hf
    rw [fseVdecode_some hf] at h
    cases hp : inPull x e.totalBits.toNat with
    | error _ => rw [hp] at h; cases h
    | ok r =>
      rw [hp] at h
      cases h
      have hlt : r.1 % 2 ^ e.valueBits.toNat < 2 ^ e.valueBits.toNat := Nat.mod_lt _ (Nat.two_pow_pos _)
      have hlt' : ((r.1 % 2 ^ e.valueBits.toNat : Nat) : Int) < 2 ^ e.valueBits.toNat := by exact_mod_cast hlt
      omega

/-- What a pull reads is below 2^20. -/
theorem lmdPull_below {s : State} {v : LmdPull} (ht : ∀ sel, tableBelow (s.vdecTab.get sel)) (h : lmdPull s = some v) :
    (0 ≤ v.l ∧ v.l < 2 ^ 20) ∧ (0 ≤ v.m ∧ v.m < 2 ^ 20) ∧ (0 ≤ v.d ∧ v.d < 2 ^ 20) := by
  unfold lmdPull at h
  cases hF : inFlush s.src { s.in1 with lo := s.dec.lmdLo } with
  | none => rw [hF] at h; cases h
  | some x0 =>
    cases hL : fseVdecode s.vdecTab.l x0 s.dec.lState.toNat with
    | error _ => simp only [hF, hL] at h; cases h
    | ok rl =>
      cases hM : fseVdecode s.vdecTab.m rl.2.2 s.dec.mState.toNat with
      | error _ => simp only [hF, hL, hM] at h; cases h
      | ok rm =>
        cases hD : fseVdecode s.vdecTab.d rm.2.2 s.dec.dState.toNat with
        | error _ => simp only [hF, hL, hM, hD] at h; cases h
        | ok rd =>
          simp only [hF, hL, hM, hD, Option.some.injEq] at h
          subst h
          exact ⟨fseVdecode_below (ht .l) hL, fseVdecode_below (ht .m) hM, fseVdecode_below (ht .d) hD⟩

/-! ### LMD_LOOP can always be resumed -/

/-- What `resumable` asks of an open compressed block. -/
structure LmdReady (s : State) : Prop where
  room : s.dec.cur.dstPos.toNat ≤ s.dec.cur.dstEnd.toNat
  lits : s.dec.litPos.toNat + s.dec.pendL.toNat ≤ s.dec.nLits.toNat
  tables : ∀ sel, tableBelow (s.vdecTab.get sel)

section LmdReady

variable {s u : State} {l m : Nat} {d : Int}

/-- The triplet that comes next may be copied. -/
theorem nextTriplet_ok (hs : LmdReady s) (h : nextTriplet s = .triplet l m d u) : LmdReady u ∧ TripletOk l m d u := by
  obtain ⟨-, rfl, rfl, rfl, rfl⟩ | ⟨hp, v, hv, hlits, rfl, rfl, rfl, rfl⟩ := nextTriplet_cases h
  · refine ⟨hs, hs.room, hs.lits, u.dec.pendM.isLt, ?_⟩
    rw [BitVec.ofInt_toInt]
  · obtain ⟨⟨hl0, -⟩, ⟨hm0, hm⟩, hd0, hd⟩ := lmdPull_below hs.tables hv
    refine ⟨⟨hs.room, hs.lits, hs.tables⟩, hs.room, ?_, by omega, ?_⟩
    · show s.dec.litPos.toNat + v.l.toNat ≤ s.dec.nLits.toNat
      omega
    · unfold pulledD
      split
      · rw [BitVec.toInt_ofInt, Int.bmod_eq_of_le (by omega) (by omega)]
      · rw [BitVec.ofInt_toInt]

theorem copyTriplet_ready (hu : LmdReady u) (hok : TripletOk l m d u) : LmdReady (copyTriplet l m d u).2 := by
  have hl := litsFit_le l u
  have hm := matchFit_le l m u
  have hle : litsFit l u ≤ l := min_le_left _ _
  have hlits := hok.lits
  have hlt := u.dec.nLits.isLt
  have hroom := hok.room
  rw [copyTriplet_state, Nat.add_assoc]
  refine ⟨?_, ?_, hu.tables⟩
  · show (nat64 (u.dec.cur.dstPos.toNat + (litsFit l u + matchFit l m u))).toNat ≤ u.dec.cur.dstEnd.toNat
    rw [nat64_lt (dstPos_add_lt (by omega))]
    unfold dstRoom at hl hm
    omega
  · show (BitVec.ofNat 32 (u.dec.litPos.toNat + litsFit l u)).toNat + (BitVec.ofNat 32 (l - litsFit l u)).toNat ≤ _
    rw [BitVec.toNat_ofNat, BitVec.toNat_ofNat, Nat.mod_eq_of_lt (by omega), Nat.mod_eq_of_lt (by omega)]
    show _ ≤ u.dec.nLits.toNat
    omega

end LmdReady

/-- Induction along LMD_LOOP from a block that can be resumed, by how it ends or goes on. -/
theorem lmdLoop_ends {motive : State → LmdStep → Prop} (done : ∀ s, drained s → motive s (.done s))
    (bad : ∀ s u, ¬drained s → nextTriplet s = .error u → motive s (.error u))
    (far : ∀ s l m d u, ¬drained s → nextTriplet s = .triplet l m d u → ¬distanceOk u l d → motive s (.error u))
    (full : ∀ s l m d u, ¬drained s → nextTriplet s = .triplet l m d u → TripletOk l m d u → distanceOk u l d →
      dstRoom u < l + m → motive s (.dstFull (copyTriplet l m d u).2))
    (next : ∀ s l m d u r, ¬drained s → nextTriplet s = .triplet l m d u → TripletOk l m d u → distanceOk u l d →
      l + m ≤ dstRoom u → motive (copyTriplet l m d u).2 r → motive s r) {s : State} (hs : LmdReady s) :
    motive s (lmdLoop s) := by
  revert hs
  refine lmdLoop_induct (motive := fun s => LmdReady s → motive s (lmdLoop s)) (fun s ih hs => ?_) s
  by_cases hd : drained s
  · rw [lmdLoop_drained hd]
    exact done s hd
  cases hn : nextTriplet s with
  | error u =>
    rw [lmdLoop_error hd hn]
    exact bad s u hd hn
  | triplet l m d u =>
    obtain ⟨hu, hok⟩ := nextTriplet_ok hs hn
    rw [lmdLoop_triplet hd hn]
    obtain ⟨hfar, e⟩ | ⟨hdist, hfit, e⟩ | ⟨hdist, hfull, e⟩ := runTriplet_cases l m d u
    · rw [e]
      exact far s l m d u hd hn hfar
    · rw [e]
      exact next s l m d u _ hd hn hok hdist hfit (ih l m d u _ hd hn e (copyTriplet_ready hu hok))
    · rw [e]
      exact full s l m d u hd hn hok hdist hfull

theorem lmdLoop_ready {s : State} (hs : LmdReady s) : LmdReady (lmdState (lmdLoop s)) := by
  refine lmdLoop_ends (motive := fun s r => LmdReady s → LmdReady (lmdState r)) (fun s _ hs => hs) ?_ ?_ ?_ ?_ hs hs
  · intro s u _ hn hs
    obtain ⟨x, a, b, rfl⟩ := nextTriplet_error hn
    exact ⟨hs.room, hs.lits, hs.tables⟩
  · exact fun s l m d u _ hn _ hs => (nextTriplet_ok hs hn).1
  · exact fun s l m d u _ hn hok _ _ hs => copyTriplet_ready (nextTriplet_ok hs hn).1 hok
  · exact fun s l m d u r _ hn hok _ _ ih hs => ih (copyTriplet_ready (nextTriplet_ok hs hn).1 hok)

/-! ### LMD_LOOP in a larger destination (R213) -/

section Apply

variable {P : Patch} {s u : State}

/-- The pull with its state patched. -/
def Patch.pulled (P : Patch) : Pulled → Pulled
  | .triplet l m d u => .triplet l m d (P.apply u)
  | .error u => .error (P.apply u)

theorem pullTriplet_apply (P : Patch) (s : State) : pullTriplet (P.apply s) = P.pulled (pullTriplet s) := by
  unfold pullTriplet pullValue Patch.apply
  dsimp only [Triple.get]
  cases inFlush s.src { s.in1 with lo := s.dec.lmdLo } with
  | none => rfl
  | some x0 =>
    dsimp only
    cases fseVdecode s.vdecTab.l x0 s.dec.lState.toNat with
    | error _ => rfl
    | ok rl =>
      dsimp only
      by_cases hl : (s.dec.nLits.toNat : Int) < s.dec.litPos.toNat + rl.2.1
      · rw [if_pos hl, if_pos hl]
        rfl
      · rw [if_neg hl, if_neg hl]
        cases fseVdecode s.vdecTab.m rl.2.2 s.dec.mState.toNat with
        | error _ => rfl
        | ok rm =>
          dsimp only
          cases fseVdecode s.vdecTab.d rm.2.2 s.dec.dState.toNat <;> rfl

theorem nextTriplet_apply (P : Patch) (s : State) : nextTriplet (P.apply s) = P.pulled (nextTriplet s) := by
  by_cases hp : noPending s
  · rw [nextTriplet_pull hp, nextTriplet_pull (s := P.apply s) hp, pullTriplet_apply]
  · rw [nextTriplet_pending hp, nextTriplet_pending (s := P.apply s) hp]
    rfl

theorem Patch.Fits.copyTriplet {l m : Nat} {d : Int} (hP : P.Fits s) : P.Fits (copyTriplet l m d s).2 := by
  rw [copyTriplet_state]
  exact ⟨hP.room, hP.lits⟩

theorem Patch.Fits.nextTriplet {l m : Nat} {d : Int} (hP : P.Fits s) (h : nextTriplet s = .triplet l m d u) : P.Fits u := by
  obtain ⟨-, -, -, -, rfl⟩ | ⟨-, v, -, -, -, -, -, rfl⟩ := nextTriplet_cases h
  · exact hP
  · exact ⟨hP.room, hP.lits⟩

theorem nextTriplet_dstEnd {l m : Nat} {d : Int} (h : nextTriplet s = .triplet l m d u) :
    u.dec.cur.dstEnd = s.dec.cur.dstEnd := by
  obtain ⟨-, -, -, -, rfl⟩ | ⟨-, v, -, -, -, -, -, rfl⟩ := nextTriplet_cases h <;> rfl

section CutOff

variable {l m : Nat} {d : Int} (hok : TripletOk l m d u)

include hok

theorem copyTriplet_pendL : (copyTriplet l m d u).2.dec.pendL.toNat = l - litsFit l u := by
  have hlits := hok.lits
  have hlt := u.dec.nLits.isLt
  rw [copyTriplet_state]
  exact Nat.mod_eq_of_lt (by omega)

theorem copyTriplet_pendM : (copyTriplet l m d u).2.dec.pendM.toNat = m - matchFit l m u := by
  have hlt := hok.matchLt
  rw [copyTriplet_state]
  exact Nat.mod_eq_of_lt (by omega)

theorem copyTriplet_cutOff (hfull : dstRoom u < l + m) : ¬noPending (copyTriplet l m d u).2 := by
  rintro ⟨h1, h2⟩
  have h1 : l - litsFit l u = 0 := by rw [← copyTriplet_pendL hok, h1]; rfl
  have h2 : m - matchFit l m u = 0 := by rw [← copyTriplet_pendM hok, h2]; rfl
  unfold matchFit litsFit at h2
  unfold litsFit at h1
  omega

/-- A triplet that the room cuts off stays pending. -/
theorem nextTriplet_cutOff (hfull : dstRoom u < l + m) : nextTriplet (copyTriplet l m d u).2 =
    .triplet (l - litsFit l u) (m - matchFit l m u) d (copyTriplet l m d u).2 := by
  have hD : (copyTriplet l m d u).2.dec.curD.toInt = d := by
    rw [copyTriplet_state]
    exact hok.distance
  rw [nextTriplet_pending (copyTriplet_cutOff hok hfull), copyTriplet_pendL hok, copyTriplet_pendM hok, hD]

end CutOff

theorem copyTriplet_dstEnd {l m : Nat} {d : Int} : (copyTriplet l m d u).2.dec.cur.dstEnd = u.dec.cur.dstEnd := by
  rw [copyTriplet_state]
  rfl

theorem copyTriplet_dstPos {l m : Nat} {d : Int} :
    (copyTriplet l m d u).2.dec.cur.dstPos.toNat = u.dec.cur.dstPos.toNat + litsFit l u + matchFit l m u := by
  have hl := litsFit_le l u
  have hm := matchFit_le l m u
  rw [copyTriplet_state, Nat.add_assoc]
  exact nat64_lt (dstPos_add_lt (by omega))

/-- A distance that is good for a triplet is good for what is left of it. -/
theorem distanceOk_resumed {l m : Nat} {d : Int} (h : distanceOk u l d) :
    distanceOk (P.apply (copyTriplet l m d u).2) (l - litsFit l u) d := by
  obtain ⟨h0, hd⟩ := h
  have hle : litsFit l u ≤ l := min_le_left _ _
  have hpos := copyTriplet_dstPos (u := u) (l := l) (m := m) (d := d)
  have hbegin : (copyTriplet l m d u).2.dec.cur.dstBegin = u.dec.cur.dstBegin := by
    rw [copyTriplet_state]
    rfl
  refine ⟨h0, ?_⟩
  show d ≤ ((copyTriplet l m d u).2.dec.cur.dstPos.toNat + (l - litsFit l u : Nat) : Int) -
    (copyTriplet l m d u).2.dec.cur.dstBegin.toNat
  rw [hpos, hbegin]
  omega

theorem runTriplet_flag {l m : Nat} {d : Int} (h : distanceOk u l d) : runTriplet l m d u =
    if (copyTriplet l m d u).1 then .done (copyTriplet l m d u).2 else .dstFull (copyTriplet l m d u).2 := by
  by_cases hfit : l + m ≤ dstRoom u
  · rw [runTriplet_fits h hfit, copyTriplet_eq, decide_eq_true hfit]
    rfl
  · rw [runTriplet_full h (by omega), copyTriplet_eq, decide_eq_false hfit]
    rfl

/-- What LMD_LOOP does with a patch, given how it ends without. -/
def LmdCarried (P : Patch) (s : State) : LmdStep → Prop
  | .done t => P.Fits t ∧ lmdLoop (P.apply s) = .done (P.apply t)
  | .error t => P.Fits t ∧ lmdLoop (P.apply s) = .error (P.apply t)
  | .dstFull t => P.Fits t ∧ t.dec.cur.dstEnd.toNat ≤ t.dec.cur.dstPos.toNat ∧
      (P.dstEnd = s.dec.cur.dstEnd → lmdLoop (P.apply s) = .dstFull (P.apply t)) ∧
      lmdLoop (P.apply s) = lmdLoop (P.apply t)

theorem LmdCarried.of_eq {r : LmdStep} (h : LmdCarried P u r) (hloop : lmdLoop (P.apply s) = lmdLoop (P.apply u))
    (hend : u.dec.cur.dstEnd = s.dec.cur.dstEnd) : LmdCarried P s r := by
  cases r <;> simpa only [LmdCarried, hloop, hend] using h

theorem lmdLoop_apply_triplet {l m : Nat} {d : Int} (hd : ¬drained s) (hn : nextTriplet s = .triplet l m d u) :
    lmdLoop (P.apply s) = afterTriplet (runTriplet l m d (P.apply u)) :=
  lmdLoop_triplet (s := P.apply s) hd (by rw [nextTriplet_apply, hn]; rfl)

theorem lmdLoop_carries (hs : LmdReady s) (hP : P.Fits s) : LmdCarried P s (lmdLoop s) := by
  refine lmdLoop_ends (motive := fun s r => P.Fits s → LmdCarried P s r) ?_ ?_ ?_ ?_ ?_ hs hP
  · exact fun s hd hP => ⟨hP, lmdLoop_drained (s := P.apply s) hd⟩
  · intro s u hd hn hP
    obtain ⟨x, a, b, rfl⟩ := nextTriplet_error hn
    exact ⟨⟨hP.room, hP.lits⟩, lmdLoop_error (s := P.apply s) hd (by rw [nextTriplet_apply, hn]; rfl)⟩
  · intro s l m d u hd hn hfar hP
    refine ⟨hP.nextTriplet hn, ?_⟩
    rw [lmdLoop_apply_triplet hd hn, runTriplet_bad (s := P.apply u) hfar]
    rfl
  · intro s l m d u hd hn hok hdist hfull hP
    have hPu := hP.nextTriplet hn
    have hroom := hok.room
    refine ⟨hPu.copyTriplet, ?_, fun he => ?_, ?_⟩
    · rw [copyTriplet_dstEnd, copyTriplet_dstPos]
      unfold matchFit litsFit dstRoom at *
      omega
    · have he' : P.dstEnd = u.dec.cur.dstEnd := he.trans (nextTriplet_dstEnd hn).symm
      rw [lmdLoop_apply_triplet hd hn, runTriplet_full (s := P.apply u) hdist (by rwa [dstRoom_apply_same he']),
        copyTriplet_apply_same hPu hok he']
      rfl
    · have hd' : ¬drained (copyTriplet l m d u).2 := fun h => copyTriplet_cutOff hok hfull h.1
      rw [lmdLoop_apply_triplet hd hn, lmdLoop_apply_triplet hd' (nextTriplet_cutOff hok hfull), runTriplet_flag (u := P.apply u) hdist,
        runTriplet_flag (distanceOk_resumed hdist), copyTriplet_resumed hPu hok hfull]
  · intro s l m d u r hd hn hok hdist hfit ih hP
    have hPu := hP.nextTriplet hn
    refine (ih hPu.copyTriplet).of_eq ?_ ?_
    · rw [lmdLoop_apply_triplet hd hn, runTriplet_fits (s := P.apply u) hdist (hfit.trans (dstRoom_apply hPu)),
        copyTriplet_apply_fits hPu hok hfit]
      rfl
    · exact copyTriplet_dstEnd.trans (nextTriplet_dstEnd hn)

end Apply

/-! ### Every DEC_STEP can be resumed (R213) -/

section Resumable

variable {s t : State}

theorem LmdReady.resumable (h : LmdReady s) : resumable s := ⟨h.room, fun _ => ⟨h.lits, h.tables⟩⟩

theorem lmdReady_of_resumable (h : resumable s) (ho : compressedOpen s = true) : LmdReady s :=
  ⟨h.1, (h.2 ho).1, (h.2 ho).2⟩

theorem resumable_of_closed (hroom : t.dec.cur.dstPos.toNat ≤ t.dec.cur.dstEnd.toNat) (hc : compressedOpen t = false) :
    resumable t := ⟨hroom, fun h => absurd (hc.symm.trans h) nofun⟩

theorem compressedOpen_of_block (h : s.dec.block = .v1 ∨ s.dec.block = .v2) : compressedOpen s = true := by
  rcases h with h | h <;> rw [compressedOpen, h]

theorem compressedOpen_raw (h : s.dec.block = .raw) : compressedOpen s = false := by rw [compressedOpen, h]

theorem compressedOpen_secondary (h : s.dec.block = .vn) : compressedOpen s = false := by rw [compressedOpen, h]

theorem blockTables_below (h : Hdr) (f : List Nat) (hs : Nat) (s : State) (sel : VSel) :
    tableBelow ((blockTables h f hs s).vdecTab.get sel) := by
  cases sel with
  | l => exact vdecTable_below .l _
  | m => exact vdecTable_below .m _
  | d => exact vdecTable_below .d _

theorem betweenBlocks_resumable (hs : resumable s) (hb : s.dec.block = .noBlock) :
    resumable (blockState (betweenBlocks s)) := by
  have hc := compressedOpen_between hb
  obtain ⟨F, hF, e⟩ := betweenBlocks_opening s
  rw [e s (.refl s)]
  cases hF with
  | stays st hst => exact hs
  | eos p hp he => exact resumable_of_closed hs.1 hc
  | raw p n hp he => exact resumable_of_closed hs.1 rfl
  | secondary p n k hp he => exact resumable_of_closed hs.1 rfl
  | badHeader h f hs' => exact resumable_of_closed hs.1 hc
  | badLiterals h f hs' l x => exact resumable_of_closed hs.1 hc
  | badLmd h f hs' l x y hl => exact resumable_of_closed hs.1 hc
  | opened block hb h f hs' q l x y hl hp he =>
    exact LmdReady.resumable ⟨hs.1, Nat.zero_le _, blockTables_below h f hs' s⟩

theorem rawBlock_resumable (hs : resumable s) (hb : s.dec.block = .raw) : resumable (blockState (rawBlock s)) := by
  by_cases h : s.dec.rawRemaining.toNat = 0
  · rw [rawBlock_closes h]
    exact resumable_of_closed hs.1 rfl
  by_cases ha : s.dec.cur.srcEnd.toNat ≤ s.dec.cur.srcPos.toNat
  · rw [rawBlock_srcEmpty h ha]
    exact hs
  by_cases hr : s.dec.cur.dstEnd.toNat ≤ s.dec.cur.dstPos.toNat
  · rw [rawBlock_dstFull h (not_le.mp ha) hr]
    exact hs
  · rw [rawBlock_copies h (not_le.mp ha) (not_le.mp hr)]
    have hle := rawCount_dst s
    refine resumable_of_closed ?_ (compressedOpen_raw (s := copyRaw (rawCount s) s) hb)
    show (copyRaw (rawCount s) s).dec.cur.dstPos.toNat ≤ s.dec.cur.dstEnd.toNat
    rw [copyRaw_dstPos hle]
    omega

theorem compressedBlock_resumable (hs : resumable s) (hb : s.dec.block = .v1 ∨ s.dec.block = .v2) :
    resumable (blockState (compressedBlock s)) := by
  by_cases h : payloadShort s
  · rw [compressedBlock_short h]
    exact hs
  have hr := lmdLoop_ready (lmdReady_of_resumable hs (compressedOpen_of_block hb))
  rw [compressedBlock_whole h]
  generalize lmdLoop s = r at hr
  cases r with
  | done t => exact resumable_of_closed hr.room rfl
  | dstFull t => exact hr.resumable
  | error t => exact hr.resumable

theorem answered_dstPos (s : State) (hroom : s.dec.cur.dstPos.toNat ≤ s.dec.cur.dstEnd.toNat) :
    (answered s).dec.cur.dstPos.toNat = s.dec.cur.dstPos.toNat + (agentBytes s).length :=
  nat64_toNat_le (m := s.dec.cur.dstEnd) (by have := agentBytes_fit s; omega)

theorem secondaryBlock_resumable (hs : resumable s) (hb : s.dec.block = .vn) :
    resumable (blockState (secondaryBlock s)) := by
  by_cases h : secondaryShort s
  · rw [secondaryBlock_short h]
    exact hs
  by_cases ho : agentOver s
  · rw [secondaryBlock_over h ho]
    exact hs
  have hroom : (answered s).dec.cur.dstPos.toNat ≤ (answered s).dec.cur.dstEnd.toNat := by
    have hfit := agentBytes_fit s
    have h0 := hs.1
    rw [answered_dstPos s h0]
    show _ ≤ s.dec.cur.dstEnd.toNat
    omega
  have hopen : compressedOpen (answered s) = false := compressedOpen_secondary (s := answered s) hb
  obtain ⟨-, -, -, e⟩ | e | e := secondaryBlock_cases h ho
  · rw [e]
    exact resumable_of_closed hroom rfl
  · rw [e]
    exact resumable_of_closed hroom hopen
  · rw [e]
    exact resumable_of_closed hroom hopen

theorem blockStep_resumable (hs : resumable s) : resumable (blockState (blockStep s)) := by
  cases hb : s.dec.block with
  | noBlock => rw [blockStep_between hb]; exact betweenBlocks_resumable hs hb
  | raw => rw [blockStep_raw hb]; exact rawBlock_resumable hs hb
  | v1 => rw [blockStep_compressed (.inl hb)]; exact compressedBlock_resumable hs (.inl hb)
  | v2 => rw [blockStep_compressed (.inr hb)]; exact compressedBlock_resumable hs (.inr hb)
  | vn => rw [blockStep_secondary hb]; exact secondaryBlock_resumable hs hb

theorem runs_resumable {st : Status} (h : Runs s (st, t)) (hs : resumable s) : resumable t := by
  refine h.induct (motive := fun s => resumable s → resumable t) (fun s hb hs => ?_)
    (fun s u hb _ ih hs => ?_) hs
  · have := blockStep_resumable hs
    rwa [hb] at this
  · have := blockStep_resumable hs
    rw [hb] at this
    exact ih this

end Resumable

/-! ### One block step in a larger destination -/

/-- The run from `s` patched is the run from `t` patched, the end of the destination being the same. -/
def Resumes (P : Patch) (s t : State) : Prop :=
  ∃ Q : Patch, Q.dstEnd = P.dstEnd ∧ Q.Fits t ∧ ∀ r, Runs (P.apply s) r ↔ Runs (Q.apply t) r

/-- The run from `s` patched ends with `st` in `t` patched. -/
def EndsIn (P : Patch) (s : State) (st : Status) (t : State) : Prop :=
  ∃ Q : Patch, Q.dstEnd = P.dstEnd ∧ Q.Fits t ∧ Runs (P.apply s) (st, Q.apply t)

/-- How a patched run follows a block step of the run without: where it goes on, and where it stops with the same end of the
destination; where the destination was full, it goes on from there. -/
def StepCarried (P : Patch) (s : State) : BlockStep → Prop
  | .cont t => Resumes P s t
  | .stop st t => (P.dstEnd = s.dec.cur.dstEnd → EndsIn P s st t) ∧
      (st = .dstFull → t.dec.block ≠ .vn → t.dec.cur.dstEnd.toNat ≤ t.dec.cur.dstPos.toNat ∧ Resumes P s t)

section Carried

variable {P Q : Patch} {s t : State} {st : Status}

theorem carried_cont (h : blockStep (P.apply s) = .cont (Q.apply t)) (hq : Q.dstEnd = P.dstEnd) (hQ : Q.Fits t) :
    StepCarried P s (.cont t) := ⟨Q, hq, hQ, runs_cont h⟩

theorem carried_stop (h : blockStep (P.apply s) = .stop st (Q.apply t)) (hq : Q.dstEnd = P.dstEnd) (hQ : Q.Fits t)
    (hst : st ≠ .dstFull) : StepCarried P s (.stop st t) :=
  ⟨fun _ => ⟨Q, hq, hQ, runs_of_stop h⟩, fun h => absurd h hst⟩

/-- The patch with literals stored from the first on. -/
def Patch.withLits (P : Patch) (l : List U8) : Patch := { P with lits := arrSetAll 0 P.lits 0 l }

theorem Patch.Fits.setAll {l : List U8} {n : Nat} (hroom : t.dec.cur.dstEnd.toNat ≤ P.dstEnd.toNat)
    (hl : t.dec.lits = arrSetAll 0 s.dec.lits 0 l) (hn : t.dec.nLits.toNat ≤ max n l.length)
    (hP : ∀ i, i < n → litAt P.lits i = litAt s.dec.lits i) : (P.withLits l).Fits t := by
  refine ⟨hroom, fun i hi => ?_⟩
  rw [hl]
  show litAt (arrSetAll 0 P.lits 0 l) i = _
  by_cases h : i < l.length
  · rw [litAt_setAll_inside _ h, litAt_setAll_inside _ h]
  · rw [litAt_setAll_outside _ (not_lt.mp h), litAt_setAll_outside _ (not_lt.mp h)]
    exact hP i (by omega)

theorem betweenBlocks_carried (hP : P.Fits s) (hb : s.dec.block = .noBlock) : StepCarried P s (betweenBlocks s) := by
  obtain ⟨F, hF, e⟩ := betweenBlocks_opening s
  have hstep : blockStep (P.apply s) = F (P.apply s) :=
    (blockStep_between (s := P.apply s) hb).trans (e _ ⟨rfl, rfl, rfl, rfl, rfl, rfl⟩)
  have hsame {t : State} (hd : t.dec.cur.dstEnd = s.dec.cur.dstEnd) (hl : t.dec.lits = s.dec.lits)
      (hn : t.dec.nLits = s.dec.nLits) : P.Fits t := ⟨hd ▸ hP.room, hl ▸ hn ▸ hP.lits⟩
  rw [e s (.refl s)]
  cases hF with
  | stays st hst => exact carried_stop (Q := P) hstep rfl hP (by rcases hst with rfl | rfl <;> decide)
  | eos p hp he => exact carried_stop (Q := P) hstep rfl (hsame rfl rfl rfl) (by decide)
  | raw p n hp he => exact carried_cont (Q := P) hstep rfl (hsame rfl rfl rfl)
  | secondary p n k hp he => exact carried_cont (Q := P) hstep rfl (hsame rfl rfl rfl)
  | badHeader h f hs => exact carried_stop (Q := P) hstep rfl (hsame rfl rfl rfl) (by decide)
  | badLiterals h f hs l x =>
    exact carried_stop (Q := P.withLits l) hstep rfl (.setAll hP.room rfl (le_max_left _ _) hP.lits) (by decide)
  | badLmd h f hs l x y hl =>
    exact carried_stop (Q := P.withLits l) hstep rfl (.setAll hP.room rfl (le_max_of_le_right hl.ge) hP.lits) (by decide)
  | opened block hb h f hs q l x y hl hp he =>
    exact carried_cont (Q := P.withLits l) hstep rfl (.setAll hP.room rfl (le_max_of_le_right hl.ge) hP.lits)

theorem writeBytes_append (m : Memory) (a : Nat) (l r : List U8) :
    writeBytes m a (l ++ r) = writeBytes (writeBytes m a l) (a + l.length) r := by
  induction l generalizing m a with
  | nil => rfl
  | cons b l ih => rw [List.cons_append, writeBytes, ih, List.length_cons, Nat.add_right_comm, Nat.add_assoc]; rfl

/-- Copying on is copying both. -/
theorem copyRaw_copyRaw (a b : Nat) (ha : a ≤ s.dec.cur.srcEnd.toNat - s.dec.cur.srcPos.toNat)
    (hd : a ≤ s.dec.cur.dstEnd.toNat - s.dec.cur.dstPos.toNat) : copyRaw b (copyRaw a s) = copyRaw (a + b) s := by
  have hs := copyRaw_srcPos ha
  have hp := copyRaw_dstPos hd
  have hn := copyRaw_remaining a s
  unfold copyRaw at hs hp hn ⊢
  dsimp only at hs hp hn ⊢
  rw [hs, hp, hn, readBytes_add, writeBytes_append, readBytes_length, Nat.add_assoc, Nat.add_assoc, Nat.sub_sub]

theorem rawBlock_carried (hP : P.Fits s) (hb : s.dec.block = .raw) : StepCarried P s (rawBlock s) := by
  have hstep : blockStep (P.apply s) = rawBlock (P.apply s) := blockStep_raw (s := P.apply s) hb
  by_cases h : s.dec.rawRemaining.toNat = 0
  · rw [rawBlock_closes h]
    exact carried_cont (Q := P) (hstep.trans (rawBlock_closes (s := P.apply s) h)) rfl ⟨hP.room, hP.lits⟩
  by_cases ha : s.dec.cur.srcEnd.toNat ≤ s.dec.cur.srcPos.toNat
  · rw [rawBlock_srcEmpty h ha]
    exact carried_stop (Q := P) (hstep.trans (rawBlock_srcEmpty (s := P.apply s) h ha)) rfl hP (by decide)
  have ha := not_le.mp ha
  by_cases hr : s.dec.cur.dstEnd.toNat ≤ s.dec.cur.dstPos.toNat
  · rw [rawBlock_dstFull h ha hr]
    refine ⟨fun he => ⟨P, rfl, hP, runs_of_stop (hstep.trans (rawBlock_dstFull (s := P.apply s) h ha ?_))⟩,
      fun _ _ => ⟨hr, P, rfl, hP, fun _ => Iff.rfl⟩⟩
    show P.dstEnd.toNat ≤ _
    rwa [he]
  · rw [rawBlock_copies h ha (not_le.mp hr)]
    have hc := rawCount_src s
    have hd := rawCount_dst s
    have hroom := hP.room
    refine ⟨P, rfl, ⟨hP.room, hP.lits⟩, fun r => ?_⟩
    have hto : P.apply (copyRaw (rawCount s) s) = copyRaw (rawCount s) (P.apply s) := rfl
    have hd' : rawCount s ≤ (P.apply s).dec.cur.dstEnd.toNat - s.dec.cur.dstPos.toNat :=
      hd.trans (Nat.sub_le_sub_right hroom _)
    have hsum : rawCount s + rawCount (copyRaw (rawCount s) (P.apply s)) = rawCount (P.apply s) := by
      have h1 := copyRaw_srcPos (s := P.apply s) hc
      have h2 := copyRaw_dstPos (s := P.apply s) hd'
      have h3 := copyRaw_remaining (rawCount s) (P.apply s)
      have hle : rawCount s ≤ s.dec.rawRemaining.toNat := by
        unfold rawCount
        omega
      generalize rawCount s = c at *
      rw [rawCount, h1, h2, h3]
      show c + min (min (s.dec.rawRemaining.toNat - c) (s.dec.cur.srcEnd.toNat - (s.dec.cur.srcPos.toNat + c)))
        (P.dstEnd.toNat - (s.dec.cur.dstPos.toNat + c)) =
        min (min s.dec.rawRemaining.toNat (s.dec.cur.srcEnd.toNat - s.dec.cur.srcPos.toNat))
          (P.dstEnd.toNat - s.dec.cur.dstPos.toNat)
      change c ≤ P.dstEnd.toNat - s.dec.cur.dstPos.toNat at hd'
      omega
    rw [hto, raw_runs (s := P.apply s) hb, raw_runs (s := copyRaw (rawCount s) (P.apply s)) hb, copyRaw_copyRaw (s := P.apply s) _ _ hc hd',
      hsum]

theorem lmdKey_apply (h : lmdKey t = lmdKey s) : lmdKey (P.apply t) = lmdKey (P.apply s) := by
  simp only [lmdKey, decKey, Patch.apply, Prod.mk.injEq] at h ⊢
  simp only [h, and_self]

theorem compressedBlock_carried (hs : resumable s) (hP : P.Fits s) (hb : s.dec.block = .v1 ∨ s.dec.block = .v2) :
    StepCarried P s (compressedBlock s) := by
  have hstep : blockStep (P.apply s) = compressedBlock (P.apply s) := blockStep_compressed (s := P.apply s) hb
  by_cases h : payloadShort s
  · rw [compressedBlock_short h]
    exact carried_stop (Q := P) (hstep.trans (compressedBlock_short (s := P.apply s) h)) rfl hP (by decide)
  have hwhole := compressedBlock_whole (s := P.apply s) h
  have hl := lmdLoop_carries (lmdReady_of_resumable hs (compressedOpen_of_block hb)) hP
  have hkey := lmdLoop_key s
  rw [compressedBlock_whole h]
  generalize lmdLoop s = r at hl hkey
  cases r with
  | done t =>
    obtain ⟨ht, e⟩ := hl
    rw [e] at hwhole
    exact carried_cont (Q := P) (hstep.trans hwhole) rfl ⟨ht.room, ht.lits⟩
  | error t =>
    obtain ⟨ht, e⟩ := hl
    rw [e] at hwhole
    exact carried_stop (Q := P) (hstep.trans hwhole) rfl ht (by decide)
  | dstFull t =>
    obtain ⟨ht, hfull, hsame, e⟩ := hl
    refine ⟨fun he => ⟨P, rfl, ht, runs_of_stop ?_⟩, fun _ _ => ⟨hfull, P, rfl, ht, runs_congr ?_⟩⟩
    · rw [hstep, hwhole, hsame he]
      rfl
    · have hkey' := lmdKey_apply (P := P) hkey
      have hb' : t.dec.block = s.dec.block := (Prod.ext_iff.mp (congrArg (·.2.2.2.2.2.2) hkey)).1
      rw [hstep, blockStep_compressed (s := P.apply t) (hb'.symm ▸ hb)]
      exact compressedBlock_afterTriplet (s := P.apply s) h hkey' e

theorem secondaryCall_apply (h : min P.dstEnd.toNat (s.dec.cur.dstPos.toNat + s.dec.vnRaw.toNat) =
    min s.dec.cur.dstEnd.toNat (s.dec.cur.dstPos.toNat + s.dec.vnRaw.toNat)) :
    secondaryCall (P.apply s) = secondaryCall s := by
  unfold secondaryCall
  dsimp only [Patch.apply]
  rw [h]

/-- A block step with its state patched. -/
def Patch.step (P : Patch) : BlockStep → BlockStep
  | .cont t => .cont (P.apply t)
  | .stop st t => .stop st (P.apply t)

/-- Where the agent is called alike, it answers alike. -/
theorem secondaryBlock_apply (hcall : secondaryCall (P.apply s) = secondaryCall s) :
    secondaryBlock (P.apply s) = P.step (secondaryBlock s) := by
  have hanswer : agentAnswer (P.apply s) = agentAnswer s := by rw [agentAnswer, hcall, agentAnswer]
  have hbytes : agentBytes (P.apply s) = agentBytes s := by
    rw [agentBytes, hanswer, hcall]
    rfl
  have hanswered : answered (P.apply s) = P.apply (answered s) := by
    rw [answered, hanswer, hbytes]
    rfl
  have hover : agentOver (P.apply s) ↔ agentOver s := by
    rw [agentOver, hanswer]
    rfl
  by_cases h : secondaryShort s
  · rw [secondaryBlock_short h, secondaryBlock_short (s := P.apply s) h]
    rfl
  by_cases ho : agentOver s
  · rw [secondaryBlock_over h ho, secondaryBlock_over (s := P.apply s) h (hover.mpr ho)]
    rfl
  · rw [secondaryBlock_answered h ho, secondaryBlock_answered (s := P.apply s) h (mt hover.mp ho), hanswered, hanswer,
      apply_ite P.step, apply_ite P.step]
    rfl

/-- A block that the agent ends had room for all of it. -/
theorem agentBytes_whole (hroom : s.dec.cur.dstPos.toNat ≤ s.dec.cur.dstEnd.toNat) (h : (answered s).dec.vnRaw = 0) :
    s.dec.cur.dstPos.toNat + s.dec.vnRaw.toNat ≤ s.dec.cur.dstEnd.toNat := by
  have hlt := s.dec.vnRaw.isLt
  have h0 : (BitVec.ofNat 32 (s.dec.vnRaw.toNat - (agentBytes s).length)).toNat = 0 := congrArg BitVec.toNat h
  rw [BitVec.toNat_ofNat, Nat.mod_eq_of_lt (by omega)] at h0
  have hfit := agentBytes_fit s
  omega

theorem secondaryBlock_carried (hs : resumable s) (hP : P.Fits s) (hb : s.dec.block = .vn) :
    StepCarried P s (secondaryBlock s) := by
  have hstep : blockStep (P.apply s) = secondaryBlock (P.apply s) := blockStep_secondary (s := P.apply s) hb
  have hsame (he : P.dstEnd = s.dec.cur.dstEnd) : blockStep (P.apply s) = P.step (secondaryBlock s) :=
    hstep.trans (secondaryBlock_apply (secondaryCall_apply (by rw [he])))
  have hroom := hP.room
  by_cases h : secondaryShort s
  · rw [secondaryBlock_short h]
    exact carried_stop (Q := P) (hstep.trans (secondaryBlock_short (s := P.apply s) h)) rfl hP (by decide)
  by_cases ho : agentOver s
  · rw [secondaryBlock_over h ho] at hsame ⊢
    exact ⟨fun he => ⟨P, rfl, hP, runs_of_stop (hsame he)⟩, nofun⟩
  have hP' : P.Fits (answered s) := ⟨hP.room, hP.lits⟩
  obtain ⟨-, hraw, -, e⟩ | e | e := secondaryBlock_cases h ho
  · have hall := agentBytes_whole hs.1 hraw
    have hcall : secondaryCall (P.apply s) = secondaryCall s := secondaryCall_apply (by omega)
    have hcont := hstep.trans (secondaryBlock_apply hcall)
    rw [e] at hcont ⊢
    exact carried_cont (Q := P) hcont rfl ⟨hP.room, hP.lits⟩
  · rw [e] at hsame ⊢
    exact ⟨fun he => ⟨P, rfl, hP', runs_of_stop (hsame he)⟩, nofun⟩
  · rw [e] at hsame ⊢
    exact ⟨fun he => ⟨P, rfl, hP', runs_of_stop (hsame he)⟩, fun _ hvn => absurd hb hvn⟩

theorem blockStep_carried (hs : resumable s) (hP : P.Fits s) : StepCarried P s (blockStep s) := by
  cases hb : s.dec.block with
  | noBlock => rw [blockStep_between hb]; exact betweenBlocks_carried hP hb
  | raw => rw [blockStep_raw hb]; exact rawBlock_carried hP hb
  | v1 => rw [blockStep_compressed (.inl hb)]; exact compressedBlock_carried hs hP (.inl hb)
  | v2 => rw [blockStep_compressed (.inr hb)]; exact compressedBlock_carried hs hP (.inr hb)
  | vn => rw [blockStep_secondary hb]; exact secondaryBlock_carried hs hP hb

/-- How a patched run follows the run without. -/
theorem Runs.carried (h : Runs s (st, t)) (hs : resumable s) (hP : P.Fits s) : StepCarried P s (.stop st t) := by
  refine h.induct (motive := fun s => ∀ P : Patch, resumable s → P.Fits s → StepCarried P s (.stop st t))
    (fun s hb P hs hP => ?_) (fun s u hb _ ih P hs hP => ?_) P hs hP
  · have := blockStep_carried hs hP
    rwa [hb] at this
  · have hu := blockStep_resumable hs
    have hend := (blockStep_stores s).stop
    have := blockStep_carried hs hP
    rw [hb] at this hu hend
    obtain ⟨Q, hq, hQ, hruns⟩ := this
    obtain ⟨hsame, hfull⟩ := ih Q hu hQ
    refine ⟨fun he => ?_, fun hst hvn => ?_⟩
    · obtain ⟨R, hr, hR, hrun⟩ := hsame (hq.trans (he.trans hend.symm))
      exact ⟨R, hr.trans hq, hR, (hruns _).mpr hrun⟩
    · obtain ⟨hpos, R, hr, hR, hrun⟩ := hfull hst hvn
      exact ⟨hpos, R, hr.trans hq, hR, fun r => (hruns r).trans (hrun r)⟩

end Carried

/-! ### Resuming after DEC_GROW (R213, R217) -/

theorem decEnd_resumable {s : State} {st : Status} (h : resumable s) : resumable (decEnd st s) := by
  have hd := decEnd_dec st s
  have hv : (decEnd st s).vdecTab = s.vdecTab := by rw [decEnd_eq]
  unfold resumable compressedOpen
  rw [hd, hv]
  exact h

/-- A DEC_STEP that filled the destination leaves no byte unspecified. -/
theorem decEnd_dst_full {s : State} {st : Status} (h : s.dec.cur.dstEnd.toNat ≤ s.dec.cur.dstPos.toNat) :
    (decEnd st s).dst = s.dst := by
  have hrel (u : State) (hu : u.dec.cur = s.dec.cur) :
      releaseDst u.dec.cur.dstPos.toNat u.dec.cur.dstEnd.toNat u = u := if_neg (by rw [hu]; omega)
  show (releaseDst _ _ (poisonDecOnError st s)).dst = _
  rw [hrel _ (poisonDecOnError_decCur st s)]
  cases st <;> rfl

/-- The patch that DEC_GROW to `e` makes after a DEC_STEP that ended in `s`. -/
def grown (e : U64) (s : State) : Patch :=
  { cur := { s.dec.cur with dstEnd := e }, res0 := (decEnd .dstFull s).res0, res1 := (decEnd .dstFull s).res1, status := .ok,
    freeTag := (decEnd .dstFull s).freeTag, dstEnd := e, lits := (decEnd .dstFull s).dec.lits }

/-- The patch that only sets the end of the destination. -/
def largerEnd (e : U64) (s : State) : Patch :=
  { cur := s.cur, res0 := s.res0, res1 := s.res1, status := s.status, freeTag := s.freeTag, dstEnd := e, lits := s.dec.lits }

theorem runs_dstEnd {s t : State} {st : Status} (h : Runs s (st, t)) : t.dec.cur.dstEnd = s.dec.cur.dstEnd := by
  obtain ⟨n, hn⟩ := h
  exact (blockLoop_stores n s hn).stop

theorem runs_decKey {s t : State} {st : Status} (h : Runs s (st, t)) : decKey t = decKey s := by
  obtain ⟨n, hn⟩ := h
  exact blockLoop_key n s hn

section Resumed

variable {s : State} {e : U64}

/-- DEC_GROW after a DEC_STEP that filled the destination. -/
theorem exec_decGrow_full (hr : ready s) (hp : s.dec.poisoned = false)
    (hfull : s.dec.cur.dstEnd.toNat ≤ s.dec.cur.dstPos.toNat) (hle : s.dec.cur.dstEnd.toNat ≤ e.toNat)
    (hsize : e.toNat ≤ s.dstSize.toNat) :
    exec .decGrow { decEnd .dstFull s with cur := { (decEnd .dstFull s).cur with dstEnd := e } } =
      .next ((grown e s).apply s) := by
  have heq := decEnd_eq .dstFull s
  have hready : ready (decEnd .dstFull s) := by
    rw [heq]
    exact hr
  have hclean : (decEnd .dstFull s).dec.poisoned = false := by
    rw [heq]
    exact hp
  have hend : (decEnd .dstFull s).dec.cur.dstEnd = s.dec.cur.dstEnd := by rw [heq]
  have hds : (decEnd .dstFull s).dstSize = s.dstSize := by rw [heq]
  obtain ⟨-, -, -, hgrow⟩ := (decFeedGrowEnds { decEnd .dstFull s with cur := { (decEnd .dstFull s).cur with dstEnd := e } }
    hready).2 hclean
  refine (hgrow (hend.symm ▸ hle) (hds.symm ▸ hsize)).trans (congrArg _ ?_)
  rw [decEnd_dst_full hfull] at heq
  unfold grown
  generalize decEnd .dstFull s = t at *
  rw [heq]
  rfl

/-- The literals that a DEC_STEP leaves unspecified are not those of its block. -/
theorem grown_fits {Q : Patch} (hq : Q.dstEnd = e) (hQ : Q.Fits s) : (grown e s).Fits (Q.apply s) where
  room := (congrArg BitVec.toNat hq).le
  lits i hi := (decEnd_lits .dstFull s hi).trans (hQ.lits i hi).symm

/-- What DEC_STEP leaves specified is the same where only a patch differs. -/
theorem decEnd_apply {R : Patch} {st : Status} (hend : R.dstEnd = s.dec.cur.dstEnd) (hR : R.Fits s) :
    let v := decEnd st (R.apply s)
    let w := decEnd st s
    (v.status = w.status ∧ v.res0 = w.res0 ∧ v.res1 = w.res1 ∧ v.cur = w.cur) ∧
    (v.in0 = w.in0 ∧ v.in1 = w.in1 ∧ v.freq = w.freq ∧ v.decTab = w.decTab ∧ v.vdecTab = w.vdecTab ∧ v.hdr = w.hdr ∧
      v.hdrSize = w.hdrSize) ∧
    v.dec = { w.dec with lits := v.dec.lits } ∧
    (∀ i, i < w.dec.nLits.toNat → litAt v.dec.lits i = litAt w.dec.lits i) ∧
    ∀ a, a < w.dec.cur.dstPos.toNat → readByte v.dst a = readByte w.dst a := by
  have hcur : (R.apply s).dec.cur = s.dec.cur := by
    show { s.dec.cur with dstEnd := R.dstEnd } = _
    rw [hend]
  have hdec : (R.apply s).dec = { s.dec with lits := R.lits } := by
    show { s.dec with lits := R.lits, cur := (R.apply s).dec.cur } = _
    rw [hcur]
  have hv := decEnd_eq st (R.apply s)
  have hw := decEnd_eq st s
  intro v w
  have hwd : w.dec.cur = s.dec.cur ∧ w.dec.nLits = s.dec.nLits := by
    rw [show w.dec = _ from decEnd_dec st s]
    exact ⟨rfl, rfl⟩
  refine ⟨⟨rfl, rfl, rfl, ?_⟩, ⟨?_, ?_, ?_, ?_, ?_, ?_, ?_⟩, ?_, fun i hi => ?_, fun a ha => ?_⟩
  · exact (congrArg State.cur hv).trans (hcur.trans (congrArg State.cur hw).symm)
  · exact (congrArg State.in0 hv).trans (congrArg State.in0 hw).symm
  · exact (congrArg State.in1 hv).trans (congrArg State.in1 hw).symm
  · exact (congrArg State.freq hv).trans (congrArg State.freq hw).symm
  · exact (congrArg State.decTab hv).trans (congrArg State.decTab hw).symm
  · exact (congrArg State.vdecTab hv).trans (congrArg State.vdecTab hw).symm
  · exact (congrArg State.hdr hv).trans (congrArg State.hdr hw).symm
  · exact (congrArg State.hdrSize hv).trans (congrArg State.hdrSize hw).symm
  · rw [show v.dec = _ from decEnd_dec st (R.apply s), show w.dec = _ from decEnd_dec st s, hdec]
  · rw [hwd.2] at hi
    exact (decEnd_lits st (R.apply s) hi).trans ((hR.lits i hi).trans (decEnd_lits st s hi).symm)
  · rw [hwd.1] at ha
    have hv := decEnd_outside st (R.apply s) a (by rw [hcur]; omega)
    exact hv.trans (decEnd_outside st s a (by omega)).symm

/-- A run that filled the destination, resumed after DEC_GROW, ends as one run with the larger destination does. -/
theorem decStep_resumed {t : State} (hs : Live s) (hres : resumable s) (hrun : Runs s (.dstFull, t))
    (hvn : t.dec.block ≠ .vn) (hle : t.dec.cur.dstEnd.toNat ≤ e.toNat) (hsize : e.toNat ≤ s.dstSize.toNat) :
    ∃ (st : Status) (w : State) (R : Patch), R.dstEnd = w.dec.cur.dstEnd ∧ R.Fits w ∧
      exec .decGrow { decEnd .dstFull t with cur := { (decEnd .dstFull t).cur with dstEnd := e } } =
        .next ((grown e t).apply t) ∧
      exec .decStep ((grown e t).apply t) = .next (decEnd st (R.apply w)) ∧
      exec .decStep ((largerEnd e s).apply s) = .next (decEnd st w) := by
  have hkey := runs_decKey hrun
  simp only [decKey, Prod.mk.injEq] at hkey
  obtain ⟨-, -, -, -, -, -, -, -, hfault, -, -, -, -, -, -, -, hdstSize, -⟩ := hkey
  obtain ⟨ha, ⟨hst, -⟩ | ⟨-, heos⟩⟩ := hrun.advances
  · cases hst
  have ht : Live t := ⟨hfault.trans hs.ready, ha.poisoned.trans hs.clean, heos.trans hs.more⟩
  have hlarge : (largerEnd e s).Fits s := ⟨runs_dstEnd hrun ▸ hle, fun _ _ => rfl⟩
  obtain ⟨-, hfull⟩ := hrun.carried hres hlarge
  obtain ⟨hpos, Q, hq, hQ, hruns⟩ := hfull rfl hvn
  obtain ⟨st, w, hw⟩ := runs_exists (Q.apply t)
  have hQres : resumable (Q.apply t) := by
    obtain ⟨hroom, hopen⟩ := runs_resumable hrun hres
    exact ⟨hroom.trans hQ.room, hopen⟩
  obtain ⟨hsame, -⟩ := hw.carried hQres (grown_fits hq hQ)
  obtain ⟨R, hr, hR, hv⟩ := hsame hq.symm
  refine ⟨st, w, R, ?_, hR, exec_decGrow_full ht.ready ht.clean hpos hle (hdstSize.symm ▸ hsize),
    exec_decStep_of_runs ⟨ht.ready, ht.clean, ht.more⟩ hv,
    exec_decStep_of_runs ⟨hs.ready, hs.clean, hs.more⟩ ((hruns _).mpr hw)⟩
  rw [runs_dstEnd hw, hr]
  exact hq.symm

end Resumed

/-- Settles O60: a run with a larger destination passes through the state in which the smaller one was full. -/
theorem decStepResumes : Obligations.DecStepResumes := by
  intro s t e hr hp hres hexec
  cases he : s.dec.endOfStream with
  | true =>
    rw [exec_decStep_ended hr hp he] at hexec
    cases hexec
    exact ⟨hres, nofun⟩
  | false =>
    have hs : Live s := ⟨hr, hp, he⟩
    obtain ⟨st, s1, hrun⟩ := runs_exists s
    rw [exec_decStep_of_runs hs hrun] at hexec
    cases hexec
    refine ⟨decEnd_resumable (runs_resumable hrun hres), fun hst hvn hle hsize => ?_⟩
    obtain rfl : st = .dstFull := hst
    rw [decEnd_dec] at hvn hle
    obtain ⟨st, w, R, hend, hR, hgrow, hv, hw⟩ := decStep_resumed hs hres hrun hvn hle hsize
    exact ⟨_, _, _, hgrow, rfl, hv, hw, decEnd_apply hend hR⟩

end Sys2Proof.Proofs

namespace Sys2Proof.Proofs

open Sys2Proof Sys2Proof.Machine Sys2Proof.Laws

/-! ## The encoder's front end (45_encoder_frontend.md) -/

/-! ### HASH and ENC_INIT (R230, R232) -/

theorem exec_hash_wide {s : State} (hr : ready s) (h : 2 ^ 32 ≤ s.arg0.toNat) :
    exec .hash s = .next (faulted .badOperand 0 s) := by
  show command s (raiseIf _ _ _ _) = _
  rw [raiseIf_pos (decide_eq_true h), command_error hr]
  rfl

/-- The top 14 bits of the product mod 2^32 (R230). -/
theorem hashOf_eq (x : Nat) : hashOf x = x * 2654435761 % 2 ^ 32 / 2 ^ 18 := by
  simp only [hashOf, hashMultiplier, hashBits, Nat.reduceSub]

theorem withRes0_ended (s : State) (x : U64) :
    ({ s.withRes0 x with status := .ok } : State) = { s with res0 := x, status := .ok } := rfl

theorem exec_hash_fits {s : State} (hr : ready s) (h : s.arg0.toNat < 2 ^ 32) :
    exec .hash s = .next { s with res0 := nat64 (hashOf s.arg0.toNat), status := .ok } := by
  show command s (raiseIf _ _ _ (.ok (.ok, s.withRes0 (nat64 (hashOf (argNat s.arg0)))))) = _
  rw [raiseIf_neg (decide_eq_false (Nat.not_le.mpr h)), command_ok hr, withRes0_ended, argNat]

theorem nat64_sub {a b : U64} (h : b.toNat ≤ a.toNat) : nat64 (a.toNat - b.toNat) = a - b := by
  rw [← word64_sub, ← Int.ofNat_sub h, word64, nat64, BitVec.ofInt_natCast]

theorem exec_encInit_runs {s : State} (hr : ready s) (hs : srcOk s) (hd : dstOk s) :
    exec .encInit s = .next { (encInit s).withRes 0 0 with status := .ok } := by
  show command s (raiseOpt (cursorFault s) _) = _
  rw [cursorFault_none hs hd, raiseOpt_none, command_ok hr]

/-- On legal cursors the registers show the new context as they stood, but for DST_BEGIN (R53, R232). -/
theorem encInit_cur {s : State} (hs : srcOk s) : (encInit s).cur = { s.cur with dstBegin := s.cur.dstPos } := by
  obtain ⟨-, hpe, -⟩ := hs
  have hlimit := nat64_toNat_le (Nat.sub_le s.cur.srcEnd.toNat s.cur.srcPos.toNat)
  have hpos : fitU64 ((s.cur.srcPos.toNat : Int) + (0 : U64).toInt) = s.cur.srcPos := by
    rw [show (0 : U64).toInt = 0 from rfl, add_zero, fitU64_nat s.cur.srcPos.isLt, nat64_toNat]
  have hend : fitU64 ((s.cur.srcPos.toNat + (nat64 (s.cur.srcEnd.toNat - s.cur.srcPos.toNat)).toNat : Nat) : Int) =
      s.cur.srcEnd := by
    rw [hlimit, Nat.add_sub_cancel' hpe, fitU64_nat s.cur.srcEnd.isLt, nat64_toNat]
  simp only [encInit, writeBackEnc, encCursors, hpos, hend]

/-- ENC_INIT on legal cursors (R232). -/
theorem encInit_eq {s : State} (hs : srcOk s) : encInit s = { s with
    enc := { s.enc with
      srcLo := s.cur.srcBegin, srcBegin := s.cur.srcPos, srcLimit := s.cur.srcEnd - s.cur.srcPos,
      srcEnd := s.cur.srcEnd - s.cur.srcPos, dstBegin := s.cur.dstPos, dstPos := s.cur.dstPos, dstEnd := s.cur.dstEnd,
      srcEncodeI := 0, srcLiteral := 0, pending := { pos := 0, ref := 0, length := 0 }, hist := [], nMatches := 0,
      nLits := 0, poisoned := false, active := true },
    cur := { s.cur with dstBegin := s.cur.dstPos } } := by
  rw [← encInit_cur hs]
  obtain ⟨-, hpe, -⟩ := hs
  simp only [encInit, writeBackEnc, nat64_sub hpe]

theorem mem_emptyBucket {e : HistEntry} (he : e ∈ bucketList emptyBucket) : e = invalidEntry := by
  simpa [bucketList, emptyBucket] using he

theorem invalidEntry_pos : invalidEntry.pos.toInt = invalidPos := by decide

/-- Settles O48: HASH and ENC_INIT as equations of the next state, every bucket of the new history being the empty one. -/
theorem encInitHashResults : Obligations.EncInitHashResults := by
  refine fun s hr => ⟨exec_hash_wide hr, fun h => ?_, exec_cursors_src (by decide) hr, exec_cursors_dst (by decide) hr,
    fun hs hd => ?_⟩
  · rw [exec_hash_fits hr h, nat64, hashOf_eq]
  have hrun := exec_encInit_runs hr hs hd
  rw [encInit_eq hs] at hrun
  refine ⟨_, hrun, rfl, fun h e he => ?_⟩
  obtain rfl := mem_emptyBucket he
  exact ⟨invalidEntry_pos, rfl⟩

/-! ### ENC_TRANSLATE (R242) -/

theorem exec_encTranslate_poisoned {s : State} (hr : ready s) (hp : s.enc.poisoned = true) :
    exec .encTranslate s = .next (faulted .contextPoisoned 0 s) := by
  show command s (raiseEncPoisoned s _) = _
  rw [raiseEncPoisoned_set hp, command_error hr, takeFault_zero]

theorem exec_encTranslate_below {s : State} (hr : ready s) (hp : s.enc.poisoned = false)
    (h : s.enc.srcLiteral.toInt < s.arg0.toNat ∨ s.enc.srcEncodeI.toInt < s.arg0.toNat) :
    exec .encTranslate s = .next (faulted .badOperand 0 s) := by
  show command s (raiseEncPoisoned s (raiseIf (decide (_ < (s.arg0.toNat : Int) ∨ _ < (s.arg0.toNat : Int))) _ _ _)) = _
  rw [raiseEncPoisoned_clear hp, raiseIf_pos (decide_eq_true h), command_error hr, takeFault_zero]

theorem exec_encTranslate_within {s : State} (hr : ready s) (hp : s.enc.poisoned = false)
    (hl : s.arg0.toNat ≤ s.enc.srcLiteral.toInt) (hi : s.arg0.toNat ≤ s.enc.srcEncodeI.toInt) :
    exec .encTranslate s = .next { writeBackEnc (if s.arg0.toNat = 0 then s else encTranslate s.arg0.toNat s) with
      status := .ok } := by
  show command s (raiseEncPoisoned s (raiseIf (decide (_ < (s.arg0.toNat : Int) ∨ _ < (s.arg0.toNat : Int))) _ _
    (if s.arg0.toNat = 0 then _ else .ok (.ok, writeBackEnc (encTranslate s.arg0.toNat s))))) = _
  rw [raiseEncPoisoned_clear hp, raiseIf_neg (decide_eq_false (by omega))]
  split <;> rw [command_ok hr]

theorem word64_toInt_sub (x d : U64) : word64 (x.toInt - d.toNat) = x - d := by
  apply BitVec.eq_of_toInt_eq
  rw [word64, BitVec.toInt_ofInt, BitVec.toInt_sub, BitVec.toInt_eq_toNat_bmod d]
  simp

/-- A difference that fits its s64 field is the difference of the fields. -/
theorem fitS64_toInt_sub {x d : U64} (h : -(2 ^ 63) ≤ x.toInt - d.toNat) : fitS64 (x.toInt - d.toNat) = x - d := by
  have hx := BitVec.toInt_lt (x := x)
  rw [fitS64_of_fits (by omega) (by omega), word64_toInt_sub]

theorem lessDelta_fits {v d : U64} {tag : Nat} (h : d.toNat ≤ v.toNat) : lessDelta v d.toNat tag = v - d := by
  rw [lessDelta, if_pos h, nat64_sub h]

theorem shiftEntry_invalid (delta : Nat) : shiftEntry delta invalidEntry = invalidEntry := by
  rw [shiftEntry, invalidEntry_pos, max_eq_right (by omega)]
  rfl

theorem shiftBucket_empty (delta : Nat) : shiftBucket delta emptyBucket = emptyBucket := by
  simp only [shiftBucket, emptyBucket, shiftEntry_invalid]

/-- The index of the first cell of a rising list is listed nowhere else. -/
theorem sparseFind_rising_tail {α : Type} {c : Nat × α} {r : Sparse α} (h : Laws.rising (c :: r)) :
    sparseFind r c.1 = none := by
  cases hf : sparseFind r c.1 with
  | none => rfl
  | some v => exact absurd ((List.pairwise_cons.mp h).1 _ (mem_of_sparseFind hf)) (Nat.lt_irrefl _)

/-- Every bucket is moved, an unlisted one too, which stays empty (R242). -/
theorem sparseGet_shiftHistory {m : Sparse Bucket} (hm : Laws.rising m) (delta h : Nat) :
    sparseGet emptyBucket (shiftHistory delta m) h = shiftBucket delta (sparseGet emptyBucket m h) := by
  induction m with
  | nil => exact (shiftBucket_empty delta).symm
  | cons c r ih =>
    obtain ⟨k, b⟩ := c
    specialize ih (List.pairwise_cons.mp hm).2
    simp only [sparseGet] at ih
    simp only [shiftHistory, sparseGet, sparseFind]
    by_cases hk : k = h
    · subst hk
      rw [if_pos rfl, Option.getD_some]
      split
      · rename_i hb
        rw [ih, sparseFind_rising_tail hm, hb]
        exact shiftBucket_empty delta
      · rw [sparseFind, if_pos rfl, Option.getD_some]
    · rw [if_neg hk]
      split
      · exact ih
      · rw [sparseFind, if_neg hk, ih]

/-- ENC_TRANSLATE as differences of the fields, where they fit (R242). -/
theorem encTranslate_eq (s : State) (d : U64) : encTranslate d.toNat s = { s with
    enc := { s.enc with
      srcBegin := s.enc.srcBegin + d, srcLimit := lessDelta s.enc.srcLimit d.toNat s.freeTag,
      srcEnd := lessDelta s.enc.srcEnd d.toNat (s.freeTag + 1), srcEncodeI := s.enc.srcEncodeI - d,
      srcLiteral := s.enc.srcLiteral - d,
      pending := { s.enc.pending with
        pos := fitS64 (s.enc.pending.pos.toInt - d.toNat), ref := fitS64 (s.enc.pending.ref.toInt - d.toNat) },
      hist := shiftHistory d.toNat s.enc.hist },
    freeTag := s.freeTag + 2 } := by
  rw [encTranslate, nat64_add, word64_toInt_sub, word64_toInt_sub, BitVec.ofNat_toNat, BitVec.setWidth_eq]

/-- Settles O49: the body as differences of the fields that fit, and the history bucket by bucket. -/
theorem encTranslateMovesOrigin : Obligations.EncTranslateMovesOrigin := by
  intro s hr hwf
  refine ⟨exec_encTranslate_poisoned hr, fun hp => ⟨exec_encTranslate_below hr hp, fun h0 hl hi => ?_, fun h0 hl hi => ?_⟩⟩
  · rw [exec_encTranslate_within hr hp (by omega) (by omega), if_pos h0]
    rfl
  · have hrun := exec_encTranslate_within hr hp hl hi
    rw [if_neg (by omega), encTranslate_eq] at hrun
    refine ⟨_, hrun, rfl, lessDelta_fits, lessDelta_fits, fitS64_toInt_sub, fitS64_toInt_sub, fun h => ?_⟩
    exact congrArg bucketList (sparseGet_shiftHistory ((sparseWf_iff _ _).mp hwf).1 _ _)

/-! ### Reading the source (20_memory.md R71, 10_state.md R53) -/

/-- The n bytes at offset i lie in the encoder's region. -/
structure InSource (s : State) (i : Int) (n : Nat) : Prop where
  lo : (s.enc.srcLo.toNat : Int) ≤ s.enc.srcBegin.toNat + i
  hi : (s.enc.srcBegin.toNat : Int) + i + n ≤ encRegionEnd s

/-- The SRC index of offset i. -/
def srcIndex (s : State) (i : Int) : Nat := (s.enc.srcBegin.toNat + i).toNat

section Source

variable {s : State} {i : Int} {n : Nat}

theorem InSource.mono {j : Int} {k : Nat} (h : InSource s i n) (hlo : i ≤ j) (hhi : j + k ≤ i + n) : InSource s j k := by
  obtain ⟨hl, hh⟩ := h
  exact ⟨by omega, by omega⟩

theorem srcIndex_add (h : InSource s i n) (k : Nat) : srcIndex s (i + k) = srcIndex s i + k := by
  have := h.lo
  unfold srcIndex
  omega

theorem srcByteAt_add (h : InSource s i n) (k : Nat) : srcByteAt s (i + k) = readByte s.src (srcIndex s i + k) :=
  congrArg (readByte s.src) (srcIndex_add h k)

theorem encSrcByte_ok (h : InSource s i 1) : encSrcByte s i = .ok (srcByteAt s i) := by
  obtain ⟨hl, hh⟩ := h
  unfold encSrcByte
  rw [raiseIf_neg (decide_eq_false (by omega))]
  rfl

theorem encSrcBytes_ok (h : InSource s i n) : encSrcBytes s i n = .ok (readBytes s.src (srcIndex s i) n) := by
  induction n generalizing i with
  | zero => rfl
  | succ n ih =>
    have hnext : srcIndex s (i + 1) = srcIndex s i + 1 := srcIndex_add h 1
    rw [encSrcBytes, encSrcByte_ok (h.mono le_rfl (by omega))]
    dsimp only
    rw [ih (h.mono (by omega) (by omega)), hnext]
    rfl

theorem encSrcValue_ok (h : InSource s i n) : encSrcValue s i n = .ok (memRead s.src (srcIndex s i) n) := by
  rw [encSrcValue, encSrcBytes_ok h]
  rfl

theorem encSourceOpen_of_sound (h : encSourceSound s) : encSourceOpen s := by
  obtain ⟨hlo, hsize, hmax, -, -, hlit, -⟩ := h
  exact ⟨hlo, hsize, by omega, hlit⟩

/-- In an open source the region ends at ENC.src_limit. -/
theorem inSource_of_open (h : encSourceOpen s) (hlo : (s.enc.srcLo.toNat : Int) ≤ s.enc.srcBegin.toNat + i)
    (hhi : i + n ≤ s.enc.srcLimit.toNat) : InSource s i n := by
  obtain ⟨-, hsize, -, -⟩ := h
  exact ⟨hlo, by unfold encRegionEnd; omega⟩

/-- Offsets from 0 up lie in it. -/
theorem inSource_of_nonneg (h : encSourceOpen s) (h0 : 0 ≤ i) (hhi : i + n ≤ s.enc.srcLimit.toNat) : InSource s i n :=
  inSource_of_open h (by have := h.1; omega) hhi

end Source

/-! ### What the bodies of the encoder leave alone -/

/-- The source side of the encoder, which the back end leaves alone but for ENC.src_literal. -/
def sourceView (s : State) :=
  (s.src, s.srcSize, s.enc.srcLo, s.enc.srcBegin, s.enc.srcLimit, s.enc.srcEnd, s.enc.srcEncodeI, s.enc.hist)

/-- What a push or an emission leaves alone. -/
def pushView (s : State) := (sourceView s, s.enc.pending, s.enc.poisoned)

section Views

variable {s t : State}

theorem sourceView_eq (h : sourceView t = sourceView s) :
    t.src = s.src ∧ t.srcSize = s.srcSize ∧ t.enc.srcLo = s.enc.srcLo ∧ t.enc.srcBegin = s.enc.srcBegin ∧
    t.enc.srcLimit = s.enc.srcLimit ∧ t.enc.srcEnd = s.enc.srcEnd ∧ t.enc.srcEncodeI = s.enc.srcEncodeI ∧
    t.enc.hist = s.enc.hist := by
  simpa only [sourceView, Prod.mk.injEq] using h

theorem pushView_eq (h : pushView t = pushView s) :
    sourceView t = sourceView s ∧ t.enc.pending = s.enc.pending ∧ t.enc.poisoned = s.enc.poisoned := by
  simpa only [pushView, Prod.mk.injEq] using h

theorem srcByteAt_of_view (h : sourceView t = sourceView s) (i : Int) : srcByteAt t i = srcByteAt s i := by
  obtain ⟨hsrc, -, -, hbegin, -⟩ := sourceView_eq h
  simp only [srcByteAt, hsrc, hbegin]

theorem matchReal_of_view (h : sourceView t = sourceView s) {pos ref : Int} {len : Nat} (hm : matchReal s pos ref len) :
    matchReal t pos ref len := by
  obtain ⟨hlt, hnear, hlo, hbytes⟩ := hm
  obtain ⟨-, -, hsrcLo, hbegin, -⟩ := sourceView_eq h
  refine ⟨hlt, hnear, by rwa [hsrcLo, hbegin], fun i hi => ?_⟩
  rw [srcByteAt_of_view h, srcByteAt_of_view h]
  exact hbytes i hi

theorem encSourceOpen_of_view (h : sourceView t = sourceView s) (h0 : 0 ≤ t.enc.srcLiteral.toInt) (hs : encSourceOpen s) :
    encSourceOpen t := by
  obtain ⟨hlo, hsize, hmax, -⟩ := hs
  obtain ⟨-, hss, hsrcLo, hbegin, hlimit, -⟩ := sourceView_eq h
  unfold encSourceOpen
  rw [hss, hsrcLo, hbegin, hlimit]
  exact ⟨hlo, hsize, hmax, h0⟩

end Views

/-! ### The block being filled (10_state.md R57, 45_encoder_frontend.md R240) -/

/-- Entry i of the triplet arrays. -/
def tripletAt (s : State) (i : Nat) : Nat × Nat × Nat := (valueAt .l s i, valueAt .m s i, valueAt .d s i)

/-- `t` holds the block of `s`, and perhaps more after it. -/
structure Extends (s t : State) : Prop where
  view : pushView t = pushView s
  nMatches : s.enc.nMatches.toNat ≤ t.enc.nMatches.toNat
  nLits : s.enc.nLits.toNat ≤ t.enc.nLits.toNat
  triplets (i : Nat) : i < s.enc.nMatches.toNat → tripletAt t i = tripletAt s i
  lits (i : Nat) : i < s.enc.nLits.toNat → litAt t.enc.lits i = litAt s.enc.lits i

section Blocks

variable {s t u : State}

theorem Extends.refl (s : State) : Extends s s := ⟨rfl, le_rfl, le_rfl, fun _ _ => rfl, fun _ _ => rfl⟩

theorem Extends.trans (h : Extends s t) (k : Extends t u) : Extends s u where
  view := k.view.trans h.view
  nMatches := h.nMatches.trans k.nMatches
  nLits := h.nLits.trans k.nLits
  triplets i hi := (k.triplets i (hi.trans_le h.nMatches)).trans (h.triplets i hi)
  lits i hi := (k.lits i (hi.trans_le h.nLits)).trans (h.lits i hi)

theorem Extends.source (h : Extends s t) : sourceView t = sourceView s := (pushView_eq h.view).1

theorem Extends.sourceOpen (h : Extends s t) (h0 : 0 ≤ t.enc.srcLiteral.toInt) (hs : encSourceOpen s) : encSourceOpen t :=
  encSourceOpen_of_view h.source h0 hs

theorem Extends.srcLimit (h : Extends s t) : t.enc.srcLimit = s.enc.srcLimit := by
  obtain ⟨-, -, -, -, hlimit, -⟩ := sourceView_eq h.source
  exact hlimit

/-- The triplets of a longer block begin with those of the shorter one. -/
theorem Extends.blockTriplets (h : Extends s t) : blockTriplets t = blockTriplets s ++
    (List.range (t.enc.nMatches.toNat - s.enc.nMatches.toNat)).map fun i => tripletAt t (s.enc.nMatches.toNat + i) := by
  show (List.range t.enc.nMatches.toNat).map (tripletAt t) = _
  rw [← Nat.add_sub_cancel' h.nMatches, List.range_add, List.map_append, List.map_map, Nat.add_sub_cancel_left]
  exact congrArg (· ++ _) (List.map_congr_left fun i hi => h.triplets i (List.mem_range.mp hi))

theorem replays_le {o : Int} {q : Nat} {ts : List (Nat × Nat × Nat)} (h : replays s o q ts) : q ≤ s.enc.nLits.toNat := by
  induction ts generalizing o q with
  | nil => exact h.2.le
  | cons c r ih => exact (Nat.le_add_right _ _).trans (ih h.2.2)

/-- Triplets that replay the source up to where others go on replay it together with them. -/
theorem replays_append (hsrc : ∀ i, srcByteAt t i = srcByteAt s i)
    (hlits : ∀ i, i < s.enc.nLits.toNat → litAt t.enc.lits i = litAt s.enc.lits i) {us : List (Nat × Nat × Nat)}
    (hus : replays t s.enc.srcLiteral.toInt s.enc.nLits.toNat us) {o : Int} {q : Nat} {ts : List (Nat × Nat × Nat)}
    (h : replays s o q ts) : replays t o q (ts ++ us) := by
  induction ts generalizing o q with
  | nil =>
    obtain ⟨rfl, rfl⟩ := h
    exact hus
  | cons c r ih =>
    obtain ⟨l, m, d⟩ := c
    obtain ⟨hl, hm, hr⟩ := h
    have hle := replays_le hr
    refine ⟨fun i hi => ?_, fun i hi => ?_, ih hr⟩
    · rw [hlits _ (by omega), hsrc]
      exact hl i hi
    · rw [hsrc, hsrc]
      exact hm i hi

/-- A block that replays the source still does with triplets after it that go on from ENC.src_literal. -/
theorem Extends.blockReal (h : Extends s t) (hus : replays t s.enc.srcLiteral.toInt s.enc.nLits.toNat
      ((List.range (t.enc.nMatches.toNat - s.enc.nMatches.toNat)).map fun i => tripletAt t (s.enc.nMatches.toNat + i)))
    (hs : blockReal s) : blockReal t := by
  obtain ⟨o, ho⟩ := hs
  exact ⟨o, h.blockTriplets ▸ replays_append (srcByteAt_of_view h.source) h.lits hus ho⟩

/-- A block no longer than before replays the source as before. -/
theorem Extends.blockReal_same (h : Extends s t) (hm : t.enc.nMatches = s.enc.nMatches) (hl : t.enc.nLits = s.enc.nLits)
    (hlit : t.enc.srcLiteral = s.enc.srcLiteral) (hs : Machine.blockReal s) : Machine.blockReal t := by
  refine h.blockReal ?_ hs
  rw [hm, Nat.sub_self]
  exact ⟨by rw [hlit], by rw [hl]⟩

end Blocks

/-! ### Appending one triplet (46_encoder_backend.md R250) -/

/-- The m source bytes at offset o stand d bytes before it too. -/
def copies (s : State) (o : Int) (m d : Nat) : Prop := ∀ i : Nat, i < m → srcByteAt s (o + i) = srcByteAt s (o + i - d)

theorem ofNat32_toNat {n : Nat} (h : n < 2 ^ 32) : (BitVec.ofNat 32 n).toNat = n := Nat.mod_eq_of_lt h

theorem word64_toInt {v : Int} (hl : -(2 ^ 63) ≤ v) (hu : v < 2 ^ 63) : (word64 v).toInt = v := by
  rw [word64, BitVec.toInt_ofInt, Int.bmod_def]
  omega

theorem fitS64_toInt {v : Int} (hl : -(2 ^ 63) ≤ v) (hu : v < 2 ^ 63) : (fitS64 v).toInt = v := by
  rw [fitS64_of_fits hl hu, word64_toInt hl hu]

section Append

variable {s : State} {l m d : Nat} {b : List U8}

/-- The arrays have room for the triplet and its literals. -/
structure HasRoom (s : State) (l : Nat) : Prop where
  matches_lt : s.enc.nMatches.toNat + 1 ≤ 10000
  lits_le : s.enc.nLits.toNat + l ≤ 40000

theorem HasRoom.nMatches (h : HasRoom s l) : (appendTriplet l m d b s).enc.nMatches.toNat = s.enc.nMatches.toNat + 1 :=
  ofNat32_toNat (by have := h.matches_lt; omega)

theorem HasRoom.nLits (h : HasRoom s l) : (appendTriplet l m d b s).enc.nLits.toNat = s.enc.nLits.toNat + l :=
  ofNat32_toNat (by have := h.lits_le; omega)

theorem appendTriplet_extends (h : HasRoom s l) : Extends s (appendTriplet l m d b s) where
  view := rfl
  nMatches := by rw [h.nMatches]; omega
  nLits := by rw [h.nLits]; omega
  triplets i hi := by
    have hne : i ≠ s.enc.nMatches.toNat := by omega
    simp only [tripletAt, valueAt, appendTriplet, State.values, arrGet_set_other _ _ _ _ hne]
  lits i hi := arrGet_setAll_outside _ _ _ _ _ _ (.inl hi)

theorem appendTriplet_triplet (hl : l ≤ maxLValue) (hm : m ≤ maxMValue) (hd : d ≤ maxDValue) :
    tripletAt (appendTriplet l m d b s) s.enc.nMatches.toNat = (l, m, d) := by
  unfold maxLValue at hl
  unfold maxMValue at hm
  unfold maxDValue at hd
  simp only [tripletAt, valueAt, appendTriplet, State.values, arrGet_set_same]
  rw [ofNat32_toNat (by omega), ofNat32_toNat (by omega), ofNat32_toNat (by omega)]

theorem appendTriplet_lit {i : Nat} (hi : i < b.length) :
    litAt (appendTriplet l m d b s).enc.lits (s.enc.nLits.toNat + i) = b[i] :=
  arrGet_setAll_inside _ _ _ _ _ _ hi

/-- The appended triplet replays the source where its literals are the source's and its match copies it. -/
theorem appendTriplet_real (h : HasRoom s l) (hl : l ≤ maxLValue) (hm : m ≤ maxMValue) (hd : d ≤ maxDValue)
    (hlit : (appendTriplet l m d b s).enc.srcLiteral.toInt = s.enc.srcLiteral.toInt + l + m) (hlen : b.length = l)
    (hb : ∀ (i : Nat) (hi : i < b.length), b[i] = srcByteAt s (s.enc.srcLiteral.toInt + i))
    (hm' : copies s (s.enc.srcLiteral.toInt + l) m d) (hs : blockReal s) : blockReal (appendTriplet l m d b s) := by
  refine (appendTriplet_extends h).blockReal ?_ hs
  rw [h.nMatches, Nat.add_sub_cancel_left]
  show replays _ _ _ [tripletAt _ (s.enc.nMatches.toNat + 0)]
  rw [Nat.add_zero, appendTriplet_triplet hl hm hd]
  refine ⟨fun i hi => ?_, hm', hlit.symm, (HasRoom.nLits h).symm⟩
  rw [appendTriplet_lit (by omega)]
  exact hb i (by omega)

end Append

/-! ### Pushes that are never out of the source (R250, R252) -/

/-- How a push that advances ENC.src_literal by n ends: STATE_FULL, perhaps after a part of it; or done, and the block replays the
source as it did before, `R` being that the match pushed is one. -/
inductive Pushes (n : Int) (R : Prop) (s : State) : Except Trap (Bool × State) → Prop
  | full {t : State} : Extends s t → Pushes n R s (.ok (false, t))
  | done {t : State} : Extends s t → t.enc.srcLiteral.toInt = s.enc.srcLiteral.toInt + n →
      (R → blockReal s → blockReal t) → Pushes n R s (.ok (true, t))

section Push

variable {s : State}

/-- A push after another one. -/
theorem Pushes.after {n n' : Int} {R R' : Prop} {t : State} {r : Except Trap (Bool × State)} (h : Pushes n' R' t r)
    (he : Extends s t) (hlit : t.enc.srcLiteral.toInt + n' = s.enc.srcLiteral.toInt + n)
    (hreal : R → blockReal s → R' ∧ blockReal t) : Pushes n R s r := by
  cases h with
  | full he' => exact .full (he.trans he')
  | done he' hlit' hreal' =>
    exact .done (he.trans he') (hlit'.trans hlit) fun hR hs => hreal' (hreal hR hs).1 (hreal hR hs).2

theorem pushLmd_pushes (hs : encSourceOpen s) {l m d : Nat} (hl : l ≤ maxLValue) (hm : m ≤ maxMValue) (hd : d ≤ maxDValue)
    (hfit : s.enc.srcLiteral.toInt + l + m ≤ s.enc.srcLimit.toNat) :
    Pushes (l + m) (copies s (s.enc.srcLiteral.toInt + l) m d) s (pushLmd l m d s) := by
  obtain ⟨-, -, hmax, h0⟩ := id hs
  unfold pushLmd
  split
  · exact .full (.refl s)
  · rename_i hroom
    obtain ⟨hmatches, hlits⟩ := room_of_not_stateFull hroom
    have hr : HasRoom s l := ⟨hmatches, hlits⟩
    have hin : InSource s s.enc.srcLiteral.toInt l := inSource_of_nonneg hs h0 (by omega)
    rw [encSrcBytes_ok hin]
    have hlit (b : List U8) : (appendTriplet l m d b s).enc.srcLiteral.toInt = s.enc.srcLiteral.toInt + l + m :=
      fitS64_toInt (by omega) (by omega)
    refine .done (appendTriplet_extends hr) ((hlit _).trans (add_assoc _ _ _)) fun hcopy hblock =>
      appendTriplet_real hr hl hm hd (hlit _) (readBytes_length _ _ _) (fun i hi => ?_) hcopy hblock
    rw [readBytes_getElem, srcByteAt_add hin]

theorem pushRuns_pushes (hs : encSourceOpen s) {q : Nat} (hfit : s.enc.srcLiteral.toInt + 315 * q ≤ s.enc.srcLimit.toNat) :
    Pushes (315 * q) True s (pushRuns q s) := by
  induction q generalizing s with
  | zero => exact .done (.refl s) (by omega) fun _ => id
  | succ q ih =>
    have h := pushLmd_pushes hs (l := maxLValue) (m := 0) (d := 1) le_rfl (Nat.zero_le _) (by decide)
      (by unfold maxLValue; omega)
    obtain ⟨-, -, -, h0⟩ := id hs
    rw [pushRuns]
    generalize pushLmd maxLValue 0 1 s = r at h
    cases h with
    | full he => exact .full he
    | done he hlit hreal =>
      unfold maxLValue at hlit
      have hlimit := he.srcLimit
      refine (ih (he.sourceOpen (by omega) hs) (by rw [hlimit]; omega)).after he (by omega) fun _ hblock =>
        ⟨trivial, hreal (fun i hi => absurd hi (Nat.not_lt_zero i)) hblock⟩

theorem copies_of_view {t : State} (h : sourceView t = sourceView s) {o : Int} {m d : Nat} (hc : copies s o m d) :
    copies t o m d := fun i hi => by
  rw [srcByteAt_of_view h, srcByteAt_of_view h]
  exact hc i hi

theorem copies_part {o o' : Int} {m m' d : Nat} (hc : copies s o m d) (hlo : o ≤ o') (hhi : o' + m' ≤ o + m) :
    copies s o' m' d := fun i hi => by
  have h := hc (o' + i - o).toNat (by omega)
  rwa [show o + ((o' + i - o).toNat : Int) = o' + i by omega] at h

theorem pushPieces_pushes (hs : encSourceOpen s) {d m q l : Nat} (hl : l ≤ maxLValue) (hm : m ≤ maxMValue) (hd : d ≤ maxDValue)
    (hfit : s.enc.srcLiteral.toInt + l + (2359 * q + m : Nat) ≤ s.enc.srcLimit.toNat) :
    Pushes (l + (2359 * q + m : Nat)) (copies s (s.enc.srcLiteral.toInt + l) (2359 * q + m) d) s (pushPieces d m q l s) := by
  induction q generalizing s l with
  | zero =>
    rw [pushPieces]
    simp only [Nat.mul_zero, Nat.zero_add] at hfit ⊢
    split
    · exact pushLmd_pushes hs hl hm hd hfit
    · exact .done (.refl s) (by omega) fun _ => id
  | succ q ih =>
    have h := pushLmd_pushes hs (m := maxMValue) hl le_rfl hd (by unfold maxMValue; omega)
    obtain ⟨-, -, -, h0⟩ := id hs
    rw [pushPieces]
    generalize pushLmd l maxMValue d s = r at h
    cases h with
    | full he => exact .full he
    | done he hlit hreal =>
      unfold maxMValue at hlit hreal
      have hlimit := he.srcLimit
      refine (ih (he.sourceOpen (by omega) hs) (Nat.zero_le _) (by rw [hlimit]; omega)).after he (by omega) fun hcopy hblock =>
        ⟨copies_of_view he.source (copies_part hcopy (by omega) (by omega)),
          hreal (copies_part hcopy le_rfl (by omega)) hblock⟩

theorem fullPieces_le (v size : Nat) : size * fullPieces v size ≤ v :=
  (Nat.mul_div_le (v - 1) size).trans (Nat.sub_le v 1)

theorem pushSplit_pushes (hs : encSourceOpen s) {l m d : Nat} (hd : d ≤ maxDValue)
    (hfit : s.enc.srcLiteral.toInt + l + m ≤ s.enc.srcLimit.toNat) :
    Pushes (l + m) (copies s (s.enc.srcLiteral.toInt + l) m d) s (pushSplit l m d s) := by
  have hql := fullPieces_le l 315
  have hqm := fullPieces_le m 2359
  have hl := sub_fullPieces_le l maxLValue (by decide)
  have hm := sub_fullPieces_le m maxMValue (by decide)
  have h := pushRuns_pushes hs (q := fullPieces l maxLValue) (by unfold maxLValue; omega)
  obtain ⟨-, -, -, h0⟩ := id hs
  unfold pushSplit
  dsimp only
  generalize pushRuns (fullPieces l maxLValue) s = r at h
  cases h with
  | full he => exact .full he
  | done he hlit hreal =>
    have hlimit := he.srcLimit
    have hlen : 2359 * fullPieces m maxMValue + (m - maxMValue * fullPieces m maxMValue) = m := Nat.add_sub_cancel' hqm
    unfold maxLValue at hlit hl ⊢
    have h' := pushPieces_pushes (he.sourceOpen (by omega) hs) (q := fullPieces m maxMValue) hl hm hd
      (by rw [hlimit, hlen]; omega)
    rw [hlen] at h'
    refine h'.after he (by omega) fun hcopy hblock => ⟨copies_of_view he.source (copies_part hcopy ?_ ?_), hreal trivial hblock⟩
    · omega
    · omega

end Push

/-! ### PUSH_MATCH of a match that lies in the source (R252) -/

/-- PUSH_MATCH takes the match: it begins at or after ENC.src_literal, its distance is legal, and it ends within ENC.src_limit. -/
structure Sendable (s : State) (m : Match) : Prop where
  after : s.enc.srcLiteral.toInt ≤ m.pos
  lt : m.ref < m.pos
  near : m.pos - m.ref ≤ 262139
  fits : m.pos + m.length ≤ s.enc.srcLimit.toNat

/-- How PUSH_MATCH of a sendable match ends: STATE_FULL and undone, or done. -/
inductive Sends (m : Match) (s : State) : Except Trap (Bool × State) → Prop
  | full {t : State} : pushView t = pushView s → t.enc.srcLiteral = s.enc.srcLiteral → (blockReal s → blockReal t) →
      Sends m s (.ok (false, t))
  | sent {t : State} : pushView t = pushView s → t.enc.srcLiteral.toInt = m.pos + m.length →
      (matchReal s m.pos m.ref m.length → blockReal s → blockReal t) → Sends m s (.ok (true, t))

/-- FULL of R252 brings the block back. -/
theorem undoPush_extends {s t : State} (h : Extends s t) : Extends s (undoPush s t) where
  view := h.view
  nMatches := le_rfl
  nLits := le_rfl
  triplets i hi := by
    have hout : ¬(s.enc.nMatches.toNat ≤ i ∧ i < matchesPerBlock) := by omega
    rw [← h.triplets i hi]
    simp only [tripletAt, valueAt, undoPush, releaseEncArrays, State.values, arrGet_release_outside _ _ _ _ _ _ _ hout]
  lits i hi := by
    rw [← h.lits i hi]
    exact arrGet_release_outside _ _ _ _ _ _ _ (by omega)

theorem pushMatch_sends {s : State} {m : Match} (hs : encSourceOpen s) (hm : Sendable s m) :
    Sends m s (pushMatch m.pos m.ref m.length s) := by
  obtain ⟨hafter, hlt, hnear, hfits⟩ := hm
  have hl : ((m.pos - s.enc.srcLiteral.toInt).toNat : Int) = m.pos - s.enc.srcLiteral.toInt := by omega
  have hd : (m.pos - m.ref).toNat ≤ maxDValue := by unfold maxDValue; omega
  have h := pushSplit_pushes hs (l := (m.pos - s.enc.srcLiteral.toInt).toNat) hd (m := m.length) (by omega)
  unfold pushMatch
  rw [raiseIf_neg (decide_eq_false (by omega)), raiseIf_neg (decide_eq_false (by unfold maxDValue; omega)),
    raiseIf_neg (decide_eq_false (by omega))]
  generalize pushSplit _ _ _ s = r at h
  cases h with
  | full he =>
    have hu := undoPush_extends he
    exact .full hu.view rfl (hu.blockReal_same rfl rfl rfl)
  | done he hlit hreal =>
    refine .sent he.view (by omega) fun hmatch => hreal fun i hi => ?_
    obtain ⟨-, -, -, hbytes⟩ := hmatch
    rw [hl, add_sub_cancel, ← hbytes i hi]
    congr 1
    omega

/-! ### EMIT_BLOCK never faults on legal arrays (46_encoder_backend.md R258 to R265)

The symbols of a block: -/

/-- A symbol of a value stream with its extra-bit value (R261). -/
def symbolFits (sel : VSel) (x : Nat × Nat) : Prop := x.1 < nsym (streamOf sel) ∧ x.2 < 2 ^ (vbits sel).getD x.1 0

/-- The symbols that a block codes in one stream. -/
def symbolsOf (b : BlockSymbols) : Sel → List Nat
  | .l => b.l.map Prod.fst
  | .m => b.m.map Prod.fst
  | .d => b.d.map Prod.fst
  | .lit => b.lits

/-- The symbols of a block in legal arrays. -/
structure SymbolsFit (b : BlockSymbols) : Prop where
  l : ∀ x ∈ b.l, symbolFits .l x
  m : ∀ x ∈ b.m, symbolFits .m x
  d : ∀ x ∈ b.d, symbolFits .d x
  lits : ∀ x ∈ b.lits, x < 256
  triplets : b.l.length ≤ 10000
  length (sel : Sel) : (symbolsOf b sel).length ≤ 40000

theorem SymbolsFit.lt {b : BlockSymbols} (h : SymbolsFit b) : ∀ sel, ∀ x ∈ symbolsOf b sel, x < nsym sel
  | .l, _, hx => by obtain ⟨y, hy, rfl⟩ := List.mem_map.mp hx; exact (h.l y hy).1
  | .m, _, hx => by obtain ⟨y, hy, rfl⟩ := List.mem_map.mp hx; exact (h.m y hy).1
  | .d, _, hx => by obtain ⟨y, hy, rfl⟩ := List.mem_map.mp hx; exact (h.d y hy).1
  | .lit, x, hx => h.lits x hx

theorem valueSymbols_ok (sel : VSel) {vs : List Nat} (h : ∀ v ∈ vs, v ≤ maxValue sel) :
    ∃ xs, valueSymbols sel vs = .ok xs ∧ xs.length = vs.length ∧ ∀ x ∈ xs, symbolFits sel x := by
  induction vs with
  | nil => exact ⟨[], rfl, rfl, nofun⟩
  | cons v r ih =>
    obtain ⟨xs, hxs, hlen, hfit⟩ := ih fun w hw => h w (List.mem_cons_of_mem _ hw)
    have hv : symbolOfValue sel v = .ok (symbolOf sel v, v - (vbase sel).getD (symbolOf sel v) 0) :=
      raiseIf_neg (decide_eq_false (Nat.not_lt.mpr (h v List.mem_cons_self))) _ _ _
    obtain ⟨hx, -, hb⟩ := symbolOfValue_ok hv
    refine ⟨_ :: xs, by rw [valueSymbols, hv, hxs], by rw [List.length_cons, hlen, List.length_cons], fun x hmem => ?_⟩
    rcases List.mem_cons.mp hmem with rfl | hmem
    · exact ⟨hx, hb⟩
    · exact hfit x hmem

theorem valueList_le {s : State} (h : EncArraysLegal s.enc) (sel : VSel) : ∀ v ∈ valueList sel s, v ≤ maxValue sel := by
  intro v hv
  obtain ⟨i, -, rfl⟩ := List.mem_map.mp hv
  cases sel with
  | l => exact h.lValues i
  | m => exact h.mValues i
  | d => exact h.dValues i

theorem valueList_length (sel : VSel) (s : State) : (valueList sel s).length = s.enc.nMatches.toNat := by
  rw [valueList, List.length_map, List.length_range]

theorem blockSymbols_ok {s : State} (h : EncArraysLegal s.enc) : ∃ b, blockSymbols s = .ok b ∧ SymbolsFit b := by
  obtain ⟨l, hl, nl, fl⟩ := valueSymbols_ok .l (valueList_le h .l)
  obtain ⟨m, hm, nm, fm⟩ := valueSymbols_ok .m (valueList_le h .m)
  obtain ⟨d, hd, nd, fd⟩ := valueSymbols_ok .d (valueList_le h .d)
  have hmatches := h.nMatches
  rw [valueList_length] at nl nm nd
  refine ⟨⟨l, m, d, encLitList s⟩, by rw [blockSymbols, hl, hm, hd], fl, fm, fd, fun x hx => ?_, nl.le.trans hmatches, ?_⟩
  · obtain ⟨i, -, rfl⟩ := List.mem_map.mp hx
    exact BitVec.isLt _
  · intro sel
    cases sel with
    | l => simp only [symbolsOf, List.length_map]; omega
    | m => simp only [symbolsOf, List.length_map]; omega
    | d => simp only [symbolsOf, List.length_map]; omega
    | lit => simpa only [symbolsOf, encLitList, List.length_map, List.length_range] using h.nLits

/-- Padding does not fill the literals beyond their limit, a multiple of 4 (R259). -/
theorem preparedEnc_legal {s : State} (h : EncArraysLegal s.enc) : EncArraysLegal (preparedEnc s) where
  nMatches := h.nMatches
  nLits := by
    have hn := h.nLits
    refine ofNat32_toNat_le ?_
    unfold padCount
    omega
  lValues := h.lValues
  mValues := h.mValues
  dValues := preparedEnc_dValues h.dValues

/-! The tables made of them (R261, R262): -/

theorem occOfList_read {f : List Nat} {n : Nat} (h : f.length = n) (hf : ∀ x ∈ f, x < 2 ^ 32) :
    (sparseList 0 (occOfList f) n).map BitVec.toNat = f := by
  apply List.ext_getElem
  · simp [sparseList, h]
  · intro i h1 hi
    have e := sparseGet_from (0 : U32) (f.map (BitVec.ofNat 32)) 0 i
    rw [Nat.zero_add] at e
    simp only [sparseList, occOfList, List.getElem_map, List.getElem_range, e]
    rw [List.getD_eq_getElem _ _ (by simpa using hi), List.getElem_map]
    exact ofNat32_toNat (hf _ (List.getElem_mem hi))

theorem countSymbols_length (n : Nat) (xs : List Nat) : (countSymbols n xs).length = n := by
  rw [countSymbols, List.length_map, List.length_range]

theorem countSymbols_getD {n x : Nat} (hx : x < n) (xs : List Nat) : (countSymbols n xs).getD x 0 = xs.count x := by
  simp [countSymbols, hx]

theorem countSymbols_le {n c : Nat} {xs : List Nat} (hc : c ∈ countSymbols n xs) : c ≤ xs.length := by
  obtain ⟨i, -, rfl⟩ := List.mem_map.mp hc
  exact List.count_le_length

theorem countSymbols_sum_le (n : Nat) (xs : List Nat) : (countSymbols n xs).sum ≤ n * xs.length := by
  have h := List.sum_le_card_nsmul (countSymbols n xs) xs.length fun _ => countSymbols_le
  rwa [countSymbols_length, smul_eq_mul] at h

theorem histograms_occ (b : BlockSymbols) (s : State) (sel : Sel) :
    (histograms b s).occ.get sel = occOfList (countSymbols (nsym sel) (symbolsOf b sel)) := by
  cases sel <;> rfl

theorem histograms_occList {b : BlockSymbols} (h : SymbolsFit b) (s : State) (sel : Sel) :
    (histograms b s).occList sel = countSymbols (nsym sel) (symbolsOf b sel) := by
  rw [State.occList, histograms_occ]
  refine occOfList_read (countSymbols_length _ _) fun c hc => ?_
  have := (countSymbols_le hc).trans (h.length sel)
  omega

/-- The frequencies that NORMALIZE makes for a block: they fill the states, and every symbol of the block has some. -/
structure FreqsFor (b : BlockSymbols) (sel : Sel) (f : List Nat) : Prop where
  length : f.length = nsym sel
  sum : f.sum = nstates sel
  used : ∀ x ∈ symbolsOf b sel, f.getD x 0 ≠ 0

theorem normalized_ok {b : BlockSymbols} (h : SymbolsFit b) (s : State) (sel : Sel) :
    ∃ f, normalized (histograms b s) sel = .ok f ∧ FreqsFor b sel f := by
  have hlen := countSymbols_length (nsym sel) (symbolsOf b sel)
  have hsum : (countSymbols (nsym sel) (symbolsOf b sel)).sum < 2 ^ 32 := by
    have hle := (countSymbols_sum_le (nsym sel) (symbolsOf b sel)).trans (Nat.mul_le_mul_left _ (h.length sel))
    cases sel <;> simp only [nsym] at hle ⊢ <;> omega
  obtain ⟨hpos, hstates⟩ := nsym_le_nstates sel
  obtain ⟨f, k, hf, hto⟩ := normalizeCounts_spec (n := nstates sel) (hlen.symm ▸ hpos) (hlen.symm ▸ hstates) hsum
  rw [← histograms_occList h s sel] at hf
  have hn : normalized (histograms b s) sel = .ok f := by rw [normalized, hf]
  refine ⟨f, hn, normalized_length hn, hto.sum, fun x hx => Nat.pos_iff_ne_zero.mp (hto.used x ?_)⟩
  rw [countSymbols_getD (h.lt sel x hx)]
  exact (List.count_pos_iff.mpr hx).ne'

/-- FREQ and ENC are the tables for a block. -/
structure TablesFor (b : BlockSymbols) (t : State) : Prop where
  encTab (sel : Sel) : t.encTab.get sel = encTable (nstates sel) (t.freqList sel)
  total (sel : Sel) : (t.freqList sel).sum = nstates sel
  used (sel : Sel) : ∀ x ∈ symbolsOf b sel, x < nsym sel ∧ freqAt t sel x ≠ 0

theorem buildTables_ok {b : BlockSymbols} (h : SymbolsFit b) (s : State) :
    ∃ t, buildTables (histograms b s) = .ok t ∧ TablesFor b t := by
  choose f hf hfor using normalized_ok h s
  have hlist (sel : Sel) : (setTables (f .l) (f .m) (f .d) (f .lit) (histograms b s)).freqList sel = f sel := by
    refine freqList_put (hfor sel).length ?_ (by cases sel <;> rfl)
    rw [(hfor sel).sum]
    cases sel <;> decide
  refine ⟨_, by rw [buildTables, hf .l, hf .m, hf .d, hf .lit], fun sel => ?_, fun sel => ?_, fun sel x hx => ?_⟩
  · rw [hlist]
    cases sel <;> rfl
  · rw [hlist, (hfor sel).sum]
  · have hlt := h.lt sel x hx
    exact ⟨hlt, by rw [← freqList_getD hlt, hlist]; exact (hfor sel).used x hx⟩

/-! The payloads coded with them (R263, R264): -/

/-- A step of the coder that ends in a state below `n`, having pushed at most `width` bits. -/
def Encodes (n width : Nat) (o : OutAcc) (r : Except Trap (OutAcc × Nat)) : Prop :=
  ∃ o' y, r = .ok (o', y) ∧ y < n ∧ outHeld o' ∧ o'.nbits ≤ o.nbits + width

theorem fseEncode_bits {tab : Sparse EncEntry} {o o' : OutAcc} {st i nb : Nat} {d : Int} {e : EncEntry}
    (hfind : sparseFind tab i = some e) (h : fseEncode tab o st i = .ok (o', d, nb)) : nb = encodeBits e st := by
  rw [fseEncode_some hfind] at h
  cases hp : outPush o (encodeBits e st) (st % 2 ^ encodeBits e st) with
  | error f =>
    rw [hp] at h
    cases h
  | ok o1 =>
    rw [hp, Except.map] at h
    injection h with h
    exact (congrArg (fun x => x.2.2) h).symm

section Coding

variable {b : BlockSymbols} {t : State} (T : TablesFor b t)

include T

theorem encodeSymbol_encodes {sel : Sel} {o : OutAcc} {st x : Nat} (hx : x ∈ symbolsOf b sel) (hst : st < nstates sel)
    (ho : outHeld o) (hroom : o.nbits + Nat.log2 (nstates sel) ≤ 64) :
    Encodes (nstates sel) (Nat.log2 (nstates sel)) o (encodeSymbol (t.encTab.get sel) o st x) := by
  obtain ⟨hlt, hf⟩ := T.used sel x hx
  have htotal : freqTotal t sel ≤ nstates sel := by rw [freqTotal_eq, T.total sel]
  have hle := freqBefore_add_le (s := t) hlt
  obtain ⟨o', j, nb, d, h⟩ := encodesSymbol htotal hlt hf hst ho hroom
  have henc := h.encode
  have hj := h.lt
  have hbits : nb ≤ Nat.log2 (nstates sel) := by
    rw [fseEncode_bits ((encTable_find hlt _).trans (if_neg hf)) henc]
    exact encodeBits_le (stateCount_nstates sel) hf (hle.trans htotal) st
  have hsym : encodeSymbol (t.encTab.get sel) o st x = .ok (o', freqBefore t sel x + j) := by
    rw [T.encTab, encodeSymbol, h.encode]
    rfl
  refine ⟨o', _, hsym, by omega, encodeSymbol_held hsym ho.sound, ?_⟩
  rw [h.nbits]
  omega

/-- The most bits a value takes: its extra bits and its symbol's. -/
def valueWidth : VSel → Nat
  | .l => 14
  | .m => 17
  | .d => 23

omit T in
theorem vbits_valueWidth (sel : VSel) : ∀ i, i < nsym (streamOf sel) →
    (vbits sel).getD i 0 + Nat.log2 (nstates (streamOf sel)) ≤ valueWidth sel := by
  cases sel <;> decide

theorem encodeValue_encodes {sel : VSel} {o : OutAcc} {st : Nat} {x : Nat × Nat} (hx : x.1 ∈ symbolsOf b (streamOf sel))
    (hfit : symbolFits sel x) (hst : st < nstates (streamOf sel)) (ho : outHeld o) (hroom : o.nbits + valueWidth sel ≤ 64) :
    Encodes (nstates (streamOf sel)) (valueWidth sel) o (encodeValue sel (t.encTab.get (streamOf sel)) o st x) := by
  obtain ⟨hlt, hextra⟩ := hfit
  have hwidth := vbits_valueWidth sel x.1 hlt
  obtain ⟨o1, hpush, ho1, hn1, -⟩ := outPush_adds hextra ho (by omega)
  obtain ⟨o', y, hsym, hy, ho', hn⟩ := encodeSymbol_encodes T hx hst ho1 (by omega)
  exact ⟨o', y, by rw [encodeValue, hpush]; exact hsym, hy, ho', by omega⟩

/-- The literal states are states. -/
structure LitStatesFit (x : LitStates) : Prop where
  s0 : x.s0 < 1024
  s1 : x.s1 < 1024
  s2 : x.s2 < 1024
  s3 : x.s3 < 1024

/-- A payload between two groups: fewer than 8 bits wait in OUT, and its bytes are at most `n`. -/
structure Steady (n : Nat) (p : Payload) : Prop where
  held : outHeld p.out
  few : p.out.nbits ≤ 7
  short : p.bytes.length ≤ n

omit T in
theorem steady_flush {n : Nat} {p : Payload} {o : OutAcc} (h : p.bytes.length ≤ n) (ho : outHeld o) :
    Steady (n + 8) (flushPayload { p with out := o }) := by
  obtain ⟨hheld, h7⟩ := outFlushed_held ho
  obtain ⟨h0, h64, -⟩ := ho
  have hbytes : (outFlushBytes o).length = o.nbits.toNat / 8 := leBytes_length _ _
  refine ⟨hheld, h7, ?_⟩
  simp only [flushPayload, List.length_append, hbytes]
  omega

theorem encodeGroup_ok {x : LitStates} {o : OutAcc} {b0 b1 b2 b3 : Nat} (h0 : b0 ∈ b.lits) (h1 : b1 ∈ b.lits)
    (h2 : b2 ∈ b.lits) (h3 : b3 ∈ b.lits) (hx : LitStatesFit x) (ho : outHeld o) (h7 : o.nbits ≤ 7) :
    ∃ x' o', encodeGroup t.encTab.lit x o b0 b1 b2 b3 = .ok (x', o') ∧ LitStatesFit x' ∧ outHeld o' := by
  have step {o : OutAcc} {st y : Nat} (hy : y ∈ b.lits) (hst : st < 1024) (ho : outHeld o) (hroom : o.nbits + 10 ≤ 64) :
      Encodes 1024 10 o (encodeSymbol t.encTab.lit o st y) := encodeSymbol_encodes T (sel := .lit) hy hst ho hroom
  obtain ⟨o3, y3, e3, l3, k3, n3⟩ := step h3 hx.s3 ho (by omega)
  obtain ⟨o2, y2, e2, l2, k2, n2⟩ := step h2 hx.s2 k3 (by omega)
  obtain ⟨o1, y1, e1, l1, k1, n1⟩ := step h1 hx.s1 k2 (by omega)
  obtain ⟨o0, y0, e0, l0, k0, -⟩ := step h0 hx.s0 k1 (by omega)
  exact ⟨⟨y0, y1, y2, y3⟩, o0, by rw [encodeGroup, e3]; simp only [e2, e1, e0], ⟨l0, l1, l2, l3⟩, k0⟩

theorem encodeGroups_ok (room : Nat) {l : List Nat} {x : LitStates} {p : Payload} {n : Nat} (hl : ∀ y ∈ l, y ∈ b.lits)
    (hx : LitStatesFit x) (hp : Steady n p) : ∃ c x' p', encodeGroups t.encTab.lit room l x p = .ok (c, x', p') ∧
      LitStatesFit x' ∧ Steady (n + 2 * l.length) p' := by
  induction l, x, p using encodeGroups.induct t.encTab.lit room generalizing n with
  | case1 b3 b2 b1 b0 r x p hroom =>
    exact ⟨false, x, p, by rw [encodeGroups, if_pos hroom], hx, hp.held, hp.few, hp.short.trans (Nat.le_add_right _ _)⟩
  | case2 b3 b2 b1 b0 r x p hroom e he =>
    obtain ⟨x', o', hok, -⟩ := encodeGroup_ok T (hl b0 (by simp)) (hl b1 (by simp)) (hl b2 (by simp)) (hl b3 (by simp))
      hx hp.held hp.few
    rw [hok] at he
    cases he
  | case3 b3 b2 b1 b0 r x p hroom x' o he ih =>
    obtain ⟨x1, o1, hok, hx1, ho1⟩ := encodeGroup_ok T (hl b0 (by simp)) (hl b1 (by simp)) (hl b2 (by simp))
      (hl b3 (by simp)) hx hp.held hp.few
    rw [hok] at he
    cases he
    obtain ⟨c, x2, p2, heq, hx2, hp2⟩ := ih (fun y hy => hl y (by simp [hy])) hx1 (steady_flush hp.short ho1)
    refine ⟨c, x2, p2, by rw [encodeGroups, if_neg hroom, hok]; exact heq, hx2, hp2.held, hp2.few, ?_⟩
    have := hp2.short
    simp only [List.length_cons]
    omega
  | case4 l x p hshort =>
    refine ⟨true, x, p, ?_, hx, hp.held, hp.few, hp.short.trans (Nat.le_add_right _ _)⟩
    rw [encodeGroups]
    exact hshort

/-- The states of ENCODE_LMD are states. -/
structure LmdStatesFit (x : LmdStates) : Prop where
  l : x.l < 64
  m : x.m < 64
  d : x.d < 256

theorem encodeTriplet_ok (hb : SymbolsFit b) {x : LmdStates} {o : OutAcc} {l m d : Nat × Nat} (hl : l ∈ b.l) (hm : m ∈ b.m)
    (hd : d ∈ b.d) (hx : LmdStatesFit x) (ho : outHeld o) (h7 : o.nbits ≤ 7) :
    ∃ x' o', encodeTriplet t.encTab x o l m d = .ok (x', o') ∧ LmdStatesFit x' ∧ outHeld o' := by
  obtain ⟨oD, yd, eD, ld, kd, nd⟩ := encodeValue_encodes T (sel := .d) (List.mem_map_of_mem hd) (hb.d d hd) hx.d ho
    (show o.nbits + (23 : Nat) ≤ 64 by omega)
  simp only [valueWidth] at nd
  obtain ⟨oM, ym, eM, lm, km, nm⟩ := encodeValue_encodes T (sel := .m) (List.mem_map_of_mem hm) (hb.m m hm) hx.m kd
    (show oD.nbits + (17 : Nat) ≤ 64 by omega)
  simp only [valueWidth] at nm
  obtain ⟨oL, yl, eL, ll, kl, -⟩ := encodeValue_encodes T (sel := .l) (List.mem_map_of_mem hl) (hb.l l hl) hx.l km
    (show oM.nbits + (14 : Nat) ≤ 64 by omega)
  simp only [streamOf, Quad.get] at eD eM eL
  exact ⟨⟨yl, ym, yd⟩, oL, by rw [encodeTriplet, eD]; simp only [eM, eL], ⟨ll, lm, ld⟩, kl⟩

theorem encodeTriplets_ok (hb : SymbolsFit b) (room : Nat) {ts : List ((Nat × Nat) × (Nat × Nat) × (Nat × Nat))}
    {x : LmdStates} {p : Payload} {n : Nat} (hts : ∀ c ∈ ts, c.1 ∈ b.l ∧ c.2.1 ∈ b.m ∧ c.2.2 ∈ b.d) (hx : LmdStatesFit x)
    (hp : Steady n p) : ∃ c x' p', encodeTriplets t.encTab room ts x p = .ok (c, x', p') ∧
      LmdStatesFit x' ∧ Steady (n + 8 * ts.length) p' := by
  induction ts generalizing x p n with
  | nil => exact ⟨true, x, p, rfl, hx, hp⟩
  | cons c r ih =>
    obtain ⟨l, m, d⟩ := c
    obtain ⟨hl, hm, hd⟩ := hts _ List.mem_cons_self
    rw [encodeTriplets]
    split
    · exact ⟨false, x, p, rfl, hx, hp.held, hp.few, hp.short.trans (Nat.le_add_right _ _)⟩
    · obtain ⟨x1, o1, hok, hx1, ho1⟩ := encodeTriplet_ok T hb hl hm hd hx hp.held hp.few
      rw [hok]
      obtain ⟨e, x2, p2, heq, hx2, hp2⟩ := ih (fun c hc => hts c (List.mem_cons_of_mem _ hc)) hx1 (steady_flush hp.short ho1)
      refine ⟨e, x2, p2, heq, hx2, hp2.held, hp2.few, ?_⟩
      have := hp2.short
      rw [List.length_cons]
      omega

end Coding

/-! The header of a block that fits (R184, R265): -/

/-- A finished payload: its bit count and its length fit their packed fields. -/
theorem Steady.finish {n : Nat} {p : Payload} (h : Steady n p) (hn : n < 2 ^ 20 - 1) :
    (-7 ≤ (BitVec.ofInt 32 (finishPayload p).out.nbits).toInt ∧ (BitVec.ofInt 32 (finishPayload p).out.nbits).toInt ≤ 0) ∧
    (BitVec.ofNat 32 (finishPayload p).bytes.length).toNat < 2 ^ 20 := by
  obtain ⟨⟨h0, -, -⟩, h7, hshort⟩ := h
  have hbits : (finishPayload p).out.nbits = p.out.nbits - 8 * (outFinishCount p.out : Int) := rfl
  have hbytes : (finishPayload p).bytes.length = p.bytes.length + outFinishCount p.out := by
    rw [finishPayload, List.length_append, outFinishBytes, leBytes_length]
  have hcount : outFinishCount p.out = (p.out.nbits.toNat + 7) / 8 := rfl
  rw [hbytes, BitVec.toInt_ofInt, Int.bmod_def, hbits, BitVec.toNat_ofNat]
  omega

theorem ofNat16_toNat_lt {n m : Nat} (h : n < m) : (BitVec.ofNat 16 n).toNat < m := by
  rw [BitVec.toNat_ofNat]
  exact (Nat.mod_le _ _).trans_lt h

/-- The header fields that ENCODE_LITERALS sets fit (R263). -/
structure LiteralFieldsFit (h : Hdr) : Prop where
  bytes : h.nLiteralPayloadBytes.toNat < 2 ^ 20
  bits : -7 ≤ h.literalBits.toInt ∧ h.literalBits.toInt ≤ 0
  state0 : h.literalState0.toNat < 2 ^ 10
  state1 : h.literalState1.toNat < 2 ^ 10
  state2 : h.literalState2.toNat < 2 ^ 10
  state3 : h.literalState3.toNat < 2 ^ 10

/-- The header fields that ENCODE_LMD sets fit (R264). -/
structure LmdFieldsFit (h : Hdr) : Prop where
  bytes : h.nLmdPayloadBytes.toNat < 2 ^ 20
  bits : -7 ≤ h.lmdBits.toInt ∧ h.lmdBits.toInt ≤ 0
  lState : h.lState.toNat < 2 ^ 10
  mState : h.mState.toNat < 2 ^ 10
  dState : h.dState.toNat < 2 ^ 10

/-- A payload stage that does not fault; where it is done, only OUT and HDR changed, and the header meets `Q`. -/
def StageOk (Q : Hdr → Prop) (s : State) (r : Except Trap Stage) : Prop :=
  (∃ u, r = .ok (.full u)) ∨ ∃ bytes o h, r = .ok (.done bytes { s with out := o, hdr := h }) ∧ Q h

theorem encodeLiterals_stage {b : BlockSymbols} {t : State} (T : TablesFor b t) (hb : SymbolsFit b) (q : Nat) :
    StageOk LiteralFieldsFit t (encodeLiterals q b t) := by
  obtain ⟨c, x, p, heq, hx, hp⟩ := encodeGroups_ok T (t.enc.dstEnd.toNat - q) (l := b.lits.reverse)
    (x := { s0 := 0, s1 := 0, s2 := 0, s3 := 0 }) (p := { bytes := [], out := OutAcc.zero }) (n := 0)
    (fun y hy => List.mem_reverse.mp hy) ⟨by decide, by decide, by decide, by decide⟩
    ⟨outHeld_zero, by decide, le_rfl⟩
  have hlen := hb.length .lit
  simp only [symbolsOf] at hlen
  rw [List.length_reverse] at hp
  obtain ⟨hbits, hbytes⟩ := hp.finish (by omega)
  rw [encodeLiterals, heq]
  cases c with
  | false => exact .inl ⟨_, rfl⟩
  | true =>
    exact .inr ⟨_, _, _, rfl, hbytes, hbits, ofNat16_toNat_lt hx.s0, ofNat16_toNat_lt hx.s1, ofNat16_toNat_lt hx.s2,
      ofNat16_toNat_lt hx.s3⟩

theorem encodeLmd_stage {b : BlockSymbols} {t : State} (T : TablesFor b t) (hb : SymbolsFit b) (q : Nat) :
    StageOk (fun h => LmdFieldsFit h ∧ (LiteralFieldsFit t.hdr → LiteralFieldsFit h)) t (encodeLmd q b t) := by
  have hmem : ∀ c ∈ (b.l.zip (b.m.zip b.d)).reverse, c.1 ∈ b.l ∧ c.2.1 ∈ b.m ∧ c.2.2 ∈ b.d := fun c hc => by
    obtain ⟨hl, hmd⟩ := List.of_mem_zip (List.mem_reverse.mp hc)
    exact ⟨hl, List.of_mem_zip hmd⟩
  obtain ⟨c, x, p, heq, hx, hp⟩ := encodeTriplets_ok T hb (t.enc.dstEnd.toNat - q) (x := { l := 0, m := 0, d := 0 })
    (p := { bytes := List.replicate 8 0, out := OutAcc.zero }) (n := 8) hmem ⟨by decide, by decide, by decide⟩
    ⟨outHeld_zero, by decide, by decide⟩
  have hlen := hb.triplets
  rw [List.length_reverse, List.length_zip] at hp
  obtain ⟨hbits, hbytes⟩ := hp.finish (by omega)
  unfold encodeLmd
  split
  · exact .inl ⟨_, rfl⟩
  · rw [heq]
    cases c with
    | false => exact .inl ⟨_, rfl⟩
    | true =>
      exact .inr ⟨_, _, _, rfl,
        ⟨hbytes, hbits, ofNat16_toNat_lt (hx.l.trans (by decide)), ofNat16_toNat_lt (hx.m.trans (by decide)),
          ofNat16_toNat_lt (hx.d.trans (by decide))⟩,
        fun h => ⟨h.bytes, h.bits, h.state0, h.state1, h.state2, h.state3⟩⟩

/-- Tables that fill the states have no frequency beyond 1024. -/
theorem concatFreq_le {s : State} (h : ∀ sel, (s.freqList sel).sum = nstates sel) {i : Nat} (hi : i < 360) :
    concatFreq s i ≤ 1047 := by
  have le (sel : Sel) {j : Nat} (hj : j < nsym sel) : freqAt s sel j ≤ 1047 := by
    have h1 : freqAt s sel j ≤ freqTotal s sel := (Nat.le_add_left _ _).trans (freqBefore_add_le hj)
    have h2 := (stateCount_nstates sel).le_1024
    rw [freqTotal_eq, h sel] at h1
    omega
  unfold concatFreq
  split
  · exact le .l ‹_›
  · split
    · exact le .m (by simp only [nsym]; omega)
    · split
      · exact le .d (by simp only [nsym]; omega)
      · exact le .lit (by simp only [nsym]; omega)

/-- WRITE_HEADER finds every field in its range. -/
theorem closeBlock_writes {s : State} (hlits : s.enc.nLits.toNat ≤ 40000) (hmatches : s.enc.nMatches.toNat ≤ 10000)
    (hL : LiteralFieldsFit s.hdr) (hM : LmdFieldsFit s.hdr) (hfreq : ∀ sel, (s.freqList sel).sum = nstates sel) (n : Nat)
    (payload : List U8) : ∃ t, closeBlock n payload s = .ok t := by
  have hfits (id : Nat) : fieldFits { s with hdr := finalHeader s } id := by
    unfold fieldFits
    split
    · exact hlits.trans_lt (by decide)
    · exact hL.bytes
    · exact hmatches.trans_lt (by decide)
    · exact hL.bits
    · exact hL.state0
    · exact hL.state1
    · exact hL.state2
    · exact hL.state3
    · exact hM.bytes
    · exact hM.bits
    · exact hM.lState
    · exact hM.mState
    · exact hM.dState
    · exact fun _ _ => concatFreq_le (s := { s with hdr := finalHeader s }) hfreq (by omega)
  have hnone : fieldOverflow (finalHeader s) s.allFreqs = none := by
    rcases fieldOverflow_cases { s with hdr := finalHeader s } with ⟨hnone, -⟩ | ⟨id, hbad, -⟩
    · exact hnone
    · exact absurd (hfits id) hbad
  exact ⟨_, by rw [closeBlock, hnone, raiseOpt_none]⟩

theorem emitPayload_ends {b : BlockSymbols} {t : State} (T : TablesFor b t) (hb : SymbolsFit b)
    (hlits : t.enc.nLits.toNat ≤ 40000) (hmatches : t.enc.nMatches.toNat ≤ 10000) (s0 : State) :
    ∃ c u, emitPayload s0 b t = .ok (c, u) := by
  unfold emitPayload
  dsimp only
  obtain ⟨u, hfull⟩ | ⟨lits, o, h, hdone, hL⟩ := encodeLiterals_stage T hb (t.enc.dstPos.toNat + t.hdrSize.toNat)
  · rw [hfull]
    exact ⟨_, _, rfl⟩
  · rw [hdone]
    have T1 : TablesFor b { t with out := o, hdr := h } := ⟨T.encTab, T.total, T.used⟩
    obtain ⟨u, hfull⟩ | ⟨lmd, o', h', hdone', hM, hkeep⟩ :=
      encodeLmd_stage T1 hb (t.enc.dstPos.toNat + t.hdrSize.toNat + lits.length)
    · simp only [hfull]
      exact ⟨_, _, rfl⟩
    · obtain ⟨v, hv⟩ := closeBlock_writes (s := { t with out := o', hdr := h' }) hlits hmatches (hkeep hL) hM
        T.total s0.enc.nLits.toNat (lits ++ lmd)
      simp only [hdone', hv]
      exact ⟨_, _, rfl⟩

/-- EMIT_BLOCK on legal arrays ends with a status. -/
theorem emitBlock_ends {s : State} (h : EncArraysLegal s.enc) : ∃ c t, emitBlock s = .ok (c, t) := by
  unfold emitBlock
  split
  · exact ⟨_, _, rfl⟩
  · have hp : EncArraysLegal (substituteDistances (padLiterals s)).enc := preparedEnc_legal h
    obtain ⟨b, hb, hfit⟩ := blockSymbols_ok hp
    unfold emitFilled
    simp only [hb]
    split
    · exact ⟨_, _, rfl⟩
    · obtain ⟨t, ht, T⟩ := buildTables_ok hfit (substituteDistances (padLiterals s))
      obtain ⟨-, henc, -⟩ := buildTables_header ht
      rw [ht]
      have ht' : EncArraysLegal t.enc := henc ▸ hp
      exact emitPayload_ends T hfit ht'.nLits ht'.nMatches s

/-! ### What keeps the encoder's context sound and standing in the source -/

/-- The block and what it replays. -/
def blockView (s : State) :=
  (s.src, s.enc.srcBegin, s.enc.srcLiteral, s.enc.nMatches, s.enc.nLits, s.enc.lValues, s.enc.mValues, s.enc.dValues, s.enc.lits)

/-- Everything that `encSound` and `encReal` speak of. -/
def encView (s : State) := (pushView s, blockView s, s.dec.nLits)

section Kept

variable {s t : State}

/-- Offsets counted from an origin δ further on replay the same bytes. -/
theorem replays_moved {δ : Int} (hsrc : ∀ i, srcByteAt t i = srcByteAt s (i + δ))
    (hlit : t.enc.srcLiteral.toInt + δ = s.enc.srcLiteral.toInt) (hn : t.enc.nLits = s.enc.nLits)
    (hl : t.enc.lits = s.enc.lits) {o : Int} {q : Nat} {ts : List (Nat × Nat × Nat)} (h : replays s (o + δ) q ts) :
    replays t o q ts := by
  induction ts generalizing o q with
  | nil =>
    obtain ⟨ho, hq⟩ := h
    exact ⟨by omega, hn ▸ hq⟩
  | cons c r ih =>
    obtain ⟨l, m, d⟩ := c
    obtain ⟨hlits, hmatch, hr⟩ := h
    refine ⟨fun i hi => ?_, fun i hi => ?_, ih ?_⟩
    · rw [hl, hsrc, add_right_comm]
      exact hlits i hi
    · rw [hsrc, hsrc, show o + l + i + δ = o + δ + l + i by omega, show o + l + i - d + δ = o + δ + l + i - d by omega]
      exact hmatch i hi
    · rwa [show o + l + m + δ = o + δ + l + m by omega]

theorem blockReal_of_view (h : blockView t = blockView s) (hs : blockReal s) : blockReal t := by
  simp only [blockView, Prod.mk.injEq] at h
  obtain ⟨hsrc, hbegin, hlit, hm, hn, hlv, hmv, hdv, hl⟩ := h
  obtain ⟨o, ho⟩ := hs
  have htriplets : blockTriplets t = blockTriplets s := by
    simp only [blockTriplets, valueAt, State.values, hm, hlv, hmv, hdv]
  refine ⟨o, htriplets ▸ replays_moved (δ := 0) (fun i => ?_) ?_ hn hl ?_⟩
  · simp only [srcByteAt, hsrc, hbegin, add_zero]
  · rw [hlit, add_zero]
  · rwa [add_zero]

theorem encSourceSound_of_view (h : sourceView t = sourceView s) (h0 : 0 ≤ t.enc.srcLiteral.toInt)
    (hlit : t.enc.srcLiteral.toInt ≤ s.enc.srcLimit.toNat) (hs : encSourceSound s) : encSourceSound t := by
  obtain ⟨hlo, hsize, hmax, hend, hi, -, -⟩ := hs
  obtain ⟨-, hss, hsrcLo, hbegin, hlimit, he, hei, -⟩ := sourceView_eq h
  unfold encSourceSound
  rw [hss, hsrcLo, hbegin, hlimit, he, hei]
  exact ⟨hlo, hsize, hmax, hend, hi, h0, hlit⟩

theorem historySound_of_view (h : sourceView t = sourceView s)
    (hs : ∀ k, ∀ e ∈ bucketList (sparseGet emptyBucket s.enc.hist k), historyPairSound s e) :
    ∀ k, ∀ e ∈ bucketList (sparseGet emptyBucket t.enc.hist k), historyPairSound t e := by
  obtain ⟨-, -, hsrcLo, hbegin, -, -, hei, hhist⟩ := sourceView_eq h
  intro k e he
  unfold historyPairSound
  rw [hsrcLo, hbegin, hei]
  exact hs k e (hhist ▸ he)

theorem historyReal_of_view (h : sourceView t = sourceView s) (hs : historyReal s) : historyReal t := by
  obtain ⟨hsrc, -, -, hbegin, -, -, -, hhist⟩ := sourceView_eq h
  intro k e he
  rw [hsrc, hbegin]
  exact hs k e (hhist ▸ he)

/-- With the source side as it was, soundness is about ENC.src_literal, the pending match and the arrays. -/
theorem encSound_of_view (hs : encSound s) (h : sourceView t = sourceView s) (hp : t.enc.poisoned = false)
    (h0 : 0 ≤ t.enc.srcLiteral.toInt) (hlit : t.enc.srcLiteral.toInt ≤ s.enc.srcLimit.toNat) (hpend : pendingSound t)
    (ha : arraysLegal t) : encSound t := by
  obtain ⟨-, hsource, -, -, hhist⟩ := hs
  exact ⟨hp, encSourceSound_of_view h h0 hlit hsource, hpend, ha, historySound_of_view h hhist⟩

theorem pendingSound_congr (hp : t.enc.pending = s.enc.pending) (hlit : t.enc.srcLiteral = s.enc.srcLiteral)
    (hlimit : t.enc.srcLimit = s.enc.srcLimit) (hs : pendingSound s) : pendingSound t := by
  unfold pendingSound
  rwa [hp, hlit, hlimit]

theorem pendingReal_of_view (h : sourceView t = sourceView s) (hp : t.enc.pending = s.enc.pending) (hs : pendingReal s) :
    pendingReal t := by
  unfold pendingReal
  rw [hp]
  exact hs.imp id (matchReal_of_view h)

theorem encSound_congr (h : encView t = encView s) (hs : encSound s) : encSound t := by
  obtain ⟨hp, ⟨hlo, hsize, hmax, hend, hi, h0, hlit⟩, hpend, ha, hhist⟩ := id hs
  simp only [encView, Prod.mk.injEq] at h
  obtain ⟨hpush, hblock, hdec⟩ := h
  obtain ⟨hview, hpending, hpoisoned⟩ := pushView_eq hpush
  obtain ⟨-, -, -, -, hlimit, -⟩ := sourceView_eq hview
  simp only [blockView, Prod.mk.injEq] at hblock
  obtain ⟨-, -, hliteral, hm, hn, hlv, hmv, hdv, -⟩ := hblock
  refine encSound_of_view hs hview (hpoisoned.trans hp) (hliteral ▸ h0) (hliteral ▸ hlit)
    (pendingSound_congr hpending hliteral hlimit hpend) ?_
  simpa only [arraysLegal, valueAt, State.values, hm, hn, hlv, hmv, hdv, hdec] using ha

theorem encReal_congr (h : encView t = encView s) (hs : encReal s) : encReal t := by
  obtain ⟨hhist, hpend, hblock⟩ := hs
  simp only [encView, Prod.mk.injEq] at h
  obtain ⟨hpush, hb, -⟩ := h
  obtain ⟨hview, hpending, -⟩ := pushView_eq hpush
  exact ⟨historyReal_of_view hview hhist, pendingReal_of_view hview hpending hpend, blockReal_of_view hb hblock⟩

theorem encSource_of_sound (h : encSound s) : encSourceSound s := h.2.1

theorem encOpen_of_sound (h : encSound s) : encSourceOpen s := encSourceOpen_of_sound h.2.1

theorem encLegal_of_sound (h : encSound s) : arraysLegal s := h.2.2.2.1

end Kept

/-! ### BACKEND_MATCH and EMIT_BLOCK in a sound context (46_encoder_backend.md R254, R258) -/

/-- A body that never faults: where it ends with ERROR the context is poisoned, else `P` holds of the state. -/
inductive Answers (P : State → Prop) : Except Trap (Bool × State) → Prop
  | error {t : State} : t.enc.poisoned = true → Answers P (.ok (false, t))
  | done {t : State} : P t → Answers P (.ok (true, t))

theorem Answers.imp {P Q : State → Prop} {r : Except Trap (Bool × State)} (h : Answers P r)
    (hPQ : ∀ t, r = .ok (true, t) → P t → Q t) : Answers Q r := by
  cases h with
  | error hp => exact .error hp
  | done hP => exact .done (hPQ _ rfl hP)

theorem emitBlock_enc {s t : State} {b : Bool} (h : emitBlock s = .ok (b, t)) :
    pushView t = pushView s ∧ t.enc.srcLiteral = s.enc.srcLiteral := by
  have hkey := emitBlock_key h
  simp only [encKey, Prod.mk.injEq] at hkey
  obtain ⟨-, -, -, -, -, -, -, -, -, -, -, -, -, -, -, -, hsrc, hss, -, -⟩ := hkey
  simp only [pushView, sourceView, hsrc, hss]
  rcases emitBlock_cases h with ⟨-, rfl⟩ | ⟨u, -, henc, ⟨-, rfl⟩ | ⟨-, payload, hclose, -⟩⟩
  · exact ⟨rfl, rfl⟩
  · rw [rollback_enc]
    dsimp only [releaseEncArrays]
    rw [henc]
    exact ⟨rfl, rfl⟩
  · obtain ⟨-, hc⟩ := closeBlock_ok hclose
    rw [hc, henc]
    exact ⟨rfl, rfl⟩

/-- An empty block replays nothing. -/
theorem blockReal_empty {s : State} (hm : s.enc.nMatches = 0) (hl : s.enc.nLits = 0) : blockReal s :=
  ⟨s.enc.srcLiteral.toInt, by rw [blockTriplets, hm]; exact ⟨rfl, by rw [hl]; rfl⟩⟩

theorem emitBlock_real {s t : State} (h : emitBlock s = .ok (true, t)) (hs : blockReal s) : blockReal t := by
  rcases emitBlock_cases h with ⟨-, rfl⟩ | ⟨u, -, -, ⟨hfalse, -⟩ | ⟨-, payload, hclose, -⟩⟩
  · exact hs
  · cases hfalse
  · obtain ⟨-, hc⟩ := closeBlock_ok hclose
    exact blockReal_empty (by rw [hc]) (by rw [hc])

/-- The match has been sent: ENC.src_literal stands at its end, and nothing but the block has changed. -/
structure Sent (m : Match) (s t : State) : Prop where
  view : pushView t = pushView s
  literal : t.enc.srcLiteral.toInt = m.pos + m.length
  real : matchReal s m.pos m.ref m.length → blockReal s → blockReal t

theorem Sendable.of_view {s t : State} {m : Match} (hm : Sendable s m) (h : sourceView t = sourceView s)
    (hlit : t.enc.srcLiteral = s.enc.srcLiteral) : Sendable t m := by
  obtain ⟨-, -, -, -, hlimit, -⟩ := sourceView_eq h
  obtain ⟨hafter, hlt, hnear, hfits⟩ := hm
  exact ⟨hlit ▸ hafter, hlt, hnear, hlimit ▸ hfits⟩

theorem backendMatch_answers {s : State} {m : Match} (hs : encSourceOpen s) (ha : EncArraysLegal s.enc) (hm : Sendable s m) :
    Answers (Sent m s) (backendMatch m.pos m.ref m.length s) := by
  have h := pushMatch_sends hs hm
  unfold backendMatch
  cases hpush : pushMatch m.pos m.ref m.length s with
  | error e =>
    rw [hpush] at h
    cases h
  | ok r =>
    rw [hpush] at h
    cases h with
    | sent hview hlit hreal => exact .done ⟨hview, hlit, hreal⟩
    | @full t hview hlit hreal =>
      obtain ⟨b, u, hemit⟩ := emitBlock_ends ((pushMatch_keeps hpush).encArrays ha)
      obtain ⟨huview, hulit⟩ := emitBlock_enc hemit
      have hpv := huview.trans hview
      obtain ⟨hsv, -, -⟩ := pushView_eq hpv
      have hul := hulit.trans hlit
      simp only [hemit]
      cases b with
      | false => exact .error rfl
      | true =>
        obtain ⟨-, -, -, h0⟩ := id hs
        have h' := pushMatch_sends (encSourceOpen_of_view hsv (by rw [hul]; exact h0) hs) (hm.of_view hsv hul)
        dsimp only
        generalize pushMatch m.pos m.ref m.length u = r at h'
        cases h' with
        | sent hview' hlit' hreal' =>
          exact .done ⟨hview'.trans hpv, hlit', fun hmatch hblock =>
            hreal' (matchReal_of_view hsv hmatch) (emitBlock_real hemit (hreal hblock))⟩
        | full => exact .error rfl

/-! ### The pending match (45_encoder_frontend.md R237, R239) -/

/-- A stretch of the encoder is done: the source side is as it was, and the context is sound and stands in the source. -/
structure Stepped (s t : State) : Prop where
  view : sourceView t = sourceView s
  sound : encSound t
  real : encReal s → encReal t

theorem Stepped.refl {s : State} (h : encSound s) : Stepped s s := ⟨rfl, h, id⟩

/-- After a match has been sent, `u` differing from that state in the pending match. -/
theorem Sent.stepped {m : Match} {s t u : State} (h : Sent m s t) (hs : encSound s) (hm : Sendable s m) (ha : arraysLegal t)
    (hview : sourceView u = sourceView t) (hblock : blockView u = blockView t) (hp : u.enc.poisoned = t.enc.poisoned)
    (hdec : u.dec = t.dec) (hpend : pendingSound u) (hreal : encReal s → matchReal s m.pos m.ref m.length ∧ pendingReal u) :
    Stepped s u := by
  obtain ⟨hsv, -, hpv⟩ := pushView_eq h.view
  obtain ⟨hpoison, ⟨-, -, -, -, -, h0, -⟩, -⟩ := id hs
  have hview' := hview.trans hsv
  have hafter := hm.after
  have hfits := hm.fits
  have hlit := h.literal
  have hb := hblock
  simp only [blockView, Prod.mk.injEq] at hb
  obtain ⟨-, -, hliteral, hnm, hnl, hlv, hmv, hdv, -⟩ := hb
  refine ⟨hview', encSound_of_view hs hview' (hp.trans (hpv.trans hpoison)) ?_ ?_ hpend ?_, fun hsr => ?_⟩
  · rw [hliteral, hlit]
    omega
  · rw [hliteral, hlit]
    exact hfits
  · simpa only [arraysLegal, valueAt, State.values, hnm, hnl, hlv, hmv, hdv, hdec] using ha
  · obtain ⟨hmatch, hpr⟩ := hreal hsr
    obtain ⟨hhist, -, hbr⟩ := hsr
    exact ⟨historyReal_of_view hview' hhist, hpr, blockReal_of_view hblock (h.real hmatch hbr)⟩

theorem encArrays_of_sound {s : State} (h : encSound s) : EncArraysLegal s.enc := (arraysLegal_iff.mp (encLegal_of_sound h)).1

section Pending

variable {s : State} {m : Match}

theorem sendMatch_drop_answers (hs : encSound s) (hm : Sendable s m) (hreal : encReal s → matchReal s m.pos m.ref m.length) :
    Answers (fun t => Stepped s t ∧ t.enc.pending.length = 0) (sendMatch m dropPending s) := by
  have h := backendMatch_answers (encOpen_of_sound hs) (encArrays_of_sound hs) hm
  unfold sendMatch
  cases hsend : backendMatch m.pos m.ref m.length s with
  | error e =>
    rw [hsend] at h
    cases h
  | ok r =>
    rw [hsend] at h
    cases h with
    | error hp => exact .error hp
    | done hsent =>
      have ha := (backendMatch_keeps hsend).arraysLegal (encLegal_of_sound hs)
      exact .done ⟨hsent.stepped hs hm ha rfl rfl rfl rfl (.inl rfl) fun hsr => ⟨hreal hsr, .inl rfl⟩, rfl⟩

/-- A match found at a position (R236, R238): it can be sent, and where the history stands in the source it is a match. -/
structure Found (s : State) (m : Match) : Prop where
  sendable : Sendable s m
  long : 4 ≤ m.length
  fits : m.pos + m.length ≤ s.enc.srcEnd.toNat
  real : historyReal s → matchReal s m.pos m.ref m.length

/-- The found match as the pending one. -/
theorem setPending_toInt (hs : encSound s) (hm : Found s m) (t : State) :
    (setPending m t).enc.pending.pos.toInt = m.pos ∧ (setPending m t).enc.pending.ref.toInt = m.ref ∧
    (setPending m t).enc.pending.length.toNat = m.length := by
  obtain ⟨-, -, hmax, hend, -, h0, -⟩ := encSource_of_sound hs
  obtain ⟨⟨hafter, hlt, hnear, hsend⟩, -, hfits, -⟩ := hm
  exact ⟨word64_toInt (by omega) (by omega), word64_toInt (by omega) (by omega), ofNat32_toNat (by omega)⟩

theorem setPending_sound (hs : encSound s) (hm : Found s m) {t : State} (hview : sourceView t = sourceView s)
    (hlit : t.enc.srcLiteral.toInt ≤ m.pos) : pendingSound (setPending m t) := by
  obtain ⟨hpos, href, hlen⟩ := setPending_toInt hs hm t
  obtain ⟨-, -, -, -, hlimit, -⟩ := sourceView_eq hview
  obtain ⟨⟨-, hlt, hnear, hsend⟩, -, -, -⟩ := hm
  refine .inr ?_
  rw [hpos, href, hlen]
  exact ⟨hlit, hlt, hnear, hlimit ▸ hsend⟩

theorem setPending_real (hs : encSound s) (hm : Found s m) {t : State} (hview : sourceView t = sourceView s)
    (hr : historyReal s) : pendingReal (setPending m t) := by
  obtain ⟨hpos, href, hlen⟩ := setPending_toInt hs hm t
  refine .inr ?_
  rw [hpos, href, hlen]
  exact matchReal_of_view (s := s) hview (hm.real hr)

theorem sendMatch_set_answers {p : Match} (hs : encSound s) (hp : Sendable s p)
    (hreal : encReal s → matchReal s p.pos p.ref p.length) (hm : Found s m) (hle : p.pos + p.length ≤ m.pos) :
    Answers (Stepped s) (sendMatch p (setPending m) s) := by
  have h := backendMatch_answers (encOpen_of_sound hs) (encArrays_of_sound hs) hp
  unfold sendMatch
  cases hsend : backendMatch p.pos p.ref p.length s with
  | error e =>
    rw [hsend] at h
    cases h
  | ok r =>
    rw [hsend] at h
    cases h with
    | error hpoison => exact .error hpoison
    | done hsent =>
      have ha := (backendMatch_keeps hsend).arraysLegal (encLegal_of_sound hs)
      obtain ⟨hsv, -, -⟩ := pushView_eq hsent.view
      exact .done <| hsent.stepped hs hp ha rfl rfl rfl rfl
        (setPending_sound hs hm hsv (by rw [hsent.literal]; exact hle)) fun hsr =>
          ⟨hreal hsr, setPending_real hs hm hsv hsr.1⟩

theorem pending_sendable (hs : encSound s) (hne : s.enc.pending.length ≠ 0) : Sendable s (pendingMatch s) := by
  obtain ⟨-, -, hpend, -⟩ := hs
  obtain ⟨hafter, hlt, hnear, hfits⟩ := hpend.resolve_left hne
  exact ⟨hafter, hlt, hnear, hfits⟩

theorem pending_real (hne : s.enc.pending.length ≠ 0) (hr : encReal s) :
    matchReal s (pendingMatch s).pos (pendingMatch s).ref (pendingMatch s).length := by
  obtain ⟨-, hpend, -⟩ := hr
  exact hpend.resolve_left hne

theorem sendPending_eq (s : State) : sendPending s = sendMatch (pendingMatch s) dropPending s := by
  unfold sendPending sendMatch
  rfl

theorem sendPending_answers (hs : encSound s) (hne : s.enc.pending.length ≠ 0) :
    Answers (fun t => Stepped s t ∧ t.enc.pending.length = 0) (sendPending s) := by
  rw [sendPending_eq]
  exact sendMatch_drop_answers hs (pending_sendable hs hne) (pending_real hne)

/-- R239 on a found match. -/
theorem chooseMatch_answers (hs : encSound s) (hm : Found s m) : Answers (Stepped s) (chooseMatch m s) := by
  have drop {p : Match} (hp : Sendable s p) (hreal : encReal s → matchReal s p.pos p.ref p.length) :
      Answers (Stepped s) (sendMatch p dropPending s) := (sendMatch_drop_answers hs hp hreal).imp fun _ _ h => h.1
  have hfound : encReal s → matchReal s m.pos m.ref m.length := fun hr => hm.real hr.1
  unfold chooseMatch
  dsimp only
  split
  · exact drop hm.sendable hfound
  · split
    · obtain ⟨hpoison, ⟨-, -, -, -, -, h0, hlit⟩, -, ha, -⟩ := id hs
      exact .done ⟨rfl, encSound_of_view hs rfl hpoison h0 hlit (setPending_sound hs hm rfl hm.sendable.after) ha,
        fun ⟨hhist, _, hblock⟩ => ⟨hhist, setPending_real hs hm rfl hhist, blockReal_of_view (s := s) rfl hblock⟩⟩
    · rename_i hne
      have hne' : s.enc.pending.length ≠ 0 := fun h => hne (by simp only [pendingMatch, h]; rfl)
      split
      · exact sendMatch_set_answers hs (pending_sendable hs hne') (pending_real hne') hm ‹_›
      · split
        · exact drop hm.sendable hfound
        · exact drop (pending_sendable hs hne') (pending_real hne')

/-- BACKEND_LITERALS's body sends a match of length 0. -/
def literalRun (s : State) (l : Nat) : Match :=
  { pos := s.enc.srcLiteral.toInt + l, ref := s.enc.srcLiteral.toInt + l - 1, length := 0 }

theorem backendLiterals_answers {l : Nat} (hs : encSourceOpen s) (ha : EncArraysLegal s.enc)
    (hfit : s.enc.srcLiteral.toInt + l ≤ s.enc.srcLimit.toNat) :
    Answers (Sent (literalRun s l) s) (backendLiterals l s) :=
  backendMatch_answers (m := literalRun s l) hs ha
    ⟨by simp only [literalRun]; omega, by simp only [literalRun]; omega, by simp only [literalRun]; omega,
      by simp only [literalRun]; omega⟩

theorem literalRun_real {l : Nat} (hs : encSourceOpen s) (hl : 0 < l) :
    matchReal s (literalRun s l).pos (literalRun s l).ref (literalRun s l).length := by
  obtain ⟨hlo, -, -, h0⟩ := hs
  simp only [literalRun]
  exact ⟨by omega, by omega, by omega, fun i hi => absurd hi (Nat.not_lt_zero i)⟩

theorem Sent.literals_real {l : Nat} {t : State} (h : Sent (literalRun s l) s t) (hs : encSourceOpen s) (hl : 0 < l)
    (hr : encReal s) : encReal t := by
  obtain ⟨hsv, hpend, -⟩ := pushView_eq h.view
  obtain ⟨hhist, hpr, hblock⟩ := hr
  exact ⟨historyReal_of_view hsv hhist, pendingReal_of_view hsv hpend hpr, h.real (literalRun_real hs hl) hblock⟩

/-- A pending match may begin before the new ENC.src_literal, so the context is sound only where none is pending. -/
theorem Sent.literals_sound {l : Nat} {t : State} (h : Sent (literalRun s l) s t) (hs : encSound s)
    (hfit : s.enc.srcLiteral.toInt + l ≤ s.enc.srcLimit.toNat) (hp : s.enc.pending.length = 0) (ha : arraysLegal t) :
    encSound t := by
  obtain ⟨hsv, hpend, hpv⟩ := pushView_eq h.view
  obtain ⟨hpoison, ⟨-, -, -, -, -, h0, -⟩, -⟩ := id hs
  have hlit := h.literal
  simp only [literalRun] at hlit
  exact encSound_of_view hs hsv (hpv.trans hpoison) (by omega) (by omega) (.inl (hpend ▸ hp)) ha

/-- R237. -/
theorem noCandidate_answers {pos : Int} (hs : encSound s) (hpos : pos ≤ s.enc.srcLimit.toNat) :
    Answers (Stepped s) (noCandidate pos s) := by
  unfold noCandidate literalFlushLimit maxLValue
  split
  · exact .done (.refl hs)
  · split
    · rename_i hp
      have hfit : s.enc.srcLiteral.toInt + (315 : Nat) ≤ s.enc.srcLimit.toNat := by omega
      refine (backendLiterals_answers (encOpen_of_sound hs) (encArrays_of_sound hs) hfit).imp fun t ht hsent =>
        ⟨(pushView_eq hsent.view).1, hsent.literals_sound hs hfit hp ((backendLiterals_keeps ht).arraysLegal (encLegal_of_sound hs)),
        hsent.literals_real (encOpen_of_sound hs) (by decide)⟩
    · exact (sendPending_answers hs ‹_›).imp fun _ _ h => h.1

end Pending

/-! ### The search of a match (45_encoder_frontend.md R236, R238) -/

/-- The n source bytes at ref equal those at pos. -/
def agrees (s : State) (ref pos : Int) (n : Nat) : Prop := ∀ i : Nat, i < n → srcByteAt s (ref + i) = srcByteAt s (pos + i)

section Agree

variable {s : State} {ref pos : Int} {m n : Nat}

theorem agrees_add (h : agrees s ref pos m) (h' : agrees s (ref + m) (pos + m) n) : agrees s ref pos (m + n) := by
  intro i hi
  by_cases hm : i < m
  · exact h i hm
  · have := h' (i - m) (by omega)
    rwa [show ref + m + (i - m : Nat) = ref + i by omega, show pos + m + (i - m : Nat) = pos + i by omega] at this

theorem agrees_mono (h : agrees s ref pos n) (hle : m ≤ n) : agrees s ref pos m := fun i hi => h i (hi.trans_le hle)

/-- The low bytes of a number read from memory are the number read from fewer bytes. -/
theorem memRead_mod (m : Memory) (a : Nat) {i j : Nat} (h : i ≤ j) : memRead m a j % 2 ^ (8 * i) = memRead m a i := by
  obtain ⟨k, rfl⟩ := Nat.exists_eq_add_of_le h
  rw [memRead_add, Nat.add_mul_mod_self_left, Nat.mod_eq_of_lt (memRead_lt m a i)]

theorem memRead_one (m : Memory) (a : Nat) : memRead m a 1 = (readByte m a).toNat := by
  simp [memRead, readBytes, leValue]

/-- Equal numbers are read from equal bytes. -/
theorem readByte_of_memRead {m : Memory} {a b n i : Nat} (h : memRead m a n = memRead m b n) (hi : i < n) :
    readByte m (a + i) = readByte m (b + i) := by
  have hnext : memRead m a (i + 1) = memRead m b (i + 1) := by
    rw [← memRead_mod m a (show i + 1 ≤ n from hi), h, memRead_mod m b hi]
  have hprev : memRead m a i = memRead m b i := by rw [← memRead_mod m a hi.le, h, memRead_mod m b hi.le]
  rw [memRead_add, memRead_add, hprev, memRead_one, memRead_one] at hnext
  exact BitVec.eq_of_toNat_eq (Nat.eq_of_mul_eq_mul_left (Nat.two_pow_pos _) (Nat.add_left_cancel hnext))

theorem agrees_of_memRead {k : Nat} (hr : InSource s ref k) (hp : InSource s pos k)
    (h : memRead s.src (srcIndex s ref) n = memRead s.src (srcIndex s pos) n) : agrees s ref pos n := by
  intro i hi
  rw [srcByteAt_add hr, srcByteAt_add hp]
  exact readByte_of_memRead h hi

theorem ctzWithin_mod (fuel d : Nat) : d % 2 ^ ctzWithin fuel d = 0 := by
  induction fuel generalizing d with
  | zero => exact Nat.mod_one d
  | succ fuel ih =>
    rw [ctzWithin]
    split
    · exact Nat.mod_one d
    · have := ih (d / 2)
      rw [Nat.add_comm 1, pow_succ', Nat.mod_mul, this]
      omega

theorem ctzWithin_lt {fuel d : Nat} (h0 : d ≠ 0) (h : d < 2 ^ fuel) : ctzWithin fuel d < fuel := by
  induction fuel generalizing d with
  | zero => omega
  | succ fuel ih =>
    rw [ctzWithin]
    split
    · exact Nat.succ_pos _
    · have := ih (d := d / 2) (by omega) (by rw [pow_succ] at h; omega)
      omega

/-- Different 8-byte windows agree in the bytes below their lowest different bit. -/
theorem memRead_ctz {m : Memory} {a b k : Nat} (hk : k = ctz64 (memRead m a 8 ^^^ memRead m b 8) / 8) (h8 : k < 8) :
    memRead m a k = memRead m b k := by
  have hxor : (memRead m a 8 ^^^ memRead m b 8) % 2 ^ (8 * k) = 0 := by
    have hdvd : 2 ^ (8 * k) ∣ 2 ^ ctz64 (memRead m a 8 ^^^ memRead m b 8) := Nat.pow_dvd_pow 2 (by omega)
    exact Nat.mod_eq_zero_of_dvd (hdvd.trans (Nat.dvd_of_mod_eq_zero (ctzWithin_mod 64 _)))
  rw [Nat.xor_mod_two_pow, Nat.xor_eq_zero_iff, memRead_mod m a h8.le, memRead_mod m b h8.le] at hxor
  exact hxor

theorem ctz_lt {m : Memory} {a b : Nat} (h : memRead m a 8 ≠ memRead m b 8) :
    ctz64 (memRead m a 8 ^^^ memRead m b 8) / 8 < 8 := by
  have h0 : memRead m a 8 ^^^ memRead m b 8 ≠ 0 := fun hz => h (Nat.xor_eq_zero_iff.mp hz)
  have hlt : ctz64 (memRead m a 8 ^^^ memRead m b 8) < 64 :=
    ctzWithin_lt h0 (Nat.xor_lt_two_pow (memRead_lt m a 8) (memRead_lt m b 8))
  omega

end Agree

/-- Both 8-byte windows at `len` below `maxlen` lie in the source. -/
structure Windows (s : State) (ref pos : Int) (maxlen : Nat) : Prop where
  opened : encSourceOpen s
  lo : (s.enc.srcLo.toNat : Int) ≤ s.enc.srcBegin.toNat + ref
  lt : ref < pos
  start : 0 ≤ pos
  fits : pos + maxlen + 7 ≤ s.enc.srcLimit.toNat

theorem Windows.ref {s : State} {ref pos : Int} {maxlen len : Nat} (h : Windows s ref pos maxlen) (hlen : len < maxlen) :
    InSource s (ref + len) 8 := by
  obtain ⟨hs, hlo, hlt, h0, hfits⟩ := h
  exact inSource_of_open hs (by omega) (by omega)

theorem Windows.pos {s : State} {ref pos : Int} {maxlen len : Nat} (h : Windows s ref pos maxlen) (hlen : len < maxlen) :
    InSource s (pos + len) 8 := by
  obtain ⟨hs, hlo, hlt, h0, hfits⟩ := h
  exact inSource_of_nonneg hs (by omega) (by omega)

/-- The comparison by windows finds bytes that agree, at most 7 beyond `maxlen`. -/
theorem extendMatch_ends {s : State} {ref pos : Int} {maxlen : Nat} (hw : Windows s ref pos maxlen) (fuel len : Nat) :
    ∃ n, extendMatch s ref pos maxlen fuel len = .ok n ∧ len ≤ n ∧ (n = len ∨ n ≤ maxlen + 7) ∧
      (agrees s ref pos len → agrees s ref pos n) := by
  induction fuel generalizing len with
  | zero => exact ⟨len, rfl, le_rfl, .inl rfl, id⟩
  | succ fuel ih =>
    rw [extendMatch]
    split
    · exact ⟨len, rfl, le_rfl, .inl rfl, id⟩
    · rename_i hlen
      have hr := hw.ref (Nat.not_le.mp hlen)
      have hp := hw.pos (Nat.not_le.mp hlen)
      rw [encSrcValue_ok hr, encSrcValue_ok hp]
      dsimp only
      split
      · rename_i heq
        obtain ⟨n, hn, hle, hmax, hagree⟩ := ih (len + 8)
        exact ⟨n, hn, by omega, by omega, fun h => hagree (agrees_add h (agrees_of_memRead hr hp heq))⟩
      · rename_i hne
        have h8 := ctz_lt hne
        exact ⟨_, rfl, Nat.le_add_right _ _, .inr (by omega), fun h =>
          agrees_add h (agrees_of_memRead hr hp (memRead_ctz rfl h8))⟩

/-- The best candidate so far at `pos` (R236). -/
structure Candidate (s : State) (pos : Int) (m : Match) : Prop where
  lo : (s.enc.srcLo.toNat : Int) ≤ s.enc.srcBegin.toNat + m.ref
  lt : m.ref < pos
  near : pos - m.ref ≤ 262139
  long : 4 ≤ m.length
  fits : pos + m.length ≤ s.enc.srcEnd.toNat
  agree : historyReal s → agrees s m.ref pos m.length

/-- What the search holds at `pos`: no match yet, or a candidate. -/
def Best (s : State) (pos : Int) (m : Match) : Prop := m.pos = pos ∧ (m.length ≠ 0 → Candidate s pos m)

/-- ENC_BASE stands at a position that it has to pass (R234). -/
structure AtPosition (s : State) : Prop where
  sound : encSound s
  room : s.enc.srcEncodeI.toInt + 8 < s.enc.srcEnd.toNat

/-- The 4 source bytes at the position. -/
def posValue (s : State) : Nat := memRead s.src (srcIndex s s.enc.srcEncodeI.toInt) 4

section Position

variable {s : State} (h : AtPosition s)

include h

theorem AtPosition.limit : s.enc.srcEncodeI.toInt + 8 < s.enc.srcLimit.toNat := by
  obtain ⟨-, -, -, hend, -⟩ := encSource_of_sound h.sound
  have := h.room
  omega

theorem AtPosition.nonneg : 0 ≤ s.enc.srcEncodeI.toInt := by
  obtain ⟨-, -, -, -, hi, -⟩ := encSource_of_sound h.sound
  exact hi

theorem AtPosition.inSource : InSource s s.enc.srcEncodeI.toInt 4 :=
  inSource_of_nonneg (encOpen_of_sound h.sound) h.nonneg (by have := h.limit; omega)

theorem tryCandidate_best {e : HistEntry} {k : Nat} (he : e ∈ bucketList (sparseGet emptyBucket s.enc.hist k)) {m : Match}
    (hm : Best s s.enc.srcEncodeI.toInt m) : ∃ m', tryCandidate s s.enc.srcEncodeI.toInt (posValue s) m e = .ok m' ∧
      Best s s.enc.srcEncodeI.toInt m' := by
  have h0 := h.nonneg
  have hroom := h.room
  have hlimit := h.limit
  unfold tryCandidate maxDValue
  dsimp only
  split
  · exact ⟨m, rfl, hm⟩
  · rename_i htry
    obtain ⟨-, -, -, -, hhist⟩ := h.sound
    obtain ⟨hlo, hlt⟩ := (hhist k e he).resolve_left (by omega)
    have hw : Windows s e.pos.toInt s.enc.srcEncodeI.toInt (maxMatch s s.enc.srcEncodeI.toInt) :=
      ⟨encOpen_of_sound h.sound, hlo, hlt, h0, by
        obtain ⟨-, -, -, hend, -⟩ := encSource_of_sound h.sound
        unfold maxMatch
        omega⟩
    obtain ⟨n, hn, hle, hmax, hagree⟩ := extendMatch_ends hw (maxMatch s s.enc.srcEncodeI.toInt / 8 + 1) 4
    rw [hn]
    refine ⟨_, rfl, ?_⟩
    split
    · obtain ⟨hpos, -⟩ := hm
      refine ⟨hpos, fun _ => ⟨hlo, hlt, by dsimp only; omega, hle, ?_, fun hreal => hagree ?_⟩⟩
      · unfold maxMatch at hmax
        dsimp only
        omega
      · have hr : InSource s e.pos.toInt 4 := inSource_of_open (encOpen_of_sound h.sound) hlo (by omega)
        have hvalue := hreal k e he (by omega)
        refine agrees_of_memRead hr h.inSource ?_
        rw [srcIndex, ← hvalue]
        exact not_not.mp fun hne => htry (.inl hne)
    · exact hm

theorem tryCandidates_best {k : Nat} {es : List HistEntry}
    (hes : ∀ e ∈ es, e ∈ bucketList (sparseGet emptyBucket s.enc.hist k)) {m : Match} (hm : Best s s.enc.srcEncodeI.toInt m) :
    ∃ m', tryCandidates s s.enc.srcEncodeI.toInt (posValue s) es m = .ok m' ∧ Best s s.enc.srcEncodeI.toInt m' := by
  induction es generalizing m with
  | nil => exact ⟨m, rfl, hm⟩
  | cons e r ih =>
    obtain ⟨m1, h1, hm1⟩ := tryCandidate_best h (hes e List.mem_cons_self) hm
    obtain ⟨m2, h2, hm2⟩ := ih (fun e he => hes e (List.mem_cons_of_mem _ he)) hm1
    exact ⟨m2, by rw [tryCandidates, h1]; exact h2, hm2⟩

/-- The search over a bucket from no match (R236). -/
theorem search_best (k : Nat) : ∃ m, tryCandidates s s.enc.srcEncodeI.toInt (posValue s)
      (bucketList (sparseGet emptyBucket s.enc.hist k)) { pos := s.enc.srcEncodeI.toInt, ref := 0, length := 0 } = .ok m ∧
    Best s s.enc.srcEncodeI.toInt m :=
  tryCandidates_best h (fun _ he => he) ⟨rfl, fun hne => absurd rfl hne⟩

end Position

/-- The backward expansion goes back `k` bytes that agree, from `pos` and `ref` to `p` and `r`. -/
structure Expanded (s : State) (pos ref p r : Int) (k : Nat) : Prop where
  pos : p + k = pos
  ref : r + k = ref
  after : s.enc.srcLiteral.toInt ≤ p
  lo : (s.enc.srcLo.toNat : Int) ≤ s.enc.srcBegin.toNat + r
  agree : agrees s r p k

theorem expandBack_ends {s : State} (hs : encSourceOpen s) (fuel : Nat) {pos ref : Int} (hafter : s.enc.srcLiteral.toInt ≤ pos)
    (hlo : (s.enc.srcLo.toNat : Int) ≤ s.enc.srcBegin.toNat + ref) (hlt : ref < pos) (hfits : pos ≤ s.enc.srcLimit.toNat) :
    ∃ p r k, expandBack s fuel pos ref = .ok (p, r) ∧ Expanded s pos ref p r k := by
  have stop : Expanded s pos ref pos ref 0 := ⟨by omega, by omega, hafter, hlo, fun i hi => absurd hi (Nat.not_lt_zero i)⟩
  induction fuel generalizing pos ref with
  | zero => exact ⟨pos, ref, 0, rfl, stop⟩
  | succ fuel ih =>
    obtain ⟨hbegin, -, -, h0⟩ := id hs
    rw [expandBack]
    split
    · exact ⟨pos, ref, 0, rfl, stop⟩
    · rename_i hgo
      rw [encSrcByte_ok (inSource_of_nonneg hs (by omega) (by omega)), encSrcByte_ok (inSource_of_nonneg hs (by omega) (by omega))]
      dsimp only
      split
      · rename_i heq
        obtain ⟨p, r, k, hok, hpos, href, hp, hr, hagree⟩ := ih (pos := pos - 1) (ref := ref - 1) (by omega) (by omega)
          (by omega) (by omega) ⟨by omega, by omega, by omega, by omega, fun i hi => absurd hi (Nat.not_lt_zero i)⟩
        refine ⟨p, r, k + 1, hok, by omega, by omega, hp, hr, agrees_add hagree fun i hi => ?_⟩
        obtain rfl : i = 0 := by omega
        rw [hpos, href]
        simpa using heq
      · exact ⟨pos, ref, 0, rfl, stop⟩

/-- R238 makes of a candidate a match that can be sent. -/
theorem expandMatch_found {s : State} (h : AtPosition s) (hafter : s.enc.srcLiteral.toInt ≤ s.enc.srcEncodeI.toInt) {m : Match}
    (hpos : m.pos = s.enc.srcEncodeI.toInt) (hm : Candidate s s.enc.srcEncodeI.toInt m) :
    ∃ m', expandMatch s m = .ok m' ∧ Found s m' := by
  have hs := encOpen_of_sound h.sound
  obtain ⟨-, -, -, hend, -⟩ := encSource_of_sound h.sound
  obtain ⟨hlo, hlt, hnear, hlong, hfits, hagree⟩ := hm
  obtain ⟨p, r, k, hok, hpk, hrk, hp, hr, hback⟩ := expandBack_ends hs (s.enc.srcEncodeI.toInt - s.enc.srcLiteral.toInt).toNat
    hafter hlo hlt (by have := h.limit; omega)
  rw [← hpos] at hok hpk hagree hfits hnear hlt
  have hcap : 4 ≤ min m.length maxMatchLength := le_min hlong (by decide)
  have hlen := min_le_left m.length maxMatchLength
  have hk : (m.pos - p).toNat = k := by omega
  refine ⟨_, by rw [expandMatch, hok], ⟨hp, by dsimp only; omega, by dsimp only; omega, by dsimp only; omega⟩,
    by dsimp only; omega, by dsimp only; omega, fun hreal => ⟨by dsimp only; omega, by dsimp only; omega, hr, ?_⟩⟩
  dsimp only
  rw [hk, Nat.add_comm]
  refine agrees_add hback (agrees_mono ?_ hlen)
  rw [hpk, hrk]
  exact hagree hreal

/-! ### One position of ENC_BASE (45_encoder_frontend.md R231, R234, R235) -/

/-- The bucket of the position's 4 bytes. -/
def posBucket (s : State) : Nat := hashOf (posValue s)

/-- The pair that enters the bucket. -/
def newPair (s : State) : HistEntry :=
  { pos := BitVec.ofInt 32 s.enc.srcEncodeI.toInt, value := BitVec.ofNat 32 (posValue s) }

/-- The bucket of the position once the pair has entered it, the oldest one lost. -/
def newBucket (s : State) : Bucket := pushBucket (newPair s) (sparseGet emptyBucket s.enc.hist (posBucket s))

/-- The state `t` after the step of the position, once the position has entered its bucket. -/
def recorded (s t : State) : State :=
  recordPosition s.enc.srcEncodeI.toInt (posValue s) (posBucket s) (sparseGet emptyBucket s.enc.hist (posBucket s)) t

section Recorded

variable {s t : State}

theorem newPair_value : (newPair s).value.toNat = posValue s := ofNat32_toNat (memRead_lt _ _ _)

theorem recorded_bucket : sparseGet emptyBucket (recorded s t).enc.hist (posBucket s) = newBucket s := sparseGet_set_same _ _ _ _

theorem recorded_other {k : Nat} (hk : k ≠ posBucket s) :
    sparseGet emptyBucket (recorded s t).enc.hist k = sparseGet emptyBucket t.enc.hist k := sparseGet_set_other _ _ _ hk

theorem mem_pushBucket {e n : HistEntry} {b : Bucket} (he : e ∈ bucketList (pushBucket n b)) : e = n ∨ e ∈ bucketList b := by
  simp only [bucketList, pushBucket, List.mem_cons, List.not_mem_nil, or_false] at he ⊢
  tauto

/-- A pair in the history after the position: the new one, or one of before. -/
theorem mem_recorded (hhist : t.enc.hist = s.enc.hist) {k : Nat} {e : HistEntry}
    (he : e ∈ bucketList (sparseGet emptyBucket (recorded s t).enc.hist k)) :
    e = newPair s ∨ e ∈ bucketList (sparseGet emptyBucket s.enc.hist k) := by
  by_cases hk : k = posBucket s
  · subst hk
    rw [recorded_bucket] at he
    exact mem_pushBucket he
  · rw [recorded_other hk, hhist] at he
    exact .inr he

/-- Below its end the position's 4 bytes lie in the source. -/
theorem encSrcValue_position (hs : encSourceSound s) (hroom : s.enc.srcEncodeI.toInt + 8 < s.enc.srcEnd.toNat) :
    encSrcValue s s.enc.srcEncodeI.toInt 4 = .ok (posValue s) := by
  obtain ⟨-, -, -, hend, hi, -⟩ := id hs
  exact encSrcValue_ok (inSource_of_nonneg (encSourceOpen_of_sound hs) hi (by omega))

/-- A position below the end fits its fields, and so does the next one. -/
theorem position_toInt (hs : encSourceSound s) (hroom : s.enc.srcEncodeI.toInt + 8 < s.enc.srcEnd.toNat) :
    (newPair s).pos.toInt = s.enc.srcEncodeI.toInt ∧
    (recorded s t).enc.srcEncodeI.toInt = s.enc.srcEncodeI.toInt + 1 := by
  obtain ⟨-, -, hmax, hend, hi, -⟩ := hs
  refine ⟨?_, word64_toInt (by omega) (by omega)⟩
  rw [newPair, BitVec.toInt_ofInt, Int.bmod_def]
  omega

end Recorded

/-- What `n` positions leave: a context that is sound and stands in the source, the position further on. -/
structure Passed (n : Nat) (s t : State) : Prop where
  sound : encSound t
  real : encReal s → encReal t
  encodeI : t.enc.srcEncodeI.toInt = s.enc.srcEncodeI.toInt + n
  srcEnd : t.enc.srcEnd = s.enc.srcEnd

section Position

variable {s : State} (h : AtPosition s)

include h

theorem positionStep_answers (k : Nat) : Answers (Stepped s)
    (positionStep s.enc.srcEncodeI.toInt (posValue s) (sparseGet emptyBucket s.enc.hist k) s) := by
  unfold positionStep
  split
  · exact .done (.refl h.sound)
  · rename_i hafter
    obtain ⟨m, hm, hpos, hbest⟩ := search_best h k
    rw [hm]
    dsimp only
    split
    · exact noCandidate_answers h.sound (by have := h.limit; omega)
    · rename_i hne
      obtain ⟨m', hm', hfound⟩ := expandMatch_found h (not_lt.mp hafter) hpos (hbest hne)
      rw [hm']
      exact chooseMatch_answers h.sound hfound

theorem recorded_sound {t : State} (hs : Stepped s t) : encSound (recorded s t) := by
  obtain ⟨hview, hsound, -⟩ := hs
  obtain ⟨-, -, hsrcLo, hbegin, -, -, -, hhist⟩ := sourceView_eq hview
  obtain ⟨hpoison, ⟨hlo, hsize, hmax, hend, -, h0, hlit⟩, hpend, ha, -⟩ := hsound
  obtain ⟨-, -, -, -, hold⟩ := h.sound
  obtain ⟨hlo', -⟩ := encSource_of_sound h.sound
  obtain ⟨hnew, hi⟩ := position_toInt (t := t) (encSource_of_sound h.sound) h.room
  have hpos := h.nonneg
  refine ⟨hpoison, ⟨hlo, hsize, hmax, hend, by omega, h0, hlit⟩, hpend, ha, fun k e he => ?_⟩
  show _ ∨ ((t.enc.srcLo.toNat : Int) ≤ t.enc.srcBegin.toNat + e.pos.toInt ∧ _)
  rw [hi, hsrcLo, hbegin]
  rcases mem_recorded hhist he with rfl | he
  · rw [hnew]
    exact .inr ⟨by omega, by omega⟩
  · exact (hold k e he).imp id fun ⟨h1, h2⟩ => ⟨h1, by omega⟩

theorem recorded_real {t : State} (hs : Stepped s t) (hr : encReal s) : encReal (recorded s t) := by
  obtain ⟨hview, -, hreal⟩ := hs
  obtain ⟨-, hpend, hblock⟩ := hreal hr
  obtain ⟨hold, -, -⟩ := hr
  obtain ⟨hsrc, -, -, hbegin, -, -, -, hhist⟩ := sourceView_eq hview
  obtain ⟨hnew, -⟩ := position_toInt (t := t) (encSource_of_sound h.sound) h.room
  refine ⟨fun k e he hvalid => ?_, hpend, blockReal_of_view (s := t) rfl hblock⟩
  show _ = memRead t.src (t.enc.srcBegin.toNat + e.pos.toInt).toNat 4
  rw [hsrc, hbegin]
  rcases mem_recorded hhist he with rfl | he
  · rw [hnew, newPair_value]
    rfl
  · exact hold k e he hvalid

theorem basePosition_answers : Answers (Passed 1 s) (basePosition s) := by
  have hstep := positionStep_answers h (posBucket s)
  unfold basePosition
  dsimp only
  rw [encSrcValue_position (encSource_of_sound h.sound) h.room]
  change Answers _ (match positionStep _ _ (sparseGet emptyBucket s.enc.hist (posBucket s)) s with
    | .error t => .error t | .ok (false, _) => _ | .ok (true, s') => .ok (true, recorded s s'))
  generalize positionStep _ _ _ s = r at hstep
  cases hstep with
  | error hp => exact .error rfl
  | done hs =>
    obtain ⟨-, -, -, -, -, hend, -, -⟩ := sourceView_eq hs.view
    obtain ⟨-, hi⟩ := position_toInt (encSource_of_sound h.sound) h.room
    exact .done ⟨recorded_sound h hs, recorded_real h hs, hi, hend⟩

end Position

theorem baseLoop_answers {s : State} (n : Nat) (hs : encSound s)
    (hroom : n = 0 ∨ s.enc.srcEncodeI.toInt + n + 8 ≤ s.enc.srcEnd.toNat) :
    Answers (Passed n s) (baseLoop n s) := by
  induction n generalizing s with
  | zero => exact .done ⟨hs, id, by omega, rfl⟩
  | succ n ih =>
    have h := basePosition_answers ⟨hs, by omega⟩
    rw [baseLoop]
    generalize basePosition s = r at h
    cases h with
    | error hp => exact .error hp
    | done ht =>
      obtain ⟨hsound, hreal, hi, hend⟩ := ht
      refine (ih hsound (.inr (by rw [hi, hend]; omega))).imp fun u _ hu => ⟨hu.sound, fun hr => hu.real (hreal hr), ?_, ?_⟩
      · rw [hu.encodeI, hi]
        omega
      · rw [hu.srcEnd, hend]

/-- ENC.src_end may be any end within the limit. -/
theorem setEncSrcEnd_sound {s : State} {e : Nat} (hs : encSound s) (he : e ≤ s.enc.srcLimit.toNat) :
    encSound (setEncSrcEnd e s) := by
  obtain ⟨hpoison, ⟨hlo, hsize, hmax, -, hi, h0, hlit⟩, hpend, ha, hhist⟩ := hs
  have hend : (setEncSrcEnd e s).enc.srcEnd.toNat = e := nat64_toNat_le he
  exact ⟨hpoison, ⟨hlo, hsize, hmax, hend.trans_le he, hi, h0, hlit⟩, hpend, ha, hhist⟩

theorem setEncSrcEnd_real {s : State} {e : Nat} (hr : encReal s) : encReal (setEncSrcEnd e s) := by
  obtain ⟨hhist, hpend, hblock⟩ := hr
  exact ⟨hhist, hpend, blockReal_of_view (s := s) rfl hblock⟩

/-- The context is sound and stands in the source as `s` did. -/
structure Kept (s t : State) : Prop where
  sound : encSound t
  real : encReal s → encReal t

theorem encBase_answers {s : State} {e : Nat} (hs : encSound s) (he : e ≤ s.enc.srcLimit.toNat) :
    Answers (Kept s) (encBase e s) := by
  obtain ⟨-, -, hmax, -⟩ := encSource_of_sound hs
  have hend : (setEncSrcEnd e s).enc.srcEnd.toNat = e := nat64_toNat_le he
  unfold encBase
  rw [raiseIf_neg (decide_eq_false (by omega))]
  refine (baseLoop_answers _ (setEncSrcEnd_sound hs he) ?_).imp fun t _ ht =>
    ⟨ht.sound, fun hr => ht.real (setEncSrcEnd_real hr)⟩
  rw [hend]
  show _ ∨ s.enc.srcEncodeI.toInt + _ + 8 ≤ _
  omega

/-! ### ENC_BASE over covered positions (45_encoder_frontend.md R234, R235) -/

theorem exec_encBase_beyond {s : State} (hr : ready s) (hp : s.enc.poisoned = false)
    (h : s.enc.srcLimit.toNat < s.arg0.toNat ∨ 2 ^ 31 - 2 < s.arg0.toNat) :
    exec .encBase s = .next (faulted .badOperand 0 s) := by
  show command s (raiseEncPoisoned s ((encBase s.arg0.toNat s).map endBase)) = _
  rw [raiseEncPoisoned_clear hp, encBase, raiseIf_pos (decide_eq_true h)]
  exact (command_error hr _).trans (congrArg _ (takeFault_zero _ _))

theorem exec_encBase_within {s : State} (hp : s.enc.poisoned = false) (hl : s.arg0.toNat ≤ s.enc.srcLimit.toNat)
    (hmax : s.arg0.toNat ≤ 2 ^ 31 - 2) : exec .encBase s = command s
      ((baseLoop ((s.arg0.toNat : Int) - 8 - s.enc.srcEncodeI.toInt).toNat { s with enc := { s.enc with srcEnd := s.arg0 } }).map
        endBase) := by
  show command s (raiseEncPoisoned s ((encBase s.arg0.toNat s).map endBase)) = _
  rw [raiseEncPoisoned_clear hp, encBase, raiseIf_neg (decide_eq_false (by omega)), setEncSrcEnd, nat64_toNat]

theorem basePosition_covered {s : State} (hs : encSourceSound s) (hroom : s.enc.srcEncodeI.toInt + 8 < s.enc.srcEnd.toNat)
    (hcov : s.enc.srcEncodeI.toInt < s.enc.srcLiteral.toInt) : basePosition s = .ok (true, recorded s s) := by
  unfold basePosition positionStep
  dsimp only
  rw [encSrcValue_position hs hroom]
  dsimp only
  rw [if_pos hcov]
  rfl

theorem baseLoop_covered {s : State} (n : Nat) (hs : encSourceSound s)
    (hroom : n = 0 ∨ s.enc.srcEncodeI.toInt + n + 8 ≤ s.enc.srcEnd.toNat)
    (hcov : n = 0 ∨ s.enc.srcEncodeI.toInt + n ≤ s.enc.srcLiteral.toInt) :
    ∃ hist, baseLoop n s = .ok (true, { s with
      enc := { s.enc with srcEncodeI := BitVec.ofInt 64 (s.enc.srcEncodeI.toInt + n), hist := hist } }) := by
  induction n generalizing s with
  | zero => exact ⟨s.enc.hist, by rw [baseLoop, Int.natCast_zero, add_zero, BitVec.ofInt_toInt]⟩
  | succ n ih =>
    have hroom' : s.enc.srcEncodeI.toInt + 8 < s.enc.srcEnd.toNat := by omega
    obtain ⟨-, hi⟩ := position_toInt (t := s) hs hroom'
    obtain ⟨hlo, hsize, hmax, hend, h0, hlit⟩ := id hs
    obtain ⟨hist, hok⟩ := ih (s := recorded s s) ⟨hlo, hsize, hmax, hend, by omega, hlit⟩ (.inr (by
        rw [hi]; show _ ≤ (s.enc.srcEnd.toNat : Int); omega)) (.inr (by
        rw [hi]; show _ ≤ s.enc.srcLiteral.toInt; omega))
    refine ⟨hist, ?_⟩
    rw [baseLoop, basePosition_covered hs hroom' (by omega)]
    refine hok.trans ?_
    rw [hi, add_assoc, Int.natCast_succ, add_comm (n : Int) 1]
    rfl

theorem srcIndex_nonneg {s : State} {i : Int} (h : 0 ≤ i) : srcIndex s i = s.enc.srcBegin.toNat + i.toNat := by
  unfold srcIndex
  omega

/-- One covered position enters its bucket, and the other buckets stay (R231). -/
theorem baseLoop_one {s u : State} (hs : encSourceSound s) (hroom : s.enc.srcEncodeI.toInt + 8 < s.enc.srcEnd.toNat)
    (hcov : s.enc.srcEncodeI.toInt < s.enc.srcLiteral.toInt) (h : baseLoop 1 s = .ok (true, u)) :
    sparseGet emptyBucket u.enc.hist (posBucket s) = newBucket s ∧
    ∀ k, k ≠ posBucket s → sparseGet emptyBucket u.enc.hist k = sparseGet emptyBucket s.enc.hist k := by
  rw [baseLoop, basePosition_covered hs hroom hcov] at h
  injection h with h
  injection h with _ h
  rw [← h]
  exact ⟨recorded_bucket, fun k hk => recorded_other hk⟩

/-- The context that ENC_BASE enters its loop with. -/
theorem encSourceSound_setEnd {s : State} {e : U64} (hs : encSourceSound s) (he : e.toNat ≤ s.enc.srcLimit.toNat) :
    encSourceSound { s with enc := { s.enc with srcEnd := e } } := by
  obtain ⟨hlo, hsize, hmax, -, hi, hlit⟩ := hs
  exact ⟨hlo, hsize, hmax, he, hi, hlit⟩

theorem encBase_covered {s : State} (hr : ready s) (hp : s.enc.poisoned = false) (hl : s.arg0.toNat ≤ s.enc.srcLimit.toNat)
    (hmax : s.arg0.toNat ≤ 2 ^ 31 - 2) (hs : encSourceSound s) (hcov : (s.arg0.toNat : Int) - 8 ≤ s.enc.srcLiteral.toInt) :
    ∃ t, exec .encBase s = .next t ∧
      t = { s with
        enc := { s.enc with
          srcEnd := s.arg0, srcEncodeI := BitVec.ofInt 64 (max s.enc.srcEncodeI.toInt (s.arg0.toNat - 8)), hist := t.enc.hist },
        cur := encCursors s.enc, res0 := t.enc.srcEncodeI, res1 := s.enc.srcLiteral, status := .ok } ∧
      ((s.arg0.toNat : Int) - 8 ≤ s.enc.srcEncodeI.toInt → t.enc.hist = s.enc.hist) ∧
      (s.enc.srcEncodeI.toInt = s.arg0.toNat - 9 →
        sparseGet emptyBucket t.enc.hist (posBucket s) = newBucket s ∧
        ∀ k, k ≠ posBucket s → sparseGet emptyBucket t.enc.hist k = sparseGet emptyBucket s.enc.hist k) := by
  obtain ⟨hist, hloop⟩ := baseLoop_covered ((s.arg0.toNat : Int) - 8 - s.enc.srcEncodeI.toInt).toNat
    (encSourceSound_setEnd hs hl) (by dsimp only; omega) (by dsimp only; omega)
  have hrun := exec_encBase_within hp hl hmax
  rw [hloop, Except.map, command_ok hr] at hrun
  have hposition : s.enc.srcEncodeI.toInt + ((s.arg0.toNat : Int) - 8 - s.enc.srcEncodeI.toInt).toNat =
      max s.enc.srcEncodeI.toInt (s.arg0.toNat - 8) := by omega
  dsimp only at hloop hrun
  rw [hposition] at hloop hrun
  refine ⟨_, hrun, rfl, fun h0 => ?_, fun h1 => ?_⟩
  · rw [show ((s.arg0.toNat : Int) - 8 - s.enc.srcEncodeI.toInt).toNat = 0 by omega, baseLoop] at hloop
    injection hloop with hloop
    injection hloop with _ hloop
    exact (congrArg (fun u : State => u.enc.hist) hloop).symm
  · rw [show ((s.arg0.toNat : Int) - 8 - s.enc.srcEncodeI.toInt).toNat = 1 by omega] at hloop
    have hone := baseLoop_one (encSourceSound_setEnd hs hl) (by dsimp only; omega) (by dsimp only; omega) hloop
    exact hone

/-! ### The commands in a sound context (45_encoder_frontend.md R232, R234, R242, 46_encoder_backend.md R256, R268)

ENC_INIT: -/

theorem encInit_sound {s : State} (hsrc : srcOk s) (hdst : dstOk s) (hmax : s.cur.srcEnd.toNat - s.cur.srcPos.toNat ≤ 2 ^ 31 - 2)
    (ha : arraysLegal s) : encSound (encInit s) := by
  have ha' := (encInit_keeps hdst).arraysLegal ha
  rw [encInit_eq hsrc] at ha' ⊢
  obtain ⟨hlo, hpos, hsize⟩ := hsrc
  have hlimit : (s.cur.srcEnd - s.cur.srcPos).toNat = s.cur.srcEnd.toNat - s.cur.srcPos.toNat := by
    rw [← nat64_sub hpos, nat64_toNat_le (Nat.sub_le _ _)]
  refine ⟨rfl, ⟨hlo, ?_, ?_, le_rfl, le_rfl, le_rfl, Int.natCast_nonneg _⟩, .inl rfl, ha', fun h e he => ?_⟩
  · dsimp only
    omega
  · dsimp only
    omega
  · obtain rfl := mem_emptyBucket he
    exact .inl invalidEntry_pos

theorem encInit_real {s : State} (hsrc : srcOk s) : encReal (encInit s) := by
  rw [encInit_eq hsrc]
  refine ⟨fun h e he hvalid => ?_, .inl rfl, blockReal_empty rfl rfl⟩
  obtain rfl := mem_emptyBucket he
  exact absurd invalidEntry_pos hvalid

theorem encView_ended (s : State) (v w : U64) (st : Status) : encView { s.withRes v w with status := st } = encView s := rfl

theorem exec_encInit_ran {s t : State} (hr : ready s) (h : exec .encInit s = .next t) (hf : t.fault = none) :
    srcOk s ∧ dstOk s := by
  have bad {k : Nat} (hk : exec .encInit s = .next (faulted .badCursor k s)) : False := by
    rw [h] at hk
    injection hk with hk
    rw [hk] at hf
    cases hf
  by_cases hs : srcOk s
  · refine ⟨hs, by_contra fun hd => ?_⟩
    obtain ⟨k, -, hk⟩ := exec_cursors_dst (i := .encInit) (by decide) hr hs hd
    exact bad hk
  · obtain ⟨k, -, hk⟩ := exec_cursors_src (i := .encInit) (by decide) hr hs
    exact (bad hk).elim

/-! ENC_BASE: -/

theorem fault_of_encKey {s t : State} (h : encKey t = encKey s) : t.fault = s.fault :=
  congrArg (fun k => k.2.2.2.2.2.2.2.2.1) h

theorem exec_encBase_ends {s : State} (hr : ready s) (hs : encSound s) (hl : s.arg0.toNat ≤ s.enc.srcLimit.toNat) :
    ∃ t, exec .encBase s = .next t ∧ t.fault = none ∧
      ((t.status = .ok ∧ Kept s t ∧ t.res0 = t.enc.srcEncodeI ∧ t.res1 = t.enc.srcLiteral) ∨
        (t.status = .error ∧ t.enc.poisoned = true)) := by
  obtain ⟨hp, -⟩ := id hs
  have h := encBase_answers hs hl
  cases hrun : encBase s.arg0.toNat s with
  | error e =>
    rw [hrun] at h
    cases h
  | ok r =>
    have hexec : exec .encBase s = .next { (endBase r).2 with status := (endBase r).1 } := by
      show command s (raiseEncPoisoned s ((encBase s.arg0.toNat s).map endBase)) = _
      rw [raiseEncPoisoned_clear hp, hrun]
      exact command_ok hr _ _
    obtain ⟨b, u⟩ := r
    have hfault : u.fault = none := (fault_of_encKey (encBase_key hrun)).trans hr
    rw [hrun] at h
    refine ⟨_, hexec, ?_⟩
    cases h with
    | error hpoison => exact ⟨hfault, .inr ⟨rfl, hpoison⟩⟩
    | done hkept =>
      exact ⟨hfault, .inl ⟨rfl, ⟨encSound_congr (s := u) rfl hkept.sound, fun hreal =>
        encReal_congr (s := u) rfl (hkept.real hreal)⟩, rfl, rfl⟩⟩

/-! BACKEND_LITERALS: -/

theorem exec_backendLiterals_zero {s : State} (hr : ready s) (hp : s.enc.poisoned = false) (h0 : s.arg0.toNat = 0) :
    exec .backendLiterals s = .next { writeBackEnc s with status := .ok } := by
  show command s (raiseEncPoisoned s (if s.arg0.toNat = 0 then .ok (.ok, writeBackEnc s) else _)) = _
  rw [raiseEncPoisoned_clear hp, if_pos h0, command_ok hr]

theorem exec_backendLiterals_some {s : State} (hp : s.enc.poisoned = false) (h0 : s.arg0.toNat ≠ 0) :
    exec .backendLiterals s = command s ((backendLiterals s.arg0.toNat s).map endBackend) := by
  show command s (raiseEncPoisoned s (if s.arg0.toNat = 0 then _ else (backendLiterals s.arg0.toNat s).map endBackend)) = _
  rw [raiseEncPoisoned_clear hp, if_neg h0]

/-- Beyond the source it is an operand fault of its PUSH_MATCH (R252). -/
theorem exec_backendLiterals_beyond {s : State} (hr : ready s) (hp : s.enc.poisoned = false) (h0 : s.arg0.toNat ≠ 0)
    (h : s.enc.srcLimit.toNat < s.enc.srcLiteral.toInt + s.arg0.toNat) :
    exec .backendLiterals s = .next (faulted .badOperand 2 s) := by
  rw [exec_backendLiterals_some hp h0, backendLiterals, backendMatch, pushMatch, raiseIf_neg (decide_eq_false (by omega)),
    raiseIf_neg (decide_eq_false (by unfold maxDValue; omega)), raiseIf_pos (decide_eq_true (by omega))]
  exact command_error hr _

theorem exec_backendLiterals_ends {s : State} (hr : ready s) (hs : encSound s)
    (hfit : s.enc.srcLiteral.toInt + s.arg0.toNat ≤ s.enc.srcLimit.toNat) :
    ∃ t, exec .backendLiterals s = .next t ∧ t.fault = none ∧
      ((t.status = .ok ∧ (s.enc.pending.length = 0 → encSound t) ∧ (encReal s → encReal t)) ∨
        (t.status = .error ∧ t.enc.poisoned = true)) := by
  obtain ⟨hp, -⟩ := id hs
  by_cases h0 : s.arg0.toNat = 0
  · exact ⟨_, exec_backendLiterals_zero hr hp h0, hr, .inl ⟨rfl, fun _ => encSound_congr (s := s) rfl hs,
      encReal_congr (s := s) rfl⟩⟩
  have h := backendLiterals_answers (encOpen_of_sound hs) (encArrays_of_sound hs) hfit
  cases hrun : backendLiterals s.arg0.toNat s with
  | error e =>
    rw [hrun] at h
    cases h
  | ok r =>
    have hexec : exec .backendLiterals s = .next { (endBackend r).2 with status := (endBackend r).1 } := by
      rw [exec_backendLiterals_some hp h0, hrun]
      exact command_ok hr _ _
    obtain ⟨b, u⟩ := r
    have hfault : u.fault = none := (fault_of_encKey (backendLiterals_key hrun)).trans hr
    rw [hrun] at h
    refine ⟨_, hexec, ?_⟩
    cases h with
    | error hpoison => exact ⟨hfault, .inr ⟨rfl, hpoison⟩⟩
    | done hsent =>
      exact ⟨hfault, .inl ⟨rfl,
        fun hpend => encSound_congr (s := u) rfl
          (hsent.literals_sound hs hfit hpend ((backendLiterals_keeps hrun).arraysLegal (encLegal_of_sound hs))),
        fun hreal => encReal_congr (s := u) rfl (hsent.literals_real (encOpen_of_sound hs) (Nat.pos_of_ne_zero h0) hreal)⟩⟩

/-! ENC_TRANSLATE: -/

/-- A delta that ENC_TRANSLATE takes, up to ENC.src_end. -/
structure Translatable (s : State) (delta : Nat) : Prop where
  sound : encSound s
  wf : sparseWf emptyBucket s.enc.hist = true
  srcEnd : delta ≤ s.enc.srcEnd.toNat
  literal : delta ≤ s.enc.srcLiteral.toInt
  encodeI : delta ≤ s.enc.srcEncodeI.toInt

/-- The fields after it. -/
structure Translated (delta : Nat) (s t : State) : Prop where
  srcBegin : t.enc.srcBegin.toNat = s.enc.srcBegin.toNat + delta
  srcLimit : t.enc.srcLimit.toNat + delta = s.enc.srcLimit.toNat
  srcEnd : t.enc.srcEnd.toNat + delta = s.enc.srcEnd.toNat
  encodeI : t.enc.srcEncodeI.toInt + delta = s.enc.srcEncodeI.toInt
  literal : t.enc.srcLiteral.toInt + delta = s.enc.srcLiteral.toInt
  pending : s.enc.pending.length ≠ 0 → t.enc.pending.pos.toInt + delta = s.enc.pending.pos.toInt ∧
    t.enc.pending.ref.toInt + delta = s.enc.pending.ref.toInt
  hist (k : Nat) : bucketList (sparseGet emptyBucket t.enc.hist k) =
    (bucketList (sparseGet emptyBucket s.enc.hist k)).map (shiftEntry delta)

section Translate

variable {s : State} {delta : Nat} (h : Translatable s delta)

include h

theorem encTranslate_translated : Translated delta s (encTranslate delta s) := by
  obtain ⟨⟨-, ⟨-, hsize, hmax, hend, hi, h0, hlit⟩, hpend, -, -⟩, hwf, hde, hdl, hdi⟩ := h
  have hi' := BitVec.toInt_lt (x := s.enc.srcEncodeI)
  have hss := s.srcSize.isLt
  have less {v : U64} {tag : Nat} (hv : delta ≤ v.toNat) : (lessDelta v delta tag).toNat + delta = v.toNat := by
    rw [lessDelta, if_pos hv, nat64_toNat_le (Nat.sub_le _ _), Nat.sub_add_cancel hv]
  have move {v : Int} (h1 : -(2 ^ 62) ≤ v) (h2 : v < 2 ^ 63) : (word64 (v - delta)).toInt + delta = v := by
    rw [word64_toInt (by omega) (by omega), sub_add_cancel]
  have moveFit {v : Int} (h1 : -(2 ^ 62) ≤ v) (h2 : v < 2 ^ 63) : (fitS64 (v - delta)).toInt + delta = v := by
    rw [fitS64_toInt (by omega) (by omega), sub_add_cancel]
  refine ⟨nat64_lt (by omega), less (by omega), less hde, move (by omega) (by omega), move (by omega) (by omega),
    fun hne => ?_, fun k => congrArg bucketList (sparseGet_shiftHistory ((sparseWf_iff _ _).mp hwf).1 _ _)⟩
  obtain ⟨hafter, hlt, hnear, hfits⟩ := hpend.resolve_left hne
  exact ⟨moveFit (by omega) (by omega), moveFit (by omega) (by omega)⟩

omit h in
theorem shiftEntry_pos (e : HistEntry) : (shiftEntry delta e).pos.toInt = max (e.pos.toInt - delta) (-1048556) := by
  have hlt := BitVec.toInt_lt (x := e.pos)
  show (BitVec.ofInt 32 (max (e.pos.toInt - delta) (-1048556))).toInt = _
  rw [BitVec.toInt_ofInt, Int.bmod_def]
  omega

theorem encTranslate_sound : encSound (encTranslate delta s) := by
  have ht := encTranslate_translated h
  obtain ⟨⟨hpoison, ⟨hlo, hsize, hmax, hend, hi, h0, hlit⟩, hpend, ha, hhist⟩, -, hde, hdl, hdi⟩ := h
  refine ⟨hpoison, ⟨?_, ?_, ?_, ?_, ?_, ?_, ?_⟩, ?_, ha, fun k e he => ?_⟩
  · rw [ht.srcBegin]
    exact hlo.trans (Nat.le_add_right _ _)
  · rw [ht.srcBegin, add_assoc, add_comm delta, ht.srcLimit]
    exact hsize
  · have := ht.srcLimit
    omega
  · have := ht.srcLimit
    have := ht.srcEnd
    omega
  · have := ht.encodeI
    omega
  · have := ht.literal
    omega
  · have := ht.srcLimit
    have := ht.literal
    omega
  · by_cases hne : s.enc.pending.length = 0
    · exact .inl hne
    obtain ⟨hafter, hlt, hnear, hfits⟩ := hpend.resolve_left hne
    obtain ⟨hpos, href⟩ := ht.pending hne
    have := ht.literal
    have := ht.srcLimit
    have hlen : (encTranslate delta s).enc.pending.length = s.enc.pending.length := rfl
    rw [pendingSound, hlen]
    exact .inr ⟨by omega, by omega, by omega, by omega⟩
  · rw [ht.hist] at he
    obtain ⟨e0, he0, rfl⟩ := List.mem_map.mp he
    have hpair := hhist k e0 he0
    have hi' := ht.encodeI
    have hb := ht.srcBegin
    have hsl : (encTranslate delta s).enc.srcLo = s.enc.srcLo := rfl
    unfold historyPairSound at hpair ⊢
    rw [shiftEntry_pos, hsl]
    omega

theorem srcByteAt_translate (i : Int) : srcByteAt (encTranslate delta s) i = srcByteAt s (i + delta) := by
  have hb := (encTranslate_translated h).srcBegin
  show readByte s.src ((encTranslate delta s).enc.srcBegin.toNat + i).toNat = readByte s.src _
  rw [hb]
  congr 2
  omega

theorem encTranslate_real (hr : encReal s) : encReal (encTranslate delta s) := by
  have ht := encTranslate_translated h
  obtain ⟨hhist, hpend, o, hblock⟩ := hr
  refine ⟨fun k e he hvalid => ?_, ?_, o - delta, ?_⟩
  · rw [ht.hist] at he
    obtain ⟨e0, he0, rfl⟩ := List.mem_map.mp he
    rw [shiftEntry_pos] at hvalid
    have hvalue := hhist k e0 he0 (by omega)
    show e0.value.toNat = memRead s.src _ 4
    rw [hvalue, shiftEntry_pos, ht.srcBegin]
    congr 1
    omega
  · by_cases hne : s.enc.pending.length = 0
    · exact .inl hne
    obtain ⟨hlt, hnear, hlo, hbytes⟩ := hpend.resolve_left hne
    obtain ⟨hpos, href⟩ := ht.pending hne
    have hb := ht.srcBegin
    have hsl : (encTranslate delta s).enc.srcLo = s.enc.srcLo := rfl
    refine .inr ⟨by omega, by omega, by rw [hsl]; omega, fun i hi => ?_⟩
    rw [srcByteAt_translate h, srcByteAt_translate h, add_right_comm, href, add_right_comm, hpos]
    exact hbytes i hi
  · exact replays_moved (s := s) (srcByteAt_translate h) ht.literal rfl rfl (by rwa [sub_add_cancel])

end Translate

theorem exec_encTranslate_ends {s : State} (hr : ready s) (h : Translatable s s.arg0.toNat) :
    ∃ t, exec .encTranslate s = .next t ∧ t.status = .ok ∧ Kept s t := by
  obtain ⟨hp, -⟩ := h.sound
  refine ⟨_, exec_encTranslate_within hr hp h.literal h.encodeI, rfl, ?_⟩
  split
  · exact ⟨encSound_congr (s := s) rfl h.sound, encReal_congr (s := s) rfl⟩
  · exact ⟨encSound_congr (s := encTranslate s.arg0.toNat s) rfl (encTranslate_sound h),
      fun hreal => encReal_congr (s := encTranslate s.arg0.toNat s) rfl (encTranslate_real h hreal)⟩

/-! ENC_FINISH: -/

theorem finishPending_answers {s : State} (hs : encSound s) :
    Answers (fun t => encSound t ∧ t.enc.pending.length = 0) (finishPending s) := by
  unfold finishPending
  split
  · exact .done ⟨hs, ‹_›⟩
  · exact (sendPending_answers hs ‹_›).imp fun t _ ⟨hstep, hp⟩ => ⟨hstep.sound, hp⟩

theorem finishLiterals_answers {s : State} (hs : encSound s) (hp : s.enc.pending.length = 0) :
    Answers encSound (finishLiterals s) := by
  obtain ⟨-, -, -, hend, -, h0, -⟩ := encSource_of_sound hs
  unfold finishLiterals
  dsimp only
  split
  · have hfit : s.enc.srcLiteral.toInt + ((s.enc.srcEnd.toNat : Int) - s.enc.srcLiteral.toInt).toNat ≤ s.enc.srcLimit.toNat := by
      omega
    exact (backendLiterals_answers (encOpen_of_sound hs) (encArrays_of_sound hs) hfit).imp fun t ht hsent =>
      hsent.literals_sound hs hfit hp ((backendLiterals_keeps ht).arraysLegal (encLegal_of_sound hs))
  · exact .done hs

theorem emitBlock_sound {s t : State} {b : Bool} (hs : encSound s) (h : emitBlock s = .ok (b, t)) : encSound t := by
  obtain ⟨hview, hlit⟩ := emitBlock_enc h
  obtain ⟨hsv, hpend, hpv⟩ := pushView_eq hview
  obtain ⟨-, -, -, -, hlimit, -⟩ := sourceView_eq hsv
  obtain ⟨hp, ⟨-, -, -, -, -, h0, hl⟩, hps, ha, -⟩ := id hs
  exact encSound_of_view hs hsv (hpv.trans hp) (by rwa [hlit]) (by rwa [hlit]) (pendingSound_congr hpend hlit hlimit hps)
    ((emitBlock_keeps h).arraysLegal ha)

theorem putEos_view (s : State) : encView (putEos s) = encView s := by
  unfold putEos
  dsimp only
  rw [releaseDst_eq]
  rfl

/-- How ENC_FINISH ends. -/
def Finished (r : Status × State) : Prop :=
  (r.1 = .ok ∧ r.2.res0 = r.2.enc.dstPos - r.2.enc.dstBegin ∧ encSound r.2) ∨ (r.1 = .dstFull ∧ encSound r.2) ∨
    (r.1 = .error ∧ r.2.enc.poisoned = true)

theorem encFinish_ends {s : State} (hs : encSound s) : ∃ r, encFinish s = .ok r ∧ Finished r := by
  have h1 := finishPending_answers hs
  unfold encFinish
  generalize finishPending s = r1 at h1
  cases h1 with
  | error hp => exact ⟨_, rfl, .inr (.inr ⟨rfl, hp⟩)⟩
  | @done s1 hd =>
    obtain ⟨hs1, hpend⟩ := hd
    have h2 := finishLiterals_answers hs1 hpend
    dsimp only
    generalize finishLiterals s1 = r2 at h2
    cases h2 with
    | error hp => exact ⟨_, rfl, .inr (.inr ⟨rfl, hp⟩)⟩
    | @done s2 hs2 =>
      obtain ⟨b, s3, hemit⟩ := emitBlock_ends (encArrays_of_sound hs2)
      simp only [hemit]
      cases b with
      | false => exact ⟨_, rfl, .inr (.inr ⟨rfl, rfl⟩)⟩
      | true =>
        have hs3 := emitBlock_sound hs2 hemit
        dsimp only
        split
        · exact ⟨_, rfl, .inr (.inl ⟨rfl, encSound_congr (s := s3) rfl hs3⟩)⟩
        · exact ⟨_, rfl, .inl ⟨rfl, word64_sub _ _, encSound_congr (s := s3) (putEos_view s3) hs3⟩⟩

theorem writeBackEnc_fault {s t : State} (h : encKey t = encKey s) : (writeBackEnc t).fault = s.fault :=
  fault_of_encKey (t := t) h

theorem encFinish_fault (s : State) : Ends (fun r => r.2.fault = s.fault) (encFinish s) := by
  unfold encFinish
  split
  · exact ends_error
  · rename_i e1
    exact ends_ok.mpr (writeBackEnc_fault (finishPending_key e1))
  · rename_i e1
    have k1 := finishPending_key e1
    split
    · exact ends_error
    · rename_i e2
      exact ends_ok.mpr (writeBackEnc_fault ((finishLiterals_key e2).trans k1))
    · rename_i e2
      have k2 := (finishLiterals_key e2).trans k1
      split
      · exact ends_error
      · rename_i e3
        exact ends_ok.mpr (writeBackEnc_fault ((emitBlock_key e3).trans k2))
      · rename_i e3
        have k3 := (emitBlock_key e3).trans k2
        split
        · exact ends_ok.mpr (writeBackEnc_fault k3)
        · exact ends_ok.mpr (writeBackEnc_fault (t := putEos _) ((putEos_key _).trans k3))

theorem exec_encFinish_ends {s : State} (hr : ready s) (hs : encSound s) :
    ∃ t, exec .encFinish s = .next t ∧ t.fault = none ∧ Finished (t.status, t) := by
  obtain ⟨hp, -⟩ := id hs
  obtain ⟨⟨st, u⟩, hrun, hend⟩ := encFinish_ends hs
  have hexec : exec .encFinish s = .next { u with status := st } := by
    show command s (raiseEncPoisoned s (encFinish s)) = _
    rw [raiseEncPoisoned_clear hp, hrun, command_ok hr]
  exact ⟨_, hexec, (encFinish_fault s _ hrun).trans hr, hend⟩

/-! ### The obligations of the encoder's front end -/

/-- A command that faults does not end OK. -/
theorem not_ok_of_faulted {i : Instr} {s t : State} {c : Cause} {n : Nat} (h : exec i s = .next t) (hok : t.status = .ok)
    (hf : exec i s = .next (faulted c n s)) : False := by
  rw [h] at hf
  injection hf with hf
  rw [hf] at hok
  cases hok

section Real

variable {s t : State} (hr : ready s) (hs : encSound s) (hreal : encReal s) (hok : t.status = .ok)

include hr hs hreal hok

theorem encReal_of_encBase (h : exec .encBase s = .next t) : encReal t := by
  obtain ⟨hp, -⟩ := id hs
  by_cases hl : s.arg0.toNat ≤ s.enc.srcLimit.toNat
  · obtain ⟨u, hu, -, hend⟩ := exec_encBase_ends hr hs hl
    rw [h] at hu
    injection hu with hu
    subst hu
    rcases hend with ⟨-, hkept, -⟩ | ⟨herr, -⟩
    · exact hkept.real hreal
    · rw [hok] at herr
      cases herr
  · exact (not_ok_of_faulted h hok (exec_encBase_beyond hr hp (.inl (Nat.not_le.mp hl)))).elim

theorem encReal_of_backendLiterals (h : exec .backendLiterals s = .next t) : encReal t := by
  obtain ⟨hp, ⟨-, -, -, -, -, -, hlit⟩, -⟩ := id hs
  by_cases hfit : s.enc.srcLiteral.toInt + s.arg0.toNat ≤ s.enc.srcLimit.toNat
  · obtain ⟨u, hu, -, hend⟩ := exec_backendLiterals_ends hr hs hfit
    rw [h] at hu
    injection hu with hu
    subst hu
    rcases hend with ⟨-, -, hkept⟩ | ⟨herr, -⟩
    · exact hkept hreal
    · rw [hok] at herr
      cases herr
  · exact (not_ok_of_faulted h hok (exec_backendLiterals_beyond hr hp (by omega) (by omega))).elim

theorem encReal_of_encTranslate (hwf : sparseWf emptyBucket s.enc.hist = true) (he : s.arg0.toNat ≤ s.enc.srcEnd.toNat)
    (h : exec .encTranslate s = .next t) : encReal t := by
  obtain ⟨hp, -⟩ := id hs
  by_cases hfit : s.enc.srcLiteral.toInt < s.arg0.toNat ∨ s.enc.srcEncodeI.toInt < s.arg0.toNat
  · exact (not_ok_of_faulted h hok (exec_encTranslate_below hr hp hfit)).elim
  · obtain ⟨u, hu, -, hkept⟩ := exec_encTranslate_ends hr ⟨hs, hwf, he, by omega, by omega⟩
    rw [h] at hu
    injection hu with hu
    subst hu
    exact hkept.real hreal

end Real

/-- Settles O54: covered positions only enter their buckets; else the search finds candidates that agree with the position, and a
position's step keeps what stands in the source. -/
theorem encBaseCovered : Obligations.EncBaseCovered := by
  refine ⟨fun s hr hp => ⟨exec_encBase_beyond hr hp, fun hl hmax hs hcov => ?_⟩, fun s t hr h hf => ?_, fun s hs hreal => ?_,
    fun s t hr hs hreal => ⟨?_, ?_, ?_⟩⟩
  · obtain ⟨t, hrun, ht, hsame, hone⟩ := encBase_covered hr hp hl hmax hs hcov
    obtain ⟨-, -, -, -, hi, -⟩ := hs
    have hx := srcIndex_nonneg (s := s) hi
    rw [posBucket, newBucket, newPair, posBucket, posValue, hx, hashOf_eq] at hone
    exact ⟨t, hrun, ht, hsame, hone⟩
  · obtain ⟨hsrc, hdst⟩ := exec_encInit_ran hr h hf
    rw [exec_encInit_runs hr hsrc hdst] at h
    injection h with h
    exact h ▸ encReal_congr (encView_ended (encInit s) 0 0 .ok) (encInit_real hsrc)
  · intro pos hafter hroom k
    have hat : AtPosition s := ⟨hs, hroom⟩
    obtain ⟨best, hbest, hpos, hcand⟩ := search_best hat k
    rw [posValue, srcIndex_nonneg hat.nonneg] at hbest
    refine ⟨best, hbest, fun hne => ?_⟩
    obtain ⟨m, hm, hfound⟩ := expandMatch_found hat hafter hpos (hcand hne)
    exact ⟨m, hm, hfound.sendable.after, hfound.long, hfound.fits, hfound.real hreal.1⟩
  · exact fun h hok => encReal_of_encBase hr hs hreal hok h
  · exact fun h hok => encReal_of_backendLiterals hr hs hreal hok h
  · exact fun hwf he h hok => encReal_of_encTranslate hr hs hreal hok hwf he h

/-- Settles O56: in a sound context every push is within its operands, every read within the source, and EMIT_BLOCK always ends. -/
theorem encoderNeverFaults : Obligations.EncoderNeverFaults := by
  refine ⟨fun s hr hsrc hdst hmax ha => ?_, fun s hr hs hl => ?_, fun s hr hs hfit => ?_, fun s hr hs hwf he hl hi => ?_,
    fun s hr hs => exec_encFinish_ends hr hs⟩
  · exact ⟨_, exec_encInit_runs hr hsrc hdst,
      encSound_congr (encView_ended (encInit s) 0 0 .ok) (encInit_sound hsrc hdst hmax ha)⟩
  · obtain ⟨t, hrun, hf, hend⟩ := exec_encBase_ends hr hs hl
    exact ⟨t, hrun, hf, hend.imp_left fun ⟨hok, hkept, hres⟩ => ⟨hok, hkept.sound, hres⟩⟩
  · obtain ⟨t, hrun, hf, hend⟩ := exec_backendLiterals_ends hr hs hfit
    exact ⟨t, hrun, hf, hend.imp_left fun ⟨hok, hsound, _⟩ => ⟨hok, hsound⟩⟩
  · obtain ⟨t, hrun, hok, hkept⟩ := exec_encTranslate_ends hr ⟨hs, hwf, he, hl, hi⟩
    exact ⟨t, hrun, hok, hkept.sound⟩

end Sys2Proof.Proofs

namespace Sys2Proof.Proofs

open Sys2Proof Sys2Proof.Machine Sys2Proof.Laws

/-! ## STORE_RAW and DEC_BUFFER on what it wrote (46_encoder_backend.md R270, 44_decoder_engine.md R203 to R205, R218) -/

/-- A raw block of n source bytes and the end-of-stream block stand at index `a` (R270). -/
structure RawStreamAt (m : Memory) (a n : Nat) (src : Memory) (p : Nat) : Prop where
  magic : bytesAt m a (leBytes 4 magicRaw)
  count : bytesAt m (a + 4) (leBytes 4 n)
  body : ∀ k, k < n → readByte m (a + 8 + k) = readByte src (p + k)
  eos : bytesAt m (a + 8 + n) (leBytes 4 magicEos)

theorem rawStreamAt_of_bytesAt {m : Memory} {a n : Nat} {s : State} (h : bytesAt m a (rawStream s n)) :
    RawStreamAt m a n s.src s.cur.srcPos.toNat := by
  simp only [rawStream, bytesAt_append, List.length_append, leBytes_length, readBytes_length] at h
  obtain ⟨⟨⟨hmagic, hcount⟩, hbody⟩, heos⟩ := h
  rw [← Nat.add_assoc] at heos
  refine ⟨hmagic, hcount, fun k hk => ?_, heos⟩
  rw [show a + 8 + k = a + (4 + 4) + k from rfl, hbody k (by rw [readBytes_length]; exact hk), readBytes_getElem]

/-- STORE_RAW where the source is short enough and the destination has room (R270). -/
theorem storeRaw_fits {s : State} (hn : s.cur.srcEnd.toNat - s.cur.srcPos.toNat ≤ 2 ^ 31 - 2)
    (hroom : s.cur.dstPos.toNat + (s.cur.srcEnd.toNat - s.cur.srcPos.toNat) + 12 ≤ s.cur.dstEnd.toNat) :
    ∃ d tag, storeRaw s = (true, { s with
        dst := d, freeTag := tag,
        cur := { s.cur with
          dstPos := BitVec.ofNat 64 (s.cur.dstPos.toNat + (s.cur.srcEnd.toNat - s.cur.srcPos.toNat) + 12),
          srcPos := s.cur.srcEnd },
        res0 := BitVec.ofNat 64 (s.cur.srcEnd.toNat - s.cur.srcPos.toNat + 12) }) ∧
      RawStreamAt d s.cur.dstPos.toNat (s.cur.srcEnd.toNat - s.cur.srcPos.toNat) s.src s.cur.srcPos.toNat ∧
      sameOutside s.cur.dstPos.toNat s.cur.dstEnd.toNat s.dst d := by
  generalize hcount : s.cur.srcEnd.toNat - s.cur.srcPos.toNat = n at hn hroom ⊢
  have hlength := rawStream_length s n
  refine ⟨_, (storeAtDstPos (rawStream s n) s).freeTag, ?_, rawStreamAt_of_bytesAt (storeAtDstPos_bytes (rawStream s n) s),
    storeAtDstPos_outside (rawStream s n) s (by omega)⟩
  have hfits : ¬(srcMax < n ∨ s.cur.dstEnd.toNat < s.cur.dstPos.toNat + n + 12) := by
    rw [show srcMax = 2 ^ 31 - 2 from rfl]
    omega
  unfold storeRaw
  dsimp only
  rw [hcount, if_neg hfits, storeAtDstPos_eq, hlength]
  rfl

theorem storeRaw_short {s : State} (h : 2 ^ 31 - 2 < s.cur.srcEnd.toNat - s.cur.srcPos.toNat ∨
      s.cur.dstEnd.toNat < s.cur.dstPos.toNat + (s.cur.srcEnd.toNat - s.cur.srcPos.toNat) + 12) :
    storeRaw s = (false, s.withRes0 0) := by
  unfold storeRaw
  exact if_pos h

theorem exec_storeRaw {s : State} (hr : ready s) (hs : srcOk s) (hd : dstOk s) :
    exec .storeRaw s = .next { (storeRaw s).2 with status := okOrError (storeRaw s).1 } := by
  show command s (raiseOpt (cursorFault s) _) = _
  rw [cursorFault_none hs hd, raiseOpt_none, command_ok hr]

/-- Settles O57: the cursors fault as for every public command; STORE_RAW is a length test, then one store at DST_POS. -/
theorem storeRawOutcomes : Obligations.StoreRawOutcomes := by
  refine fun s hr => ⟨exec_cursors_src (by simp) hr, exec_cursors_dst (by simp) hr, fun hs hd => ⟨fun hshort => ?_,
    fun hn hroom => ?_⟩⟩
  · rw [exec_storeRaw hr hs hd, storeRaw_short hshort]
    rfl
  · obtain ⟨d, tag, hrun, hstream, houtside⟩ := storeRaw_fits hn hroom
    refine ⟨_, exec_storeRaw hr hs hd, ?_⟩
    rw [hrun]
    exact ⟨rfl, hstream.magic, memRead_of_word hstream.count (by omega), hstream.body, hstream.eos, houtside⟩

end Sys2Proof.Proofs

namespace Sys2Proof.Proofs

open Sys2Proof Sys2Proof.Machine Sys2Proof.Laws

/-! ### DEC_STEP on a raw block and the end of the stream (R203 to R205) -/

theorem RawStreamAt.of_same {m m' : Memory} {a a' n : Nat} {src : Memory} {p : Nat} (h : RawStreamAt m a n src p)
    (hsame : ∀ k, k < n + 12 → readByte m' (a' + k) = readByte m (a + k)) : RawStreamAt m' a' n src p := by
  have move {i : Nat} {l : List U8} (hl : i + l.length ≤ n + 12) (hb : bytesAt m (a + i) l) : bytesAt m' (a' + i) l := by
    intro k hk
    rw [Nat.add_assoc, hsame (i + k) (by omega), ← Nat.add_assoc, hb k hk]
  refine ⟨move (i := 0) (by rw [leBytes_length]; omega) h.magic, move (by rw [leBytes_length]; omega) h.count,
    fun k hk => ?_, ?_⟩
  · rw [Nat.add_assoc, hsame (8 + k) (by omega), ← Nat.add_assoc, h.body k hk]
  · rw [Nat.add_assoc]
    exact move (by rw [leBytes_length]; omega) (Nat.add_assoc .. ▸ h.eos)

/-- The state in which DEC_STEP copies a raw block of n bytes, its 8 bytes of header read (R204). -/
def rawOpened (n : Nat) (s : State) : State :=
  { s with dec := { s.dec with
      rawRemaining := BitVec.ofNat 32 n, cur := { s.dec.cur with srcPos := nat64 (s.dec.cur.srcPos.toNat + 8) }, block := .raw } }

/-- The state past the end-of-stream magic (R203). -/
def streamEnded (s : State) : State :=
  { s with dec := { s.dec with cur := { s.dec.cur with srcPos := nat64 (s.dec.cur.srcPos.toNat + 4) }, endOfStream := true } }

/-- The state in which DEC_STEP ends on a raw block of n bytes with the end of the stream behind it. -/
def rawStreamRead (n : Nat) (s : State) : State := streamEnded (setDecBlock .noBlock (copyRaw n (rawOpened n s)))

section RawStream

variable {s : State} {n : Nat} {src : Memory} {p : Nat} (hn : n < 2 ^ 32)
  (hsrc : s.dec.cur.srcPos.toNat + n + 12 ≤ s.dec.cur.srcEnd.toNat)
  (hdst : s.dec.cur.dstPos.toNat + n ≤ s.dec.cur.dstEnd.toNat)

include hsrc in
theorem rawOpened_srcPos : (rawOpened n s).dec.cur.srcPos.toNat = s.dec.cur.srcPos.toNat + 8 :=
  nat64_lt (by have := s.dec.cur.srcEnd.isLt; omega)

include hn in
theorem rawOpened_remaining : (rawOpened n s).dec.rawRemaining.toNat = n := Nat.mod_eq_of_lt hn

include hsrc in
theorem copied_srcPos : (copyRaw n (rawOpened n s)).dec.cur.srcPos.toNat = s.dec.cur.srcPos.toNat + 8 + n := by
  have hpos := rawOpened_srcPos hsrc
  have hend : (rawOpened n s).dec.cur.srcEnd = s.dec.cur.srcEnd := rfl
  rw [copyRaw_srcPos (by rw [hend, hpos]; omega), hpos]

include hsrc in
theorem rawStreamRead_srcPos : (rawStreamRead n s).dec.cur.srcPos.toNat = s.dec.cur.srcPos.toNat + (n + 12) := by
  have hpos : (setDecBlock .noBlock (copyRaw n (rawOpened n s))).dec.cur.srcPos.toNat = s.dec.cur.srcPos.toNat + 8 + n :=
    copied_srcPos hsrc
  have hlt := s.dec.cur.srcEnd.isLt
  refine (nat64_lt ?_).trans ?_
  · rw [hpos]
    omega
  · rw [hpos]
    omega

include hdst in
theorem rawStreamRead_dstPos : (rawStreamRead n s).dec.cur.dstPos.toNat = s.dec.cur.dstPos.toNat + n :=
  copyRaw_dstPos (s := rawOpened n s) (Nat.le_sub_of_add_le' hdst)

include hsrc in
theorem rawStreamRead_stored (h : RawStreamAt s.src s.dec.cur.srcPos.toNat n src p) {k : Nat} (hk : k < n) :
    readByte (rawStreamRead n s).dst (s.dec.cur.dstPos.toNat + k) = readByte src (p + k) := by
  refine (copyRaw_stored n (rawOpened n s) hk).trans ?_
  rw [rawOpened_srcPos hsrc]
  exact h.body k hk

include hn hsrc hdst

theorem rawOpened_count : rawCount (rawOpened n s) = n := by
  have hpos := rawOpened_srcPos hsrc
  have hend : (rawOpened n s).dec.cur.srcEnd = s.dec.cur.srcEnd := rfl
  have hroom : (rawOpened n s).dec.cur.dstEnd.toNat - (rawOpened n s).dec.cur.dstPos.toNat =
    s.dec.cur.dstEnd.toNat - s.dec.cur.dstPos.toNat := rfl
  rw [rawCount, rawOpened_remaining hn, hend, hpos, hroom]
  omega

/-- DEC_STEP reads the stream that STORE_RAW writes: header, copy, close, end of stream. -/
theorem runs_rawStream (hb : s.dec.block = .noBlock) (h : RawStreamAt s.src s.dec.cur.srcPos.toNat n src p) :
    Runs s (.ok, rawStreamRead n s) := by
  have hcount := rawOpened_count hn hsrc hdst
  have hopen : blockStep s = .cont (rawOpened n s) := by
    rw [blockStep_between hb, betweenBlocks_raw (by omega) (memRead_of_word h.magic (by decide)), if_neg (by omega),
      memRead_of_word h.count hn]
    rfl
  have hclose := raw_closes (s := rawOpened n s) rfl (hcount.trans (rawOpened_remaining hn).symm)
  have hpos := copied_srcPos hsrc
  have hend : blockStep (setDecBlock .noBlock (copyRaw n (rawOpened n s))) = .stop .ok (rawStreamRead n s) := by
    refine (blockStep_between rfl).trans (betweenBlocks_eos ?_ (memRead_of_word (n := 4) ?_ (by decide)))
    · show (copyRaw n (rawOpened n s)).dec.cur.srcPos.toNat + 4 ≤ s.dec.cur.srcEnd.toNat
      omega
    · show bytesAt s.src (copyRaw n (rawOpened n s)).dec.cur.srcPos.toNat _
      rw [hpos]
      exact h.eos
  rw [runs_cont hopen, raw_runs rfl, runs_cont hclose, hcount]
  exact runs_of_stop hend

end RawStream

/-- A position n past its begin is n past it as a register too. -/
theorem sub_eq_ofNat_of_toNat_eq {a b : U64} {n : Nat} (h : a.toNat = b.toNat + n) : a - b = BitVec.ofNat 64 n := by
  have hle : b ≤ a := by
    rw [BitVec.le_def]
    omega
  apply BitVec.eq_of_toNat_eq
  rw [BitVec.toNat_sub_of_le hle, BitVec.toNat_ofNat, h, Nat.add_sub_cancel_left, Nat.mod_eq_of_lt]
  have := a.isLt
  omega

/-- Settles O59: STORE_RAW leaves its stream in DST, and DEC_BUFFER on a copy of that stream reads the header, copies and ends. -/
theorem rawRoundTrip : Obligations.RawRoundTrip := by
  intro s t u hr hs hd n hn hroom ht hru hsu hdu hsrc hdst hsame
  obtain ⟨d, tag, hstore, hstream, -⟩ := storeRaw_fits hn hroom
  rw [exec_storeRaw hr hs hd, hstore] at ht
  cases ht
  obtain ⟨v, w, hinit, hstep, hbuffer⟩ := (decBufferIsInitThenStep u hru).2.2 hsu hdu
  cases (exec_decInit_runs hru hsu hdu).symm.trans hinit
  generalize hv : ({ (decInit u).withRes 0 0 with status := .ok } : State) = v at hstep
  have hcur : v.dec.cur = { u.cur with srcBegin := u.cur.srcPos, dstBegin := u.cur.dstPos } := by rw [← hv]; rfl
  have hlive : Live v := hv ▸ ⟨hru, rfl, rfl⟩
  have hat : RawStreamAt v.src v.dec.cur.srcPos.toNat n s.src s.cur.srcPos.toNat := by
    rw [hcur, ← hv]
    exact hstream.of_same hsame
  have hfits : v.dec.cur.srcPos.toNat + n + 12 ≤ v.dec.cur.srcEnd.toNat := by rwa [hcur]
  have hspace : v.dec.cur.dstPos.toNat + n ≤ v.dec.cur.dstEnd.toNat := by rwa [hcur]
  have hruns := runs_rawStream (by omega) hfits hspace (hv ▸ rfl) hat
  have hread := rawStreamRead_srcPos hfits
  have hwritten := rawStreamRead_dstPos hspace
  cases (exec_decStep_of_runs hlive hruns).symm.trans hstep
  have hsrcBegin : v.dec.cur.srcPos = (rawStreamRead n v).dec.cur.srcBegin := by
    show v.dec.cur.srcPos = v.dec.cur.srcBegin
    rw [hcur]
  have hdstBegin : v.dec.cur.dstPos = (rawStreamRead n v).dec.cur.dstBegin := by
    show v.dec.cur.dstPos = v.dec.cur.dstBegin
    rw [hcur]
  have hbegin : (decEnd .ok (rawStreamRead n v)).dec.cur = (rawStreamRead n v).dec.cur := by rw [decEnd_dec]
  refine ⟨_, hbuffer, rfl, ?_, ?_, fun k hk => ?_⟩
  · show (decEnd .ok (rawStreamRead n v)).dec.cur.dstPos - (decEnd .ok (rawStreamRead n v)).dec.cur.dstBegin = _
    rw [hbegin]
    exact sub_eq_ofNat_of_toNat_eq (hwritten.trans (congrArg (·.toNat + n) hdstBegin))
  · show (decEnd .ok (rawStreamRead n v)).dec.cur.srcPos - (decEnd .ok (rawStreamRead n v)).dec.cur.srcBegin = _
    rw [hbegin]
    exact sub_eq_ofNat_of_toNat_eq (hread.trans (congrArg (·.toNat + (n + 12)) hsrcBegin))
  · show readByte (decEnd .ok (rawStreamRead n v)).dst _ = _
    have hpos : v.dec.cur.dstPos = u.cur.dstPos := by rw [hcur]
    rw [decEnd_outside _ _ _ (by rw [hwritten, hpos]; omega), ← hpos]
    exact rawStreamRead_stored hfits hat hk

end Sys2Proof.Proofs

namespace Sys2Proof.Proofs

open Sys2Proof Sys2Proof.Machine Sys2Proof.Laws

/-! ## ENC_FINISH with nothing left (46_encoder_backend.md R268) -/

/-- Where no match is pending, no literal is left and the block is empty, ENC_FINISH only tests for room and writes the magic. -/
theorem encFinish_nothingLeft {s : State} (hp : s.enc.pending.length = 0)
    (hl : (s.enc.srcEnd.toNat : Int) ≤ s.enc.srcLiteral.toInt) (hlits : s.enc.nLits = 0) (hmatches : s.enc.nMatches = 0) :
    encFinish s = if s.enc.dstEnd.toNat < s.enc.dstPos.toNat + 4 then .ok (.dstFull, writeBackEnc s)
      else .ok (.ok, (writeBackEnc (putEos s)).withRes0 (word64 (encWritten (putEos s)))) := by
  have hpending : finishPending s = .ok (true, s) := if_pos hp
  have hliterals : finishLiterals s = .ok (true, s) := if_neg (by omega)
  have hblock : emitBlock s = .ok (true, s) := if_pos (by simp [nothingToEmit, hlits, hmatches])
  simp only [encFinish, hpending, hliterals, hblock]

/-- The end-of-stream block stands at ENC.dst_pos (R268). -/
theorem putEos_bytes (s : State) : bytesAt (putEos s).dst s.enc.dstPos.toNat (leBytes 4 magicEos) := by
  intro i hi
  rw [leBytes_length] at hi
  unfold putEos
  rw [releaseDst_outside _ _ _ _ (by omega)]
  exact readByte_writeBytes_inside _ _ _ _ (by rwa [leBytes_length])

theorem putEos_outside {s : State} (h : s.enc.dstPos.toNat + 4 ≤ s.enc.dstEnd.toNat) :
    sameOutside s.enc.dstPos.toNat s.enc.dstEnd.toNat s.dst (putEos s).dst := by
  intro a ha
  unfold putEos
  rw [releaseDst_outside _ _ _ _ (by omega)]
  exact readByte_writeBytes_outside _ _ _ _ (by rw [leBytes_length]; omega)

theorem putEos_eq (s : State) : putEos s = { s with
    dst := (putEos s).dst, freeTag := (putEos s).freeTag,
    enc := { s.enc with dstPos := s.enc.dstPos + 4, active := false } } := by
  have hpos : nat64 (s.enc.dstPos.toNat + 4) = s.enc.dstPos + 4 := nat64_add _ _
  unfold putEos
  rw [releaseDst_eq, hpos]

/-- Settles O55: each of the three stages before the magic has nothing to do. -/
theorem encFinishWritesEos : Obligations.EncFinishWritesEos := by
  intro s hr hp hpending hl hlits hmatches
  have hrun : exec .encFinish s = command s (encFinish s) := by
    show command s (raiseEncPoisoned s _) = _
    rw [raiseEncPoisoned_clear hp]
  rw [hrun, encFinish_nothingLeft hpending hl hlits hmatches]
  refine ⟨fun h => ?_, fun h => ?_⟩
  · rw [if_pos h, command_ok hr]
    rfl
  · rw [if_neg (not_lt.mpr h), command_ok hr]
    refine ⟨_, rfl, ?_, putEos_bytes s, putEos_outside h⟩
    rw [encWritten, word64_sub, putEos_eq]
    rfl

end Sys2Proof.Proofs

namespace Sys2Proof.Proofs

open Sys2Proof Sys2Proof.Machine Sys2Proof.Laws

/-! ## What an encode keeps of its source region and destination (10_state.md R53) -/

/-- The source region and the ends of the destination, which ENC_INIT sets and no push or emission moves. -/
def encWindow (c : EncCtx) := (c.srcLo, c.srcBegin, c.srcLimit, c.srcEnd, c.dstBegin, c.dstEnd)

section Window

variable {s t : State} {b : Bool}

theorem pushLmd_window {l m d : Nat} (h : pushLmd l m d s = .ok (b, t)) : encWindow t.enc = encWindow s.enc := by
  unfold pushLmd at h
  split at h
  · cases h
    rfl
  · split at h
    · cases h
    · cases h
      rfl

theorem pushRuns_window {q : Nat} (h : pushRuns q s = .ok (b, t)) : encWindow t.enc = encWindow s.enc := by
  induction q generalizing s with
  | zero =>
    cases h
    rfl
  | succ q ih =>
    rw [pushRuns] at h
    split at h
    · cases h
    · rename_i e
      cases h
      exact pushLmd_window e
    · rename_i e
      exact (ih h).trans (pushLmd_window e)

theorem pushPieces_window {d m q l : Nat} (h : pushPieces d m q l s = .ok (b, t)) : encWindow t.enc = encWindow s.enc := by
  induction q generalizing l s with
  | zero =>
    rw [pushPieces] at h
    split at h
    · exact pushLmd_window h
    · cases h
      rfl
  | succ q ih =>
    rw [pushPieces] at h
    split at h
    · cases h
    · rename_i e
      cases h
      exact pushLmd_window e
    · rename_i e
      exact (ih h).trans (pushLmd_window e)

theorem pushSplit_window {l m d : Nat} (h : pushSplit l m d s = .ok (b, t)) : encWindow t.enc = encWindow s.enc := by
  unfold pushSplit at h
  dsimp only at h
  split at h
  · cases h
  · rename_i e
    cases h
    exact pushRuns_window e
  · rename_i e
    exact (pushPieces_window h).trans (pushRuns_window e)

theorem pushMatch_window {pos ref : Int} {n : Nat} (h : pushMatch pos ref n s = .ok (b, t)) :
    encWindow t.enc = encWindow s.enc := by
  unfold pushMatch at h
  replace h := (raiseIf_ok (raiseIf_ok (raiseIf_ok h).2).2).2
  split at h
  · cases h
  · rename_i e
    cases h
    exact pushSplit_window e
  · rename_i e
    have k := pushSplit_window e
    cases h
    exact k

theorem emitBlock_window (h : emitBlock s = .ok (b, t)) : encWindow t.enc = encWindow s.enc := by
  rcases emitBlock_cases h with ⟨-, rfl⟩ | ⟨u, -, henc, ⟨-, rfl⟩ | ⟨-, payload, hclose, -⟩⟩
  · rfl
  · rw [rollback_enc]
    dsimp only [releaseEncArrays]
    rw [henc]
    rfl
  · obtain ⟨-, hc⟩ := closeBlock_ok hclose
    rw [hc, henc]
    rfl

theorem backendMatch_window {pos ref : Int} {n : Nat} (h : backendMatch pos ref n s = .ok (b, t)) :
    encWindow t.enc = encWindow s.enc := by
  unfold backendMatch at h
  split at h
  · cases h
  · rename_i e1
    cases h
    exact pushMatch_window e1
  · rename_i e1
    have k1 := pushMatch_window e1
    split at h
    · cases h
    · rename_i e2
      cases h
      exact (emitBlock_window e2).trans k1
    · rename_i e2
      have k2 := (emitBlock_window e2).trans k1
      split at h
      · cases h
      · rename_i e3
        cases h
        exact (pushMatch_window e3).trans k2
      · rename_i e3
        cases h
        exact (pushMatch_window e3).trans k2

theorem backendLiterals_window {l : Nat} (h : backendLiterals l s = .ok (b, t)) : encWindow t.enc = encWindow s.enc :=
  backendMatch_window h

theorem sendMatch_window {m : Match} {f : State → State} (hf : ∀ u, encWindow (f u).enc = encWindow u.enc)
    (h : sendMatch m f s = .ok (b, t)) : encWindow t.enc = encWindow s.enc := by
  unfold sendMatch at h
  split at h
  · cases h
  · rename_i e
    cases h
    exact (hf _).trans (backendMatch_window e)
  · rename_i e
    cases h
    exact backendMatch_window e

theorem sendPending_window (h : sendPending s = .ok (b, t)) : encWindow t.enc = encWindow s.enc :=
  sendMatch_window (f := dropPending) (fun _ => rfl) (sendPending_eq s ▸ h)

theorem noCandidate_window {pos : Int} (h : noCandidate pos s = .ok (b, t)) : encWindow t.enc = encWindow s.enc := by
  unfold noCandidate at h
  split at h
  · cases h
    rfl
  · split at h
    · exact backendLiterals_window h
    · exact sendPending_window h

theorem chooseMatch_window {m : Match} (h : chooseMatch m s = .ok (b, t)) : encWindow t.enc = encWindow s.enc := by
  unfold chooseMatch at h
  dsimp only at h
  split at h
  · exact sendMatch_window (f := dropPending) (fun _ => rfl) h
  · split at h
    · cases h
      rfl
    · split at h
      · exact sendMatch_window (f := setPending m) (fun _ => rfl) h
      · exact sendMatch_window (f := dropPending) (fun _ => rfl) h

theorem positionStep_window {pos : Int} {x : Nat} {old : Bucket} (h : positionStep pos x old s = .ok (b, t)) :
    encWindow t.enc = encWindow s.enc := by
  unfold positionStep at h
  split at h
  · cases h
    rfl
  · split at h
    · cases h
    · split at h
      · exact noCandidate_window h
      · split at h
        · cases h
        · exact chooseMatch_window h

theorem basePosition_window (h : basePosition s = .ok (b, t)) : encWindow t.enc = encWindow s.enc := by
  unfold basePosition at h
  dsimp only at h
  split at h
  · cases h
  · split at h
    · cases h
    · cases h
      unfold failPosition
      rw [releaseDst_eq]
      rfl
    · rename_i e
      have k := positionStep_window e
      cases h
      exact k

theorem baseLoop_window {n : Nat} (h : baseLoop n s = .ok (b, t)) : encWindow t.enc = encWindow s.enc := by
  induction n generalizing s with
  | zero =>
    cases h
    rfl
  | succ n ih =>
    rw [baseLoop] at h
    split at h
    · cases h
    · rename_i e
      cases h
      exact basePosition_window e
    · rename_i e
      exact (ih h).trans (basePosition_window e)

theorem encBase_window {n : Nat} (h : encBase n s = .ok (b, t)) :
    encWindow t.enc = encWindow (setEncSrcEnd n s).enc := by
  unfold encBase at h
  exact baseLoop_window (raiseIf_ok h).2

theorem finishPending_window (h : finishPending s = .ok (b, t)) : encWindow t.enc = encWindow s.enc := by
  unfold finishPending at h
  split at h
  · cases h
    rfl
  · exact sendPending_window h

theorem finishLiterals_window (h : finishLiterals s = .ok (b, t)) : encWindow t.enc = encWindow s.enc := by
  unfold finishLiterals at h
  dsimp only at h
  split at h
  · exact backendLiterals_window h
  · cases h
    rfl

theorem encFinish_window {st : Status} (h : encFinish s = .ok (st, t)) : encWindow t.enc = encWindow s.enc := by
  unfold encFinish at h
  split at h
  · cases h
  · rename_i e1
    have k1 := finishPending_window e1
    cases h
    exact k1
  · rename_i e1
    have k1 := finishPending_window e1
    split at h
    · cases h
    · rename_i e2
      cases h
      exact (finishLiterals_window e2).trans k1
    · rename_i e2
      have k2 := (finishLiterals_window e2).trans k1
      split at h
      · cases h
      · rename_i e3
        cases h
        exact (emitBlock_window e3).trans k2
      · rename_i e3
        have k3 := (emitBlock_window e3).trans k2
        split at h
        · cases h
          exact k3
        · cases h
          refine Eq.trans ?_ k3
          rw [putEos_eq]
          rfl

end Window

end Sys2Proof.Proofs

namespace Sys2Proof.Proofs

open Sys2Proof Sys2Proof.Machine Sys2Proof.Laws

/-! ## ENC_BUFFER (46_encoder_backend.md R272, R274) -/

/-! ### ENC_FINISH that ends OK has sent the whole source (R268) -/

theorem finishLiterals_consumed {s t : State} (hs : encSound s) (h : finishLiterals s = .ok (true, t)) :
    (s.enc.srcEnd.toNat : Int) ≤ t.enc.srcLiteral.toInt := by
  obtain ⟨-, -, -, hend, -, h0, -⟩ := encSource_of_sound hs
  unfold finishLiterals at h
  dsimp only at h
  split at h
  · have hsent := backendLiterals_answers (l := ((s.enc.srcEnd.toNat : Int) - s.enc.srcLiteral.toInt).toNat)
      (encOpen_of_sound hs) (encArrays_of_sound hs) (by omega)
    rw [h] at hsent
    obtain ⟨-⟩ | ⟨-, hlit, -⟩ := hsent
    simp only [literalRun] at hlit
    omega
  · cases h
    omega

/-- The stages of an ENC_FINISH that ends OK. -/
theorem encFinish_ok {s t : State} (h : encFinish s = .ok (.ok, t)) : ∃ s1 s2 s3, finishPending s = .ok (true, s1) ∧
    finishLiterals s1 = .ok (true, s2) ∧ emitBlock s2 = .ok (true, s3) ∧
    t = (writeBackEnc (putEos s3)).withRes0 (word64 (encWritten (putEos s3))) := by
  unfold encFinish at h
  split at h
  · cases h
  · cases h
  · rename_i e1
    split at h
    · cases h
    · cases h
    · rename_i e2
      split at h
      · cases h
      · cases h
      · rename_i e3
        split at h
        · cases h
        · cases h
          exact ⟨_, _, _, e1, e2, e3, rfl⟩

theorem encFinish_consumed {s t : State} (hs : encSound s) (h : encFinish s = .ok (.ok, t)) :
    (s.enc.srcEnd.toNat : Int) ≤ t.enc.srcLiteral.toInt := by
  obtain ⟨s1, s2, s3, e1, e2, e3, rfl⟩ := encFinish_ok h
  have h1 := finishPending_answers hs
  have hend := finishPending_window e1
  rw [e1] at h1
  obtain ⟨-⟩ | ⟨hs1, -⟩ := h1
  simp only [encWindow, Prod.mk.injEq] at hend
  obtain ⟨-, -, -, hend, -⟩ := hend
  have hlit : ((writeBackEnc (putEos s3)).withRes0 (word64 (encWritten (putEos s3)))).enc.srcLiteral = s2.enc.srcLiteral := by
    rw [← (emitBlock_enc e3).2, putEos_eq]
    rfl
  rw [hlit, ← hend]
  exact finishLiterals_consumed hs1 e2

/-! ### The FSE path (R272) -/

/-- What the FSE path keeps for the end of ENC_BUFFER: no fault, and the ends of both cursor trios. -/
structure PathKept (s t : State) : Prop where
  fault : t.fault = s.fault
  srcEnd : t.cur.srcEnd = s.cur.srcEnd
  dstEnd : t.cur.dstEnd = s.cur.dstEnd

/-- How an FSE path that ends OK leaves the cursor registers and RES0. -/
structure PathDone (s t : State) : Prop where
  srcPos : t.cur.srcPos = s.cur.srcEnd
  dstPos : t.cur.dstPos = s.cur.dstPos + t.res0

section FsePath

variable {s t : State} (hsrc : srcOk s)

/-- The length of the source at the cursor registers, as ENC_BUFFER counts it (R272). -/
abbrev sourceLength (s : State) : Nat := s.cur.srcEnd.toNat - s.cur.srcPos.toNat

theorem sourceLength_toNat (s : State) : (nat64 (sourceLength s)).toNat = sourceLength s :=
  nat64_toNat_le (Nat.sub_le _ _)

include hsrc

theorem srcPos_add_sourceLength : s.cur.srcPos.toNat + sourceLength s = s.cur.srcEnd.toNat :=
  Nat.add_sub_cancel' hsrc.2.1

/-- The window of the encode that ENC_BUFFER starts on its own. -/
theorem encInit_window : encWindow (setEncSrcEnd (sourceLength s) (encInit s)).enc =
    (s.cur.srcBegin, s.cur.srcPos, nat64 (sourceLength s), nat64 (sourceLength s), s.cur.dstPos, s.cur.dstEnd) := by
  obtain ⟨-, hle, -⟩ := id hsrc
  rw [encInit_eq hsrc, nat64_sub hle]
  simp only [encWindow, setEncSrcEnd, nat64_sub hle]

theorem pathKept_of_window (hw : encWindow t.enc = encWindow (setEncSrcEnd (sourceLength s) (encInit s)).enc)
    (hc : showsEnc t) (hf : t.fault = s.fault) : PathKept s t := by
  rw [encInit_window hsrc] at hw
  simp only [encWindow, Prod.mk.injEq] at hw
  obtain ⟨-, hbegin, hlimit, -, -, hdst⟩ := hw
  have hend : s.cur.srcPos.toNat + (nat64 (sourceLength s)).toNat = s.cur.srcEnd.toNat := by
    rw [sourceLength_toNat, srcPos_add_sourceLength hsrc]
  refine ⟨hf, ?_, ?_⟩
  · rw [hc, encCursors_srcEnd, hbegin, hlimit]
    · apply BitVec.eq_of_toNat_eq
      rw [BitVec.toNat_add, hend, Nat.mod_eq_of_lt s.cur.srcEnd.isLt]
    · rw [hbegin, hlimit, hend]
      exact s.cur.srcEnd.isLt
  · rw [hc]
    exact hdst

/-- An encode that stands at the end of its source shows SRC_POS = SRC_END. -/
theorem pathDone_of_window (hw : encWindow t.enc = encWindow (setEncSrcEnd (sourceLength s) (encInit s)).enc)
    (hc : showsEnc t) (hs : encSound t) (hlit : (t.enc.srcEnd.toNat : Int) ≤ t.enc.srcLiteral.toInt)
    (hres : t.res0 = t.enc.dstPos - t.enc.dstBegin) : PathDone s t := by
  have hsum := srcPos_add_sourceLength hsrc
  obtain ⟨-, -, -, -, -, -, hlimit'⟩ := encSource_of_sound hs
  rw [encInit_window hsrc] at hw
  simp only [encWindow, Prod.mk.injEq] at hw
  obtain ⟨-, hbegin, hlimit, hend, hdst, -⟩ := hw
  rw [hlimit, sourceLength_toNat] at hlimit'
  rw [hend, sourceLength_toNat] at hlit
  refine ⟨?_, ?_⟩
  · rw [hc, encCursors_srcPos (n := s.cur.srcEnd.toNat) (by rw [hbegin]; omega) s.cur.srcEnd.isLt, nat64_toNat]
  · rw [hc, hres, hdst]
    show t.enc.dstPos = _
    bv_omega

theorem fsePath_ends (hdst : dstOk s) (hmax : sourceLength s ≤ 2 ^ 31 - 2) (ha : arraysLegal s) :
    ∃ b t, fsePath (sourceLength s) s = .ok (b, t) ∧ PathKept s t ∧ (b = true → PathDone s t) := by
  have hsound : encSound ((encInit s).withRes 0 0) :=
    encSound_congr (s := encInit s) rfl (encInit_sound hsrc hdst hmax ha)
  have hwindow := encInit_window hsrc
  simp only [encWindow, setEncSrcEnd, Prod.mk.injEq] at hwindow
  obtain ⟨-, -, hlimit, -⟩ := hwindow
  have hbase := encBase_answers hsound (e := sourceLength s) (by
    show _ ≤ (encInit s).enc.srcLimit.toNat
    rw [hlimit, sourceLength_toNat])
  have hinit : ((encInit s).withRes 0 0).fault = s.fault := by
    rw [encInit_eq hsrc]
    rfl
  unfold fsePath
  cases hrun : encBase (sourceLength s) ((encInit s).withRes 0 0) with
  | error e =>
    rw [hrun] at hbase
    cases hbase
  | ok r =>
    obtain ⟨b, s1⟩ := r
    have hw1 : encWindow s1.enc = encWindow (setEncSrcEnd (sourceLength s) (encInit s)).enc :=
      (encBase_window hrun).trans rfl
    have hf1 : s1.fault = s.fault := (fault_of_encKey (encBase_key hrun)).trans hinit
    cases b with
    | false => exact ⟨false, _, rfl, pathKept_of_window hsrc hw1 rfl hf1, fun h => by cases h⟩
    | true =>
      rw [hrun] at hbase
      obtain ⟨-⟩ | ⟨hs1, -⟩ := hbase
      have hs2 : encSound ((writeBackEnc s1).withRes s1.enc.srcEncodeI s1.enc.srcLiteral) := encSound_congr (s := s1) rfl hs1
      obtain ⟨⟨st, t⟩, hfin, hend⟩ := encFinish_ends hs2
      have hw : encWindow t.enc = encWindow (setEncSrcEnd (sourceLength s) (encInit s)).enc := (encFinish_window hfin).trans hw1
      have hshow : showsEnc t := encFinish_showsEnc _ _ hfin
      have hf : t.fault = s.fault := (encFinish_fault _ _ hfin).trans hf1
      dsimp only
      rw [hfin]
      refine ⟨_, t, rfl, pathKept_of_window hsrc hw hshow hf, fun hok => ?_⟩
      obtain rfl := of_decide_eq_true hok
      rcases hend with ⟨-, hres, hst⟩ | ⟨h, -⟩ | ⟨h, -⟩
      · refine pathDone_of_window hsrc hw hshow hst ?_ hres
        have hkept := encFinish_window hfin
        simp only [encWindow, Prod.mk.injEq] at hkept
        obtain ⟨-, -, -, hkept, -⟩ := hkept
        rw [hkept]
        exact encFinish_consumed hs2 hfin
      · cases h
      · cases h

end FsePath

end Sys2Proof.Proofs

namespace Sys2Proof.Proofs

open Sys2Proof Sys2Proof.Machine Sys2Proof.Laws

/-! ### Success or failure as a whole (R272) -/

/-- ENC_BUFFER, entered in `s`, ended as a whole: with the source taken and DST_POS at the end of what it wrote, or with ERROR at
the positions it was given. -/
def EndsAsWhole (s : State) (r : Status × State) : Prop :=
  (r.1 = .ok ∧ r.2.enc.poisoned = false ∧ r.2.cur.srcPos = s.cur.srcEnd ∧ r.2.cur.dstPos = s.cur.dstPos + r.2.res0) ∨
    (r.1 = .error ∧ r.2.enc.poisoned = true ∧ r.2.res0 = 0 ∧ r.2.cur.srcPos = s.cur.srcPos ∧ r.2.cur.dstPos = s.cur.dstPos)

/-- What ENC_BUFFER's body answers where it does not fault. -/
structure Buffered (s : State) (r : Status × State) : Prop where
  fault : r.2.fault = s.fault
  whole : EndsAsWhole s r
  fits : s.cur.dstPos.toNat + sourceLength s + 12 ≤ s.cur.dstEnd.toNat → r.1 = .ok

section Fallback

variable {s0 s : State}

/-- The state in which the fallback stores the source raw. -/
abbrev fallbackStart (s0 s : State) : State :=
  { s with cur := { s.cur with dstPos := s0.cur.dstPos, srcPos := s0.cur.srcPos } }

theorem rawFallback_stored (h : (storeRaw (fallbackStart s0 s)).1 = true) :
    rawFallback s0 s = (.ok, endEncode false (storeRaw (fallbackStart s0 s)).2) := by
  unfold rawFallback
  split
  · rename_i e
    rw [e]
  · rename_i e
    rw [e] at h
    cases h

theorem rawFallback_buffered (hmax : sourceLength s0 ≤ 2 ^ 31 - 2) (h : PathKept s0 s) : Buffered s0 (rawFallback s0 s) := by
  obtain ⟨hf, hsrc, hdst⟩ := h
  have hlen : (fallbackStart s0 s).cur.srcEnd.toNat - (fallbackStart s0 s).cur.srcPos.toNat = sourceLength s0 := by
    show s.cur.srcEnd.toNat - s0.cur.srcPos.toNat = _
    rw [hsrc]
  have hend : (fallbackStart s0 s).cur.dstEnd = s0.cur.dstEnd := hdst
  by_cases hroom : s0.cur.dstPos.toNat + sourceLength s0 + 12 ≤ s0.cur.dstEnd.toNat
  · obtain ⟨d, tag, hstore, -, -⟩ := storeRaw_fits (s := fallbackStart s0 s) (by rwa [hlen]) (by rwa [hlen, hend])
    rw [rawFallback, hstore]
    refine ⟨hf, .inl ⟨rfl, rfl, hsrc, ?_⟩, fun _ => rfl⟩
    rw [hlen]
    exact (nat64_add s0.cur.dstPos (sourceLength s0 + 12))
  · have hstore := storeRaw_short (s := fallbackStart s0 s) (.inr (by rw [hlen, hend]; exact not_le.mp hroom))
    rw [rawFallback, hstore]
    exact ⟨hf, .inr ⟨rfl, rfl, rfl, rfl, rfl⟩, fun h => absurd h hroom⟩

end Fallback

theorem PathKept.refl (s : State) : PathKept s s := ⟨rfl, rfl, rfl⟩

/-- SECONDARY_PATH fails over to the fallback, stores a block that ends the stream, or faults on a payload above its capacity. -/
theorem secondaryPath_cases (n : Nat) (s : State) : secondaryPath n s = .ok none ∨
    (∃ t, secondaryPath n s = .ok (some t) ∧ t.fault = s.fault ∧ t.cur.srcPos = s.cur.srcEnd ∧
      t.cur.dstPos = s.cur.dstPos + t.res0) ∨
    ∃ info, secondaryPath n s = .error { cause := .bufferBounds, info := info } := by
  unfold secondaryPath
  dsimp only
  split
  · exact .inl rfl
  · split
    · exact .inl rfl
    · rename_i r _
      split
      · exact .inl rfl
      · by_cases hroom : s.cur.dstEnd.toNat - s.cur.dstPos.toNat < r.length + 16
        · rw [raiseIf_pos (decide_eq_true hroom)]
          exact .inr (.inr ⟨_, rfl⟩)
        · rw [raiseIf_neg (decide_eq_false hroom), storeAtDstPos_eq, secondaryStream_length]
          exact .inr (.inl ⟨_, rfl, rfl, rfl, nat64_add s.cur.dstPos (r.length + 16)⟩)

theorem encBuffer_ends {s : State} (hsrc : srcOk s) (hdst : dstOk s) (hmax : sourceLength s ≤ 2 ^ 31 - 2)
    (ha : arraysLegal s) : (∃ r, encBuffer (sourceLength s) s = .ok r ∧ Buffered s r) ∨
      (8 ≤ sourceLength s ∧ sourceLength s < 4096 ∧
        ∃ info, encBuffer (sourceLength s) s = .error { cause := .bufferBounds, info := info }) := by
  unfold encBuffer
  split
  · exact .inl ⟨_, rfl, rawFallback_buffered hmax (.refl s)⟩
  · rename_i hmin
    split
    · rename_i hsmall
      rcases secondaryPath_cases (sourceLength s) s with h | ⟨t, h, hf, hpos, hadv⟩ | ⟨info, h⟩
      · rw [h]
        exact .inl ⟨_, rfl, rawFallback_buffered hmax (.refl s)⟩
      · rw [h]
        exact .inl ⟨_, rfl, hf, .inl ⟨rfl, rfl, hpos, hadv⟩, fun _ => rfl⟩
      · rw [h]
        exact .inr ⟨not_lt.mp hmin, hsmall, info, rfl⟩
    · obtain ⟨b, t, h, hkept, hdone⟩ := fsePath_ends hsrc hdst hmax ha
      rw [h]
      cases b with
      | true =>
        obtain ⟨hpos, hadv⟩ := hdone rfl
        exact .inl ⟨_, rfl, hkept.fault, .inl ⟨rfl, rfl, hpos, hadv⟩, fun _ => rfl⟩
      | false =>
        refine .inl ⟨_, rfl, rawFallback_buffered hmax ?_⟩
        rw [releaseDst_eq]
        exact ⟨hkept.fault, hkept.srcEnd, hkept.dstEnd⟩

section Command

variable {s : State} (hr : ready s) (hsrc : srcOk s) (hdst : dstOk s)

include hsrc hdst

theorem exec_encBuffer_checked : exec .encBuffer s = command s
    (raiseIf (decide (srcMax < sourceLength s)) .badCursor 2 (encBuffer (sourceLength s) s)) := by
  show command s (raiseOpt (cursorFault s) _) = _
  rw [cursorFault_none hsrc hdst, raiseOpt_none]

include hr in
theorem exec_encBuffer_long (h : 2 ^ 31 - 2 < sourceLength s) :
    exec .encBuffer s = .next (faulted .badCursor 2 s) := by
  rw [exec_encBuffer_checked hsrc hdst, raiseIf_pos (decide_eq_true (show srcMax < _ from h)), command_error hr,
    takeFault_two]

theorem exec_encBuffer (h : sourceLength s ≤ 2 ^ 31 - 2) :
    exec .encBuffer s = command s (encBuffer (sourceLength s) s) := by
  rw [exec_encBuffer_checked hsrc hdst, raiseIf_neg (decide_eq_false (not_lt.mpr (show _ ≤ srcMax from h)))]

end Command

/-- A source below 8 bytes is stored as STORE_RAW stores it. -/
theorem exec_encBuffer_tiny {s t : State} (hr : ready s) (hsrc : srcOk s) (hdst : dstOk s) (hmin : sourceLength s < 8)
    (hroom : s.cur.dstPos.toNat + sourceLength s + 12 ≤ s.cur.dstEnd.toNat) (h : exec .encBuffer s = .next t) :
    ∃ u, exec .storeRaw s = .next u ∧ t = { u with enc := { u.enc with poisoned := false } } := by
  have hmax : sourceLength s ≤ 2 ^ 31 - 2 := by omega
  obtain ⟨d, tag, hstore, -, -⟩ := storeRaw_fits (s := s) hmax hroom
  have hraw : encBuffer (sourceLength s) s = .ok (.ok, endEncode false (storeRaw s).2) := by
    rw [encBuffer, if_pos (show sourceLength s < minSrcSize from hmin),
      rawFallback_stored (s0 := s) (s := s) (by rw [hstore])]
  rw [exec_encBuffer hsrc hdst hmax, hraw, command_ok hr] at h
  cases h
  refine ⟨_, exec_storeRaw hr hsrc hdst, ?_⟩
  rw [hstore]
  rfl

/-- Settles O58: the fallback always ends as a whole, and so do the two paths before it where they do not hand over to it. -/
theorem encBufferAllOrNothing : Obligations.EncBufferAllOrNothing := by
  refine fun s hr hsrc hdst ha => ⟨exec_encBuffer_long hr hsrc hdst, fun hmax => ?_⟩
  have hexec := exec_encBuffer hsrc hdst hmax
  rcases encBuffer_ends hsrc hdst hmax ha with ⟨⟨st, u⟩, hrun, hf, hwhole, hfits⟩ | ⟨hmin, hsmall, info, hrun⟩
  · rw [hrun, command_ok hr] at hexec
    exact ⟨_, hexec, .inl (hf.trans hr), fun _ => hwhole, fun _ => hfits,
      fun hn hroom => exec_encBuffer_tiny hr hsrc hdst hn hroom hexec⟩
  · rw [hrun, command_error hr] at hexec
    refine ⟨_, hexec, .inr ⟨rfl, hmin, hsmall⟩, fun h => ?_, fun h => ?_, fun h => absurd h (not_lt.mpr hmin)⟩
    · cases h
    · cases h

end Sys2Proof.Proofs

namespace Sys2Proof.Proofs

open Sys2Proof Sys2Proof.Machine Sys2Proof.Laws

/-! ## Pushing triplets (46_encoder_backend.md R250, R252) -/

/-! ### What a run of pushes leaves -/

/-- The literals of a list of triplets. -/
def literalTotal (ts : List (Nat × Nat × Nat)) : Nat := (ts.map fun c => c.1).sum

/-- The source bytes that a list of triplets covers. -/
def coveredTotal (ts : List (Nat × Nat × Nat)) : Nat := (ts.map fun c => c.1 + c.2.1).sum

@[simp] theorem literalTotal_nil : literalTotal [] = 0 := rfl

@[simp] theorem coveredTotal_nil : coveredTotal [] = 0 := rfl

@[simp] theorem literalTotal_cons (c : Nat × Nat × Nat) (r : List (Nat × Nat × Nat)) :
    literalTotal (c :: r) = c.1 + literalTotal r := rfl

@[simp] theorem coveredTotal_cons (c : Nat × Nat × Nat) (r : List (Nat × Nat × Nat)) :
    coveredTotal (c :: r) = c.1 + c.2.1 + coveredTotal r := rfl

/-- The literals that triplets beginning at SRC index `a` take from the source. -/
def runLiterals (m : Memory) : Nat → List (Nat × Nat × Nat) → List U8
  | _, [] => []
  | a, (l, n, _) :: r => readBytes m a l ++ runLiterals m (a + l + n) r

theorem runLiterals_length (m : Memory) (a : Nat) (ts : List (Nat × Nat × Nat)) :
    (runLiterals m a ts).length = literalTotal ts := by
  induction ts generalizing a with
  | nil => rfl
  | cons c r ih => rw [runLiterals, List.length_append, readBytes_length, ih, literalTotal_cons]

/-- The bytes of a list stand in a literal array from entry n on. -/
def litsAt (m : Arr U8) (n : Nat) (l : List U8) : Prop := ∀ i (h : i < l.length), litAt m (n + i) = l[i]

/-- From `s` to `t` the triplets `ts` and their literals have been appended to the block, and nothing else has changed. -/
structure Pushed (ts : List (Nat × Nat × Nat)) (s t : State) : Prop where
  state : t = { s with enc := { s.enc with
    lValues := t.enc.lValues, mValues := t.enc.mValues, dValues := t.enc.dValues, lits := t.enc.lits,
    nMatches := t.enc.nMatches, nLits := t.enc.nLits, srcLiteral := t.enc.srcLiteral } }
  nMatches : t.enc.nMatches.toNat = s.enc.nMatches.toNat + ts.length
  nLits : t.enc.nLits.toNat = s.enc.nLits.toNat + literalTotal ts
  literal : s.enc.srcLiteral.toInt + coveredTotal ts < 2 ^ 63 →
    t.enc.srcLiteral.toInt = s.enc.srcLiteral.toInt + coveredTotal ts
  triplets : tripletsAt t s.enc.nMatches.toNat ts
  others (i : Nat) : i < s.enc.nMatches.toNat ∨ s.enc.nMatches.toNat + ts.length ≤ i → ∀ sel, valueAt sel t i = valueAt sel s i
  litsBefore (i : Nat) : i < s.enc.nLits.toNat → litAt t.enc.lits i = litAt s.enc.lits i
  lits : litsAt t.enc.lits s.enc.nLits.toNat (runLiterals s.src (srcIndex s s.enc.srcLiteral.toInt) ts)

theorem Pushed.refl (s : State) : Pushed [] s s where
  state := rfl
  nMatches := rfl
  nLits := rfl
  literal := fun _ => (add_zero _).symm
  triplets := nofun
  others _ _ _ := rfl
  litsBefore _ _ := rfl
  lits := nofun

section Append

variable {s : State} {l m d : Nat} {b : List U8}

theorem appendTriplet_other {i : Nat} (h : i ≠ s.enc.nMatches.toNat) (sel : VSel) :
    valueAt sel (appendTriplet l m d b s) i = valueAt sel s i := by
  have harr (a : Arr U32) (v : U32) (f : Nat → Nat → U32) :
      (arrGet 0 f (arrSet 0 a s.enc.nMatches.toNat v) i).toNat = (arrGet 0 f a i).toNat := by
    rw [arrGet_set_other _ _ _ _ h]
  cases sel with
  | l => exact harr ..
  | m => exact harr ..
  | d => exact harr ..

theorem appendTriplet_pushed (hroom : HasRoom s l) (h0 : 0 ≤ s.enc.srcLiteral.toInt) (hl : l ≤ maxLValue) (hm : m ≤ maxMValue)
    (hd : d ≤ maxDValue) (hb : b = readBytes s.src (srcIndex s s.enc.srcLiteral.toInt) l) :
    Pushed [(l, m, d)] s (appendTriplet l m d b s) where
  state := rfl
  nMatches := hroom.nMatches
  nLits := hroom.nLits
  literal h := by
    simp only [coveredTotal_cons, coveredTotal_nil] at h ⊢
    have hfit : (appendTriplet l m d b s).enc.srcLiteral.toInt = s.enc.srcLiteral.toInt + l + m :=
      fitS64_toInt (by omega) (by omega)
    omega
  triplets i hi := by
    obtain rfl : i = 0 := by simpa using hi
    have h := appendTriplet_triplet (s := s) (b := b) hl hm hd
    simp only [tripletAt, Prod.mk.injEq] at h
    exact h
  others i hi sel := appendTriplet_other (by simp only [List.length_singleton] at hi; omega) sel
  litsBefore i hi := arrGet_setAll_outside _ _ _ _ _ _ (.inl hi)
  lits := by
    rw [runLiterals, runLiterals, List.append_nil, ← hb]
    exact fun i hi => appendTriplet_lit hi

end Append

/-! ### One push -/

/-- The fault of the first byte at or after offset i that is beyond the source (20_memory.md R71). -/
def beyondSource (s : State) (i : Int) : Trap :=
  { cause := .bufferBounds, info := fitU64 ((s.enc.srcBegin.toNat + max s.enc.srcLimit.toNat i.toNat : Nat) : Int) }

theorem stateFull_iff (s : State) (l : Nat) : stateFull s l = true ↔
    10000 < s.enc.nMatches.toNat + 1 + 8 ∨ 40000 < s.enc.nLits.toNat + l + 16 := decide_eq_true_iff

section Push

variable {s : State} {l m d : Nat}

theorem pushLmd_full (h : stateFull s l = true) : pushLmd l m d s = .ok (false, s) := if_pos h

variable (hs : encSourceOpen s)

include hs

/-- The literals are in the source, or there are none. -/
theorem encSrcBytes_literals (h : l = 0 ∨ s.enc.srcLiteral.toInt + l ≤ s.enc.srcLimit.toNat) :
    encSrcBytes s s.enc.srcLiteral.toInt l = .ok (readBytes s.src (srcIndex s s.enc.srcLiteral.toInt) l) := by
  obtain ⟨-, -, -, h0⟩ := id hs
  rcases h with rfl | h
  · rfl
  · exact encSrcBytes_ok (inSource_of_nonneg hs h0 h)

theorem pushLmd_done (hroom : ¬stateFull s l = true) (hl : l ≤ maxLValue) (hm : m ≤ maxMValue) (hd : d ≤ maxDValue)
    (h : l = 0 ∨ s.enc.srcLiteral.toInt + l ≤ s.enc.srcLimit.toNat) :
    ∃ t, pushLmd l m d s = .ok (true, t) ∧ Pushed [(l, m, d)] s t := by
  obtain ⟨-, -, -, h0⟩ := id hs
  obtain ⟨hmatches, hlits⟩ := room_of_not_stateFull hroom
  refine ⟨_, ?_, appendTriplet_pushed ⟨hmatches, hlits⟩ h0 hl hm hd rfl⟩
  rw [pushLmd, if_neg hroom, encSrcBytes_literals hs h]

theorem encSrcBytes_beyond {i : Int} (h0 : 0 ≤ i) (hl : 0 < l) (h : s.enc.srcLimit.toNat < i + l) :
    encSrcBytes s i l = .error (beyondSource s i) := by
  induction l generalizing i with
  | zero => cases hl
  | succ l ih =>
    rw [encSrcBytes]
    by_cases hi : i < s.enc.srcLimit.toNat
    · have hmax : max s.enc.srcLimit.toNat (i + 1).toNat = max s.enc.srcLimit.toNat i.toNat := by omega
      rw [encSrcByte_ok (inSource_of_nonneg hs h0 (by omega))]
      dsimp only
      rw [ih (by omega) (by omega) (by push_cast at h; omega), beyondSource, beyondSource, hmax]
    · obtain ⟨hlo, hsize, -, -⟩ := hs
      have hend : encRegionEnd s = s.enc.srcBegin.toNat + s.enc.srcLimit.toNat := min_eq_left hsize
      have hindex : (s.enc.srcBegin.toNat : Int) + i = (s.enc.srcBegin.toNat + max s.enc.srcLimit.toNat i.toNat : Nat) := by
        omega
      rw [encSrcByte, hindex, raiseIf_pos (decide_eq_true (.inr (by rw [hend]; omega)))]
      rfl

theorem pushLmd_beyond (hroom : ¬stateFull s l = true) (hl : 0 < l)
    (h : s.enc.srcLimit.toNat < s.enc.srcLiteral.toInt + l) :
    pushLmd l m d s = .error (beyondSource s s.enc.srcLiteral.toInt) := by
  obtain ⟨-, -, -, h0⟩ := id hs
  rw [pushLmd, if_neg hroom, encSrcBytes_beyond hs h0 hl h]

end Push

end Sys2Proof.Proofs

namespace Sys2Proof.Proofs

open Sys2Proof Sys2Proof.Machine Sys2Proof.Laws

/-! ### PUSH_LMD (R250) -/

theorem ofNat32_eq_add {x y : U32} {n : Nat} (h : y.toNat = x.toNat + n) : y = x + BitVec.ofNat 32 n := by
  apply BitVec.eq_of_toNat_eq
  rw [BitVec.toNat_add, BitVec.toNat_ofNat, Nat.add_mod_mod, ← h, Nat.mod_eq_of_lt y.isLt]

theorem eq_add_ofNat64 {x y : U64} {n : Nat} (h : y.toInt = x.toInt + n) : y = x + BitVec.ofNat 64 n := by
  rw [← BitVec.ofInt_toInt (x := y), h, BitVec.ofInt_add, BitVec.ofInt_toInt, BitVec.ofInt_natCast]

theorem Pushed.nMatches_eq {ts : List (Nat × Nat × Nat)} {s t : State} (h : Pushed ts s t) :
    t.enc.nMatches = s.enc.nMatches + BitVec.ofNat 32 ts.length := ofNat32_eq_add h.nMatches

theorem Pushed.nLits_eq {ts : List (Nat × Nat × Nat)} {s t : State} (h : Pushed ts s t) :
    t.enc.nLits = s.enc.nLits + BitVec.ofNat 32 (literalTotal ts) := ofNat32_eq_add h.nLits

theorem beyondSource_info (s : State) (i : Int) : (beyondSource s i).info =
    fitU64 ((s.enc.srcBegin.toNat + max s.enc.srcLimit.toNat i.toNat : Nat) : Int) := by
  rw [beyondSource]

theorem takeFault_beyondSource (s : State) (i : Int) : takeFault (beyondSource s i) s =
    { s with fault := some .bufferBounds, faultInfo := (takeFault (beyondSource s i) s).faultInfo, status := .faulted } := by
  rw [takeFault_faultInfo]
  generalize hb : beyondSource s i = b
  have hc : b.cause = .bufferBounds := by rw [← hb, beyondSource]
  rw [← hc]
  rfl

/-- What a push of one triplet leaves, as PUSH_LMD answers it. -/
theorem endPush_single {s t : State} {l m d : Nat} (h : Pushed [(l, m, d)] s t) :
    ({ writeBackEnc (withPushRes t) with status := .ok } : State) = { s with
      enc := { s.enc with
        lValues := t.enc.lValues, mValues := t.enc.mValues, dValues := t.enc.dValues, lits := t.enc.lits,
        nMatches := s.enc.nMatches + 1, nLits := s.enc.nLits + BitVec.ofNat 32 l, srcLiteral := t.enc.srcLiteral },
      cur := encCursors t.enc, res0 := nat64 (s.enc.nMatches.toNat + 1), res1 := nat64 (s.enc.nLits.toNat + l),
      status := .ok } := by
  have hm : t.enc.nMatches = s.enc.nMatches + 1 := h.nMatches_eq
  have hl : t.enc.nLits = s.enc.nLits + BitVec.ofNat 32 l := h.nLits_eq
  have hm' : t.enc.nMatches.toNat = s.enc.nMatches.toNat + 1 := h.nMatches
  have hl' : t.enc.nLits.toNat = s.enc.nLits.toNat + l := h.nLits
  rw [← hm, ← hl, ← hm', ← hl']
  conv_lhs => rw [h.state]
  conv_rhs => rw [h.state]
  rfl

theorem Pushed.single_literal {s t : State} {l m d : Nat} (h : Pushed [(l, m, d)] s t)
    (hfit : s.enc.srcLiteral.toInt + l + m < 2 ^ 63) : t.enc.srcLiteral = s.enc.srcLiteral + BitVec.ofNat 64 (l + m) := by
  refine eq_add_ofNat64 (h.literal ?_)
  simp only [coveredTotal_cons, coveredTotal_nil]
  omega

theorem Pushed.single_lits {s t : State} {l m d : Nat} (h : Pushed [(l, m, d)] s t) (hs : encSourceOpen s) (i : Nat) (hi : i < l) :
    litAt t.enc.lits (s.enc.nLits.toNat + i) =
      readByte s.src (s.enc.srcBegin.toNat + s.enc.srcLiteral.toInt.toNat + i) := by
  obtain ⟨-, -, -, h0⟩ := hs
  have hlits := h.lits i (by rwa [runLiterals_length])
  simp only [runLiterals, List.append_nil] at hlits
  rw [hlits, readBytes_getElem, srcIndex_nonneg h0]

theorem exec_pushLmd_checks {s : State} (hp : s.enc.poisoned = false) : exec .pushLmd s = command s
    (raiseIf (decide (315 < s.arg0.toNat)) .badOperand 0 <|
      raiseIf (decide (2359 < s.arg1.toNat)) .badOperand 1 <|
      raiseIf (decide (s.arg2.toNat < 1 ∨ 262139 < s.arg2.toNat)) .badOperand 2 <|
      (pushLmd s.arg0.toNat s.arg1.toNat s.arg2.toNat s).map endPush) := by
  show command s (raiseEncPoisoned s _) = _
  rw [raiseEncPoisoned_clear hp]
  rfl

theorem exec_pushLmd {s : State} (hp : s.enc.poisoned = false) (hl : s.arg0.toNat ≤ 315) (hm : s.arg1.toNat ≤ 2359)
    (hd : 1 ≤ s.arg2.toNat) (hd' : s.arg2.toNat ≤ 262139) :
    exec .pushLmd s = command s ((pushLmd s.arg0.toNat s.arg1.toNat s.arg2.toNat s).map endPush) := by
  rw [exec_pushLmd_checks hp, raiseIf_neg (decide_eq_false (not_lt.mpr hl)), raiseIf_neg (decide_eq_false (not_lt.mpr hm)),
    raiseIf_neg (decide_eq_false (not_or.mpr ⟨not_lt.mpr hd, not_lt.mpr hd'⟩))]

/-- Settles O50: the operand checks in their order, then the push's three ends. -/
theorem pushLmdOutcomes : Obligations.PushLmdOutcomes := by
  refine fun s hr => ⟨fun hp => ?_, fun hp => ⟨fun hl => ?_, fun hl hm => ?_, fun hl hm hd => ?_, fun hl hm hd hd' hfull => ?_,
    fun hl hm hd hd' hroom hs => ?_⟩⟩
  · show command s (raiseEncPoisoned s _) = _
    rw [raiseEncPoisoned_set hp, command_error hr, takeFault_zero]
  · rw [exec_pushLmd_checks hp, raiseIf_pos (decide_eq_true hl), command_error hr, takeFault_zero]
  · rw [exec_pushLmd_checks hp, raiseIf_neg (decide_eq_false (not_lt.mpr hl)), raiseIf_pos (decide_eq_true hm),
      command_error hr, takeFault_one]
  · rw [exec_pushLmd_checks hp, raiseIf_neg (decide_eq_false (not_lt.mpr hl)), raiseIf_neg (decide_eq_false (not_lt.mpr hm)),
      raiseIf_pos (decide_eq_true hd), command_error hr, takeFault_two]
  · rw [exec_pushLmd hp hl hm hd hd', pushLmd_full ((stateFull_iff s _).mpr hfull)]
    exact command_ok hr _ _
  have hexec := exec_pushLmd hp hl hm hd hd'
  have hroom' := (not_congr (stateFull_iff s s.arg0.toNat)).mpr hroom
  refine ⟨fun hpos hbeyond => ?_, fun hfits => ?_⟩
  · rw [pushLmd_beyond hs hroom' hpos hbeyond] at hexec
    refine ⟨_, hexec.trans (command_error hr _), takeFault_beyondSource s _, fun index hi hlt => ?_⟩
    rw [hi] at hlt ⊢
    rw [takeFault_faultInfo, beyondSource_info, fitU64_nat hlt, nat64_lt hlt]
  · obtain ⟨t, hpush, ht⟩ := pushLmd_done (m := s.arg1.toNat) (d := s.arg2.toNat) hs hroom' hl hm hd' hfits
    rw [hpush] at hexec
    exact ⟨_, hexec.trans (command_ok hr _ _), endPush_single ht, ht.single_literal,
      ht.triplets, fun i hi => ht.others i (by simp only [List.length_singleton]; omega), ht.litsBefore, ht.single_lits hs⟩

end Sys2Proof.Proofs

namespace Sys2Proof.Proofs

open Sys2Proof Sys2Proof.Machine Sys2Proof.Laws

/-! ### PUSH_MATCH pushes the triplets of its split (R252) -/

/-- Push a list of triplets, up to the first that finds the block full. -/
def pushList : List (Nat × Nat × Nat) → State → Except Trap (Bool × State)
  | [], s => .ok (true, s)
  | (l, m, d) :: r, s =>
    match pushLmd l m d s with
    | .error t => .error t
    | .ok (false, s') => .ok (false, s')
    | .ok (true, s') => pushList r s'

theorem pushList_single (l m d : Nat) (s : State) : pushList [(l, m, d)] s = pushLmd l m d s := by
  rw [pushList]
  split
  · rename_i e
    exact e.symm
  · rename_i e
    exact e.symm
  · rename_i e
    exact e.symm

theorem fullPieces_zero {v size : Nat} (hsize : 0 < size) (h : fullPieces v size = 0) : v ≤ size := by
  have hlt := (Nat.div_eq_zero_iff_lt hsize).mp h
  omega

theorem fullPieces_succ {v size q : Nat} (hsize : 0 < size) (h : fullPieces v size = q + 1) :
    size < v ∧ fullPieces (v - size) size = q := by
  unfold fullPieces at h ⊢
  have hle : size ≤ v - 1 := by
    by_contra hlt
    rw [Nat.div_eq_of_lt (not_le.mp hlt)] at h
    cases h
  refine ⟨by omega, ?_⟩
  have hdiv := Nat.div_eq_sub_div hsize hle
  rw [show v - size - 1 = v - 1 - size by omega]
  omega

theorem fullPieces_le_self (v size : Nat) : fullPieces v size ≤ v := (Nat.div_le_self _ _).trans (Nat.sub_le _ _)

/-- The last push of R252, unless it is empty. -/
theorem splitMatch_last {d fuel l m : Nat} (h : m ≤ 2359) : splitMatch d fuel l m = if 0 < l ∨ 0 < m then [(l, m, d)] else [] := by
  cases fuel with
  | zero => rfl
  | succ fuel => rw [splitMatch, if_neg (not_lt.mpr h)]

theorem splitMatch_piece {d fuel l m : Nat} (h : 2359 < m) :
    splitMatch d (fuel + 1) l m = (l, 2359, d) :: splitMatch d fuel 0 (m - 2359) := by
  rw [splitMatch, if_pos h]

theorem pushPieces_eq {d q fuel l m : Nat} (hq : fullPieces m maxMValue = q) (hfuel : q ≤ fuel) (s : State) :
    pushPieces d (m - maxMValue * q) q l s = pushList (splitMatch d fuel l m) s := by
  induction q generalizing fuel l m s with
  | zero =>
    have hm := fullPieces_zero (by decide) hq
    rw [splitMatch_last hm, pushPieces, Nat.mul_zero, Nat.sub_zero]
    split
    · exact (pushList_single ..).symm
    · rfl
  | succ q ih =>
    obtain ⟨hm, hq'⟩ := fullPieces_succ (by decide) hq
    obtain ⟨fuel, rfl⟩ : ∃ k, fuel = k + 1 := ⟨fuel - 1, by omega⟩
    rw [splitMatch_piece hm, pushPieces, pushList]
    have hrest (s' : State) : pushPieces d (m - maxMValue * (q + 1)) q 0 s' = pushList (splitMatch d fuel 0 (m - 2359)) s' := by
      rw [Nat.mul_succ, Nat.add_comm, ← Nat.sub_sub]
      exact ih hq' (Nat.le_of_succ_le_succ hfuel) s'
    simp only [hrest]
    rfl

theorem pushRuns_eq {d m q fuel l : Nat} (hq : fullPieces l maxLValue = q) (hfuel : q ≤ fuel) (s : State) :
    pushList (splitTriplets d m fuel l) s =
      match pushRuns q s with
      | .error t => .error t
      | .ok (false, s') => .ok (false, s')
      | .ok (true, s') => pushList (splitMatch d m (l - maxLValue * q) m) s' := by
  induction q generalizing fuel l s with
  | zero =>
    have hl := fullPieces_zero (by decide) hq
    have hsplit : splitTriplets d m fuel l = splitMatch d m l m := by
      cases fuel with
      | zero => rfl
      | succ fuel => exact if_neg (not_lt.mpr hl)
    rw [hsplit]
    rfl
  | succ q ih =>
    obtain ⟨hl, hq'⟩ := fullPieces_succ (by decide) hq
    obtain ⟨fuel, rfl⟩ : ∃ k, fuel = k + 1 := ⟨fuel - 1, by omega⟩
    have hsplit : splitTriplets d m (fuel + 1) l = (315, 0, 1) :: splitTriplets d m fuel (l - 315) := if_pos hl
    have hsub : l - maxLValue * (q + 1) = l - 315 - maxLValue * q := by
      rw [Nat.mul_succ, Nat.add_comm, ← Nat.sub_sub]
      rfl
    rw [hsplit, pushList, pushRuns, hsub]
    change (match pushLmd maxLValue 0 1 s with | .error t => _ | .ok (false, s') => _ | .ok (true, s') => _) = _
    cases pushLmd maxLValue 0 1 s with
    | error t => rfl
    | ok r =>
      obtain ⟨_ | _, s'⟩ := r
      · rfl
      · exact ih hq' (by omega) s'

theorem pushSplit_eq (l m d : Nat) (s : State) : pushSplit l m d s = pushList (tripletsOf l m d) s := by
  rw [tripletsOf, pushRuns_eq rfl (fullPieces_le_self l maxLValue)]
  unfold pushSplit
  simp only [pushPieces_eq (d := d) rfl (fullPieces_le_self m maxMValue)] <;> rfl

end Sys2Proof.Proofs

namespace Sys2Proof.Proofs

open Sys2Proof Sys2Proof.Machine Sys2Proof.Laws

/-! ### The triplets of a split (R252) -/

/-- Every entry of a triplet is a value the arrays take (60_exceptions.md R298). -/
def inRange (c : Nat × Nat × Nat) : Prop := c.1 ≤ maxLValue ∧ c.2.1 ≤ maxMValue ∧ c.2.2 ≤ maxDValue

/-- What the triplets of a split amount to: l literals, l + m bytes covered, and the literals taken in one stretch. -/
structure Splits (m : Memory) (l n : Nat) (ts : List (Nat × Nat × Nat)) : Prop where
  inRange : ∀ c ∈ ts, inRange c
  literals : literalTotal ts = l
  covered : coveredTotal ts = l + n
  stretch (a : Nat) : runLiterals m a ts = readBytes m a l

section Split

variable {m : Memory} {d : Nat} (hd : d ≤ maxDValue)

include hd

theorem splits_last {l n : Nat} (hl : l ≤ maxLValue) (hn : n ≤ maxMValue) :
    Splits m l n (if 0 < l ∨ 0 < n then [(l, n, d)] else []) := by
  by_cases h : 0 < l ∨ 0 < n
  · rw [if_pos h]
    exact ⟨by simpa using ⟨hl, hn, hd⟩, by simp, by simp, fun a => by simp [runLiterals]⟩
  · obtain ⟨rfl, rfl⟩ : l = 0 ∧ n = 0 := by omega
    exact ⟨nofun, rfl, rfl, fun a => rfl⟩

theorem splitMatch_splits {fuel l n : Nat} (hl : l ≤ maxLValue) (hfuel : n ≤ fuel) : Splits m l n (splitMatch d fuel l n) := by
  induction fuel generalizing l n with
  | zero => exact splits_last hd hl (by unfold maxMValue; omega)
  | succ fuel ih =>
    by_cases hn : 2359 < n
    · rw [splitMatch_piece hn]
      obtain ⟨hrange, hlits, hcov, hstretch⟩ := ih (l := 0) (n := n - 2359) (Nat.zero_le _) (by omega)
      refine ⟨?_, ?_, ?_, fun a => ?_⟩
      · exact List.forall_mem_cons.mpr ⟨⟨hl, le_rfl, hd⟩, hrange⟩
      · rw [literalTotal_cons, hlits]
        rfl
      · rw [coveredTotal_cons, hcov]
        dsimp only
        omega
      · rw [runLiterals, hstretch]
        exact List.append_nil _
    · rw [splitMatch_last (not_lt.mp hn)]
      exact splits_last hd hl (not_lt.mp hn)

theorem splitTriplets_splits {fuel l n : Nat} (hfuel : l ≤ fuel) : Splits m l n (splitTriplets d n fuel l) := by
  induction fuel generalizing l with
  | zero => exact splitMatch_splits hd (by unfold maxLValue; omega) le_rfl
  | succ fuel ih =>
    by_cases hl : 315 < l
    · have hsplit : splitTriplets d n (fuel + 1) l = (315, 0, 1) :: splitTriplets d n fuel (l - 315) := if_pos hl
      obtain ⟨hrange, hlits, hcov, hstretch⟩ := ih (l := l - 315) (by omega)
      rw [hsplit]
      refine ⟨?_, ?_, ?_, fun a => ?_⟩
      · exact List.forall_mem_cons.mpr ⟨⟨le_rfl, Nat.zero_le _, by decide⟩, hrange⟩
      · rw [literalTotal_cons, hlits]
        dsimp only
        omega
      · rw [coveredTotal_cons, hcov]
        dsimp only
        omega
      · rw [runLiterals, hstretch, Nat.add_zero, ← readBytes_add, Nat.add_sub_cancel' hl.le]
    · have hsplit : splitTriplets d n (fuel + 1) l = splitMatch d n l n := if_neg hl
      rw [hsplit]
      exact splitMatch_splits hd (not_lt.mp hl) le_rfl

theorem tripletsOf_splits (m : Memory) (l n : Nat) : Splits m l n (tripletsOf l n d) := splitTriplets_splits hd le_rfl

end Split

/-! ### How a list of pushes ends -/

/-- The margins of R250 leave room for a whole list of triplets. -/
def roomFor (s : State) (ts : List (Nat × Nat × Nat)) : Prop :=
  ts = [] ∨ s.enc.nMatches.toNat + ts.length + 8 ≤ 10000 ∧ s.enc.nLits.toNat + literalTotal ts + 16 ≤ 40000

section Lists

variable {s t u : State} {c : Nat × Nat × Nat} {ts : List (Nat × Nat × Nat)}

/-- Room for a list is room for its first triplet and, after it, for the others. -/
theorem roomFor_cons (h : Pushed [c] s t) : roomFor s (c :: ts) ↔ ¬stateFull s c.1 = true ∧ roomFor t ts := by
  have hm := h.nMatches
  have hl := h.nLits
  simp only [List.length_singleton, literalTotal_cons, literalTotal_nil] at hm hl
  rw [stateFull_iff, roomFor, roomFor, hm, hl, literalTotal_cons, List.length_cons]
  rcases eq_or_ne ts [] with rfl | hne
  · simp only [List.length_nil, literalTotal_nil, reduceCtorEq, true_or, false_or, and_true]
    omega
  · simp only [hne, reduceCtorEq, false_or]
    omega

theorem Pushed.view (h : Pushed ts s t) : sourceView t = sourceView s := by
  rw [h.state]
  rfl

theorem litsAt_append {m : Arr U8} {n : Nat} {a b : List U8} (ha : litsAt m n a) (hb : litsAt m (n + a.length) b) :
    litsAt m n (a ++ b) := by
  intro i hi
  rw [List.length_append] at hi
  by_cases h : i < a.length
  · rw [ha i h, List.getElem_append_left h]
  · rw [List.getElem_append_right (by omega), ← hb (i - a.length) (by omega), Nat.add_assoc, Nat.add_sub_cancel' (by omega)]

theorem litsAt.congr {m m' : Arr U8} {n : Nat} {a : List U8} (h : litsAt m n a)
    (hm : ∀ i, i < a.length → litAt m' (n + i) = litAt m (n + i)) : litsAt m' n a :=
  fun i hi => (hm i hi).trans (h i hi)

/-- The pushes of a list follow each other. -/
theorem Pushed.cons (h : Pushed [c] s t) (k : Pushed ts t u) (h0 : 0 ≤ s.enc.srcLiteral.toInt)
    (hfit : s.enc.srcLiteral.toInt + coveredTotal (c :: ts) < 2 ^ 63) : Pushed (c :: ts) s u := by
  have hm : t.enc.nMatches.toNat = s.enc.nMatches.toNat + 1 := h.nMatches
  have hl : t.enc.nLits.toNat = s.enc.nLits.toNat + c.1 := h.nLits
  rw [coveredTotal_cons] at hfit
  have hlit : t.enc.srcLiteral.toInt = s.enc.srcLiteral.toInt + (c.1 + c.2.1 : Nat) := h.literal (by
    simp only [coveredTotal_cons, coveredTotal_nil]
    omega)
  have hlit' := k.literal (by omega)
  obtain ⟨hsrc, -, -, hbegin, -⟩ := sourceView_eq h.view
  have hindex : srcIndex t t.enc.srcLiteral.toInt = srcIndex s s.enc.srcLiteral.toInt + c.1 + c.2.1 := by
    rw [srcIndex_nonneg (by omega), srcIndex_nonneg h0, hbegin]
    omega
  refine ⟨?_, ?_, ?_, fun _ => ?_, fun i hi => ?_, fun i hi sel => ?_, fun i hi => ?_, ?_⟩
  · conv_lhs => rw [k.state]
    conv_lhs => rw [h.state]
  · rw [k.nMatches, hm, List.length_cons]
    omega
  · rw [k.nLits, hl, literalTotal_cons]
    omega
  · rw [hlit', hlit, coveredTotal_cons]
    omega
  · cases i with
    | zero =>
      have hc := h.triplets 0 (by simp)
      simp only [k.others (s.enc.nMatches.toNat + 0) (.inl (by omega))]
      exact hc
    | succ i =>
      have hc := k.triplets i (by simpa using hi)
      rw [hm, Nat.add_assoc, Nat.add_comm 1 i] at hc
      exact hc
  · rw [List.length_cons] at hi
    rw [k.others i (by omega), h.others i (by simp only [List.length_singleton]; omega)]
  · rw [k.litsBefore i (by omega), h.litsBefore i hi]
  · have hlen : (readBytes s.src (srcIndex s s.enc.srcLiteral.toInt) c.1).length = c.1 := readBytes_length ..
    have hfirst := h.lits
    have hrest := k.lits
    rw [hindex, hl, hsrc] at hrest
    simp only [runLiterals, List.append_nil] at hfirst
    refine litsAt_append (hfirst.congr fun j hj => k.litsBefore _ (by omega)) ?_
    rwa [hlen]

/-- A list of pushes within the source: all of it where there is room, else a part of it and STATE_FULL. -/
theorem pushList_ends (hs : encSourceOpen s) (hrange : ∀ c ∈ ts, inRange c)
    (hfit : s.enc.srcLiteral.toInt + coveredTotal ts ≤ s.enc.srcLimit.toNat) :
    (roomFor s ts → ∃ t, pushList ts s = .ok (true, t) ∧ Pushed ts s t) ∧
      (¬roomFor s ts → ∃ us t, pushList ts s = .ok (false, t) ∧ Pushed us s t ∧
        s.enc.srcLiteral.toInt + coveredTotal us ≤ s.enc.srcLimit.toNat) := by
  induction ts generalizing s with
  | nil => exact ⟨fun _ => ⟨s, rfl, .refl s⟩, fun h => absurd (.inl rfl) h⟩
  | cons c r ih =>
    obtain ⟨l, m, d⟩ := c
    obtain ⟨⟨hl, hm, hd⟩, hrange'⟩ := List.forall_mem_cons.mp hrange
    obtain ⟨-, -, hmax, h0⟩ := id hs
    rw [coveredTotal_cons] at hfit
    dsimp only at hl hm hd hfit
    by_cases hfull : stateFull s l = true
    · refine ⟨fun h => ?_, fun _ => ⟨[], s, by rw [pushList, pushLmd_full hfull], .refl s, by simp only [coveredTotal_nil]; omega⟩⟩
      rw [stateFull_iff] at hfull
      simp only [roomFor, reduceCtorEq, false_or, literalTotal_cons, List.length_cons] at h
      omega
    · obtain ⟨t, hpush, ht⟩ := pushLmd_done hs hfull hl hm hd (.inr (by omega))
      have hlit : t.enc.srcLiteral.toInt = s.enc.srcLiteral.toInt + (l + m : Nat) :=
        ht.literal (by simp only [coveredTotal_cons, coveredTotal_nil]; omega)
      obtain ⟨-, -, -, -, hlimit, -⟩ := sourceView_eq ht.view
      obtain ⟨hdone, hpart⟩ := ih (encSourceOpen_of_view ht.view (by omega) hs) hrange' (by rw [hlimit]; omega)
      rw [roomFor_cons ht, pushList, hpush]
      refine ⟨fun h => ?_, fun h => ?_⟩
      · obtain ⟨u, hu, hpu⟩ := hdone h.2
        exact ⟨u, hu, ht.cons hpu h0 (by rw [coveredTotal_cons]; dsimp only; omega)⟩
      · obtain ⟨us, u, hu, hpu, hle⟩ := hpart fun hr => h ⟨hfull, hr⟩
        rw [hlimit] at hle
        exact ⟨(l, m, d) :: us, u, hu, ht.cons hpu h0 (by rw [coveredTotal_cons]; dsimp only; omega), by
          rw [coveredTotal_cons]; dsimp only; omega⟩

end Lists

end Sys2Proof.Proofs

namespace Sys2Proof.Proofs

open Sys2Proof Sys2Proof.Machine Sys2Proof.Laws

/-! ### PUSH_MATCH, BACKEND_MATCH and BACKEND_LITERALS with room (R252, R254, R256) -/

/-- The triplets that PUSH_MATCH makes of a match. -/
def splitOf (s : State) (m : Match) : List (Nat × Nat × Nat) :=
  tripletsOf (m.pos - s.enc.srcLiteral.toInt).toNat m.length (m.pos - m.ref).toNat

section Match

variable {s : State} {m : Match}

theorem Sendable.splits (hm : Sendable s m) :
    Splits s.src (m.pos - s.enc.srcLiteral.toInt).toNat m.length (splitOf s m) :=
  tripletsOf_splits (by have := hm.near; unfold maxDValue; omega) _ _ _

theorem pushMatch_sendable (hm : Sendable s m) : pushMatch m.pos m.ref m.length s =
    match pushList (splitOf s m) s with
    | .error t => .error t
    | .ok (true, s') => .ok (true, s')
    | .ok (false, s') => .ok (false, undoPush s s') := by
  obtain ⟨hafter, hlt, hnear, hfits⟩ := hm
  unfold pushMatch
  rw [raiseIf_neg (decide_eq_false (by omega)), raiseIf_neg (decide_eq_false (by unfold maxDValue; omega)),
    raiseIf_neg (decide_eq_false (by omega)), pushSplit_eq]
  rfl

/-- PUSH_MATCH of a match in the source: all its triplets, or STATE_FULL and undone. -/
theorem pushMatch_ends (hs : encSourceOpen s) (hm : Sendable s m) :
    (roomFor s (splitOf s m) → ∃ t, pushMatch m.pos m.ref m.length s = .ok (true, t) ∧ Pushed (splitOf s m) s t) ∧
      (¬roomFor s (splitOf s m) → ∃ us t, pushMatch m.pos m.ref m.length s = .ok (false, undoPush s t) ∧ Pushed us s t) := by
  obtain ⟨hrange, -, hcov, -⟩ := hm.splits
  obtain ⟨hafter, -, -, hfits⟩ := id hm
  obtain ⟨hdone, hpart⟩ := pushList_ends hs hrange (by rw [hcov]; omega)
  rw [pushMatch_sendable hm]
  refine ⟨fun h => ?_, fun h => ?_⟩
  · obtain ⟨t, hpush, ht⟩ := hdone h
    exact ⟨t, by rw [hpush], ht⟩
  · obtain ⟨us, t, hpush, ht, -⟩ := hpart h
    exact ⟨us, t, by rw [hpush], ht⟩

theorem backendMatch_room {t : State} (h : pushMatch m.pos m.ref m.length s = .ok (true, t)) :
    backendMatch m.pos m.ref m.length s = .ok (true, t) := by
  rw [backendMatch, h]

end Match

/-- A push command that ends OK leaves the triplets of its split. -/
theorem Pushed.run {s t : State} {l m d : Nat} (h : Pushed (tripletsOf l m d) s t) (hs : encSourceOpen s) (hd : d ≤ maxDValue)
    (hfit : s.enc.srcLiteral.toInt + l + m ≤ s.enc.srcLimit.toNat) :
    pushedRun s { writeBackEnc (withPushRes t) with status := .ok } l m d := by
  obtain ⟨-, -, hmax, h0⟩ := id hs
  obtain ⟨-, hlits, hcov, hstretch⟩ := tripletsOf_splits hd s.src l m
  have hliteral : t.enc.srcLiteral = s.enc.srcLiteral + BitVec.ofNat 64 (l + m) := by
    have hlit := h.literal
    rw [hcov] at hlit
    exact eq_add_ofNat64 (hlit (by omega))
  have hm := h.nMatches_eq
  have hl := h.nLits_eq
  rw [hlits] at hl
  refine ⟨?_, h.triplets, fun i hi => h.others i (.inl hi), h.litsBefore, fun i hi => ?_⟩
  · show _ = ({ s with enc := _, cur := encCursors t.enc, res0 := nat64 t.enc.nMatches.toNat, res1 := nat64 t.enc.nLits.toNat,
                       status := .ok } : State)
    rw [← hm, ← hl, ← hliteral]
    conv_lhs => rw [h.state]
    conv_rhs => rw [h.state]
    rfl
  · have hread := h.lits
    rw [hstretch, srcIndex_nonneg h0] at hread
    exact (hread i (by rwa [readBytes_length])).trans (readBytes_getElem ..)

/-- FULL of R252: the arrays below their lengths are as they were. -/
theorem undoPush_eq {us : List (Nat × Nat × Nat)} {s t : State} (h : Pushed us s t) : undoPush s t = { s with
    enc := { s.enc with
      lValues := (undoPush s t).enc.lValues, mValues := (undoPush s t).enc.mValues, dValues := (undoPush s t).enc.dValues,
      lits := (undoPush s t).enc.lits },
    freeTag := (undoPush s t).freeTag } := by
  rw [undoPush, releaseEncArrays, h.state]

end Sys2Proof.Proofs

namespace Sys2Proof.Proofs

open Sys2Proof Sys2Proof.Machine Sys2Proof.Laws

/-! ### The end of a block that fits (R258, R265) -/

/-- The bytes of a block: header and payloads. -/
def blockBytes (p : List U8) (s : State) : List U8 := packedHeader (finalHeader s) s.allFreqs ++ p

/-- The state once header and payloads stand at ENC.dst_pos, the arrays empty. -/
def storedBlock (p : List U8) (s : State) : State := { s with
  hdr := finalHeader s, dst := writeBytes s.dst s.enc.dstPos.toNat (blockBytes p s),
  enc := { s.enc with dstPos := nat64 (s.enc.dstPos.toNat + (blockBytes p s).length), nMatches := 0, nLits := 0 } }

/-- The state in which EMIT_BLOCK ends OK. -/
def closedBlock (n : Nat) (p : List U8) (s : State) : State :=
  releaseEncLits n (releaseDst (s.enc.dstPos.toNat + (blockBytes p s).length) s.enc.dstEnd.toNat (storedBlock p s))

theorem closeBlock_eq (n : Nat) (p : List U8) (s : State) :
    closeBlock n p s = raiseOpt (fieldOverflow (finalHeader s) s.allFreqs) (.ok (closedBlock n p s)) := rfl

/-! ### Pushes and emissions do not look at the cursor registers, RES and STATUS

Between the commands of which BACKEND_MATCH is made only these registers change. -/

/-- The state with other cursor registers, results and status. -/
def withPort (c : Cursors) (v w : U64) (st : Status) (s : State) : State := { s with cur := c, res0 := v, res1 := w, status := st }

/-- What a body answers, with other cursor registers, results and status. -/
def answerPort (c : Cursors) (v w : U64) (st : Status) (r : Except Trap (Bool × State)) : Except Trap (Bool × State) :=
  r.map fun x => (x.1, withPort c v w st x.2)

section Port

variable {c : Cursors} {v w : U64} {st : Status} (s : State)

theorem encSrcBytes_port (i : Int) (n : Nat) : encSrcBytes (withPort c v w st s) i n = encSrcBytes s i n := by
  induction n generalizing i with
  | zero => rfl
  | succ n ih =>
    rw [encSrcBytes, encSrcBytes, ih]
    rfl

theorem pushLmd_port (l m d : Nat) : pushLmd l m d (withPort c v w st s) = answerPort c v w st (pushLmd l m d s) := by
  have hfull : stateFull (withPort c v w st s) l = stateFull s l := rfl
  have hlit : (withPort c v w st s).enc.srcLiteral = s.enc.srcLiteral := rfl
  rw [pushLmd, pushLmd, hfull, hlit, encSrcBytes_port]
  split
  · rfl
  · split <;> rfl

theorem pushList_port (ts : List (Nat × Nat × Nat)) :
    pushList ts (withPort c v w st s) = answerPort c v w st (pushList ts s) := by
  induction ts generalizing s with
  | nil => rfl
  | cons x r ih =>
    obtain ⟨l, m, d⟩ := x
    rw [pushList, pushList, pushLmd_port]
    cases pushLmd l m d s with
    | error t => rfl
    | ok y =>
      obtain ⟨_ | _, s'⟩ := y
      · rfl
      · exact ih s'

theorem answerPort_raiseIf (b : Bool) (k : Cause) (i : U64) (r : Except Trap (Bool × State)) :
    answerPort c v w st (raiseIf b k i r) = raiseIf b k i (answerPort c v w st r) := by
  cases b <;> rfl

theorem pushMatch_port (pos ref : Int) (n : Nat) :
    pushMatch pos ref n (withPort c v w st s) = answerPort c v w st (pushMatch pos ref n s) := by
  have hlit : (withPort c v w st s).enc = s.enc := rfl
  rw [pushMatch, pushMatch, hlit, pushSplit_eq, pushSplit_eq, pushList_port, answerPort_raiseIf, answerPort_raiseIf,
    answerPort_raiseIf]
  cases pushList (tripletsOf (pos - s.enc.srcLiteral.toInt).toNat n (pos - ref).toNat) s with
  | error t => rfl
  | ok y =>
    obtain ⟨_ | _, s'⟩ := y <;> rfl

theorem buildTables_port : buildTables (withPort c v w st s) = (buildTables s).map (withPort c v w st) := by
  have hnorm (sel : Sel) : normalized (withPort c v w st s) sel = normalized s sel := rfl
  unfold buildTables
  simp only [hnorm]
  split
  · rfl
  · split
    · rfl
    · split
      · rfl
      · split <;> rfl

/-- A payload stage in a state with other cursor registers, results and status. -/
def stagePort (c : Cursors) (v w : U64) (st : Status) : Stage → Stage
  | .done b s => .done b (withPort c v w st s)
  | .full s => .full (withPort c v w st s)

theorem encodeLiterals_port (q : Nat) (b : BlockSymbols) :
    encodeLiterals q b (withPort c v w st s) = (encodeLiterals q b s).map (stagePort c v w st) := by
  have henc : (withPort c v w st s).enc = s.enc := rfl
  have htab : (withPort c v w st s).encTab = s.encTab := rfl
  rw [encodeLiterals, encodeLiterals, henc, htab]
  split
  · rfl
  · rfl
  · rfl

theorem encodeLmd_port (q : Nat) (b : BlockSymbols) :
    encodeLmd q b (withPort c v w st s) = (encodeLmd q b s).map (stagePort c v w st) := by
  have henc : (withPort c v w st s).enc = s.enc := rfl
  have htab : (withPort c v w st s).encTab = s.encTab := rfl
  rw [encodeLmd, encodeLmd, henc, htab]
  split
  · rfl
  · split
    · rfl
    · rfl
    · rfl

theorem releaseDst_port (lo hi : Nat) : releaseDst lo hi (withPort c v w st s) = withPort c v w st (releaseDst lo hi s) := by
  unfold releaseDst
  split <;> rfl

theorem closedBlock_port (n : Nat) (p : List U8) : closedBlock n p (withPort c v w st s) = withPort c v w st (closedBlock n p s) := by
  rw [closedBlock, closedBlock]
  exact (congrArg (releaseEncLits n) (releaseDst_port (storedBlock p s) _ _)).trans rfl

theorem closeBlock_port (n : Nat) (p : List U8) :
    closeBlock n p (withPort c v w st s) = (closeBlock n p s).map (withPort c v w st) := by
  have hover : fieldOverflow (finalHeader (withPort c v w st s)) (withPort c v w st s).allFreqs =
    fieldOverflow (finalHeader s) s.allFreqs := rfl
  rw [closeBlock_eq, closeBlock_eq, hover, closedBlock_port]
  cases fieldOverflow (finalHeader s) s.allFreqs <;> rfl

theorem rollback_port (s0 : State) : rollback (withPort c v w st s0) (withPort c v w st s) = withPort c v w st (rollback s0 s) := by
  unfold rollback
  rw [← releaseDst_port]
  rfl

theorem rolledBack_port (s0 : State) : (.ok (false, rollback (withPort c v w st s0) (withPort c v w st s)) :
    Except Trap (Bool × State)) = answerPort c v w st (.ok (false, rollback s0 s)) := by
  rw [rollback_port]
  rfl

theorem emitPayload_port (s0 : State) (b : BlockSymbols) :
    emitPayload (withPort c v w st s0) b (withPort c v w st s) = answerPort c v w st (emitPayload s0 b s) := by
  have hpos : (withPort c v w st s).enc.dstPos.toNat + (withPort c v w st s).hdrSize.toNat =
    s.enc.dstPos.toNat + s.hdrSize.toNat := rfl
  have hlits : (withPort c v w st s0).enc.nLits = s0.enc.nLits := rfl
  simp only [emitPayload, hpos, hlits, encodeLiterals_port]
  cases encodeLiterals (s.enc.dstPos.toNat + s.hdrSize.toNat) b s with
  | error t => rfl
  | ok r =>
    cases r with
    | full s1 => exact rolledBack_port s1 s0
    | done lits s1 =>
      simp only [Except.map, stagePort, encodeLmd_port]
      cases encodeLmd (s.enc.dstPos.toNat + s.hdrSize.toNat + lits.length) b s1 with
      | error t => rfl
      | ok r2 =>
        cases r2 with
        | full s2 => exact rolledBack_port s2 s0
        | done lmd s2 =>
          simp only [Except.map, closeBlock_port]
          cases closeBlock s0.enc.nLits.toNat (lits ++ lmd) s2 <;> rfl

theorem emitFilled_port : emitFilled (withPort c v w st s) = answerPort c v w st (emitFilled s) := by
  have hprepared : substituteDistances (padLiterals (withPort c v w st s)) =
    withPort c v w st (substituteDistances (padLiterals s)) := rfl
  have hsymbols (u : State) : blockSymbols (withPort c v w st u) = blockSymbols u := rfl
  have hhist (b : BlockSymbols) (u : State) : histograms b (withPort c v w st u) = withPort c v w st (histograms b u) := rfl
  have henc : (withPort c v w st s).enc = s.enc := rfl
  simp only [emitFilled, hprepared, hsymbols, hhist, henc]
  cases blockSymbols (substituteDistances (padLiterals s)) with
  | error t => rfl
  | ok b =>
    dsimp only
    split
    · exact rolledBack_port _ s
    · rw [buildTables_port]
      cases buildTables (histograms b (substituteDistances (padLiterals s))) with
      | error t => rfl
      | ok sT => exact emitPayload_port sT s b

theorem emitBlock_port : emitBlock (withPort c v w st s) = answerPort c v w st (emitBlock s) := by
  have hnothing : nothingToEmit (withPort c v w st s) = nothingToEmit s := rfl
  rw [emitBlock, emitBlock, hnothing]
  split
  · rfl
  · exact emitFilled_port s

end Port

end Sys2Proof.Proofs

namespace Sys2Proof.Proofs

open Sys2Proof Sys2Proof.Machine Sys2Proof.Laws

/-! ### The commands PUSH_MATCH, EMIT_BLOCK and BACKEND_MATCH (R252, R254, R258) -/

/-- The match in the operands. -/
def matchArgs (s : State) : Match := { pos := s.arg0.toNat, ref := s.arg1.toNat, length := s.arg2.toNat }

section Commands

variable {s t : State} (hr : ready s) (hp : s.enc.poisoned = false)

include hp

theorem exec_pushMatch : exec .pushMatch s =
    command s ((pushMatch (matchArgs s).pos (matchArgs s).ref (matchArgs s).length s).map endPush) := by
  show command s (raiseEncPoisoned s _) = _
  rw [raiseEncPoisoned_clear hp]
  rfl

theorem exec_backendMatch : exec .backendMatch s =
    command s ((backendMatch (matchArgs s).pos (matchArgs s).ref (matchArgs s).length s).map endBackend) := by
  show command s (raiseEncPoisoned s _) = _
  rw [raiseEncPoisoned_clear hp]
  rfl

theorem exec_emitBlock : exec .emitBlock s = command s ((emitBlock s).map (endEmit s)) := by
  show command s (raiseEncPoisoned s _) = _
  rw [raiseEncPoisoned_clear hp]

include hr

theorem exec_pushMatch_fault {f : Trap} (h : pushMatch (matchArgs s).pos (matchArgs s).ref (matchArgs s).length s = .error f) :
    exec .pushMatch s = .next (takeFault f s) := by
  rw [exec_pushMatch hp, h]
  exact command_error hr _

theorem exec_pushMatch_done (h : pushMatch (matchArgs s).pos (matchArgs s).ref (matchArgs s).length s = .ok (true, t)) :
    exec .pushMatch s = .next { writeBackEnc (withPushRes t) with status := .ok } := by
  rw [exec_pushMatch hp, h]
  exact command_ok hr _ _

theorem exec_pushMatch_full (h : pushMatch (matchArgs s).pos (matchArgs s).ref (matchArgs s).length s = .ok (false, t)) :
    exec .pushMatch s = .next { writeBackEnc t with status := .stateFull } := by
  rw [exec_pushMatch hp, h]
  exact command_ok hr _ _

theorem exec_emitBlock_full (h : emitBlock s = .ok (false, t)) :
    exec .emitBlock s = .next { writeBackEnc t with status := .dstFull } := by
  rw [exec_emitBlock hp, h]
  exact command_ok hr _ _

theorem exec_emitBlock_done (h : emitBlock s = .ok (true, t)) :
    exec .emitBlock s = .next { (endEmit s (true, t)).2 with status := .ok } := by
  rw [exec_emitBlock hp, h]
  exact command_ok hr _ _

theorem exec_backendMatch_done (h : backendMatch (matchArgs s).pos (matchArgs s).ref (matchArgs s).length s = .ok (true, t)) :
    exec .backendMatch s = .next { writeBackEnc (withPushRes t) with status := .ok } := by
  rw [exec_backendMatch hp, h]
  exact command_ok hr _ _

theorem exec_backendMatch_failed (h : backendMatch (matchArgs s).pos (matchArgs s).ref (matchArgs s).length s = .ok (false, t)) :
    exec .backendMatch s = .next { writeBackEnc t with status := .error } := by
  rw [exec_backendMatch hp, h]
  exact command_ok hr _ _

end Commands

/-! ### BACKEND_MATCH on a full block: PUSH_MATCH, EMIT_BLOCK and PUSH_MATCH again (R254) -/

/-- The state in which PUSH_MATCH ends on a full block. -/
def afterFull (s : State) : State := withPort (encCursors s.enc) s.res0 s.res1 .stateFull s

/-- EMIT_BLOCK that ends OK leaves what its body leaves, but for the cursor registers, the results and STATUS. -/
theorem endEmit_port (s s' : State) : ∃ v w,
    ({ (endEmit s (true, s')).2 with status := .ok } : State) = withPort (encCursors s'.enc) v w .ok s' := by
  by_cases h : nothingToEmit s = true
  · refine ⟨0, 0, ?_⟩
    simp only [endEmit, if_pos h]
    rfl
  · refine ⟨nat64 (s'.enc.dstPos.toNat - s.enc.dstPos.toNat), nat64 s'.hdrSize.toNat, ?_⟩
    simp only [endEmit, if_neg h]
    rfl

section Full

variable {s s1 : State} (hr : ready s) (hp : s.enc.poisoned = false) (hp1 : s1.enc.poisoned = false)
  (hpush : pushMatch (matchArgs s).pos (matchArgs s).ref (matchArgs s).length s = .ok (false, s1))

include hr hpush

theorem afterFull_ready : ready (afterFull s1) := (fault_of_encKey (pushMatch_key hpush)).trans hr

include hp1

/-- How EMIT_BLOCK after the full push relates to the body that BACKEND_MATCH runs. -/
theorem exec_emitBlock_afterFull {v : State} (hemit : exec .emitBlock (afterFull s1) = .next v) :
    (∃ s2, emitBlock s1 = .ok (false, s2) ∧ v = withPort (encCursors s2.enc) s1.res0 s1.res1 .dstFull s2) ∨
      (∃ s2 x y, emitBlock s1 = .ok (true, s2) ∧ v = withPort (encCursors s2.enc) x y .ok s2) ∨ v.status = .faulted := by
  have hready := afterFull_ready hr hpush
  have hport : emitBlock (afterFull s1) = _ := emitBlock_port s1
  cases hb : emitBlock s1 with
  | error f =>
    rw [exec_emitBlock (s := afterFull s1) hp1, hport, hb] at hemit
    cases (command_error hready f).symm.trans hemit
    exact .inr (.inr rfl)
  | ok r =>
    obtain ⟨_ | _, s2⟩ := r
    · rw [hb] at hport
      cases (exec_emitBlock_full hready hp1 hport).symm.trans hemit
      exact .inl ⟨s2, rfl, rfl⟩
    · rw [hb] at hport
      obtain ⟨x, y, hxy⟩ := endEmit_port (afterFull s1) (withPort (encCursors s1.enc) s1.res0 s1.res1 .stateFull s2)
      cases (exec_emitBlock_done hready hp1 hport).symm.trans hemit
      exact .inr (.inl ⟨s2, x, y, rfl, hxy⟩)

include hp

theorem backendMatch_emitFull {v : State} (hemit : exec .emitBlock (afterFull s1) = .next v) (hv : v.status = .dstFull) :
    exec .backendMatch s = .next { v with enc := { v.enc with poisoned := true }, status := .error } := by
  rcases exec_emitBlock_afterFull hr hp1 hpush hemit with ⟨s2, hb, rfl⟩ | ⟨s2, x, y, -, rfl⟩ | hf
  · have hbody : backendMatch (matchArgs s).pos (matchArgs s).ref (matchArgs s).length s = .ok (false, poisonEnc s2) := by
      rw [backendMatch, hpush]
      dsimp only
      rw [hb]
    have hres := emitBlock_key hb
    simp only [encKey, Prod.mk.injEq] at hres
    obtain ⟨-, -, -, -, -, h0, h1, -⟩ := hres
    rw [exec_backendMatch_failed hr hp hbody, ← h0, ← h1]
    rfl
  · cases hv
  · rw [hv] at hf
    cases hf

theorem backendMatch_emitted {v : State} (hemit : exec .emitBlock (afterFull s1) = .next v) (hv : v.status = .ok) :
    ∃ w, exec .pushMatch v = .next w ∧ (w.status = .ok → exec .backendMatch s = .next w) ∧
      (w.status = .stateFull → exec .backendMatch s = .next { w with
        enc := { w.enc with poisoned := true }, res0 := s.res0, res1 := s.res1, status := .error }) := by
  rcases exec_emitBlock_afterFull hr hp1 hpush hemit with ⟨s2, hb, rfl⟩ | ⟨s2, x, y, hb, rfl⟩ | hf
  · cases hv
  · obtain ⟨-, -, hpoison⟩ := pushView_eq (emitBlock_enc hb).1
    have hkey := (emitBlock_key hb).trans (pushMatch_key hpush)
    have hready : ready (withPort (encCursors s2.enc) x y .ok s2) := (fault_of_encKey hkey).trans hr
    have hclean : (withPort (encCursors s2.enc) x y .ok s2).enc.poisoned = false := hpoison.trans hp1
    have hargs : matchArgs (withPort (encCursors s2.enc) x y .ok s2) = matchArgs s := by
      simp only [encKey, Prod.mk.injEq] at hkey
      obtain ⟨-, h0, h1, h2, -⟩ := hkey
      show Match.mk s2.arg0.toNat s2.arg1.toNat s2.arg2.toNat = _
      rw [h0, h1, h2]
      rfl
    have hbody : backendMatch (matchArgs s).pos (matchArgs s).ref (matchArgs s).length s =
        match pushMatch (matchArgs s).pos (matchArgs s).ref (matchArgs s).length s2 with
        | .error t => .error t
        | .ok (true, s3) => .ok (true, s3)
        | .ok (false, s3) => .ok (false, poisonEnc s3) := by
      rw [backendMatch, hpush]
      dsimp only
      rw [hb] <;> rfl
    have hport := pushMatch_port (c := encCursors s2.enc) (v := x) (w := y) (st := .ok) s2 (matchArgs s).pos (matchArgs s).ref
      (matchArgs s).length
    cases hagain : pushMatch (matchArgs s).pos (matchArgs s).ref (matchArgs s).length s2 with
    | error f =>
      rw [hagain, ← hargs] at hport
      refine ⟨_, exec_pushMatch_fault hready hclean hport, fun h => ?_, fun h => ?_⟩
      · cases h
      · cases h
    | ok r =>
      have hkey' := (pushMatch_key hagain).trans hkey
      obtain ⟨_ | _, s3⟩ := r
      · rw [hagain] at hport hbody
        rw [← hargs] at hport
        refine ⟨_, exec_pushMatch_full hready hclean hport, fun h => ?_, fun _ => ?_⟩
        · cases h
        simp only [encKey, Prod.mk.injEq] at hkey'
        obtain ⟨-, -, -, -, -, h0, h1, -⟩ := hkey'
        rw [exec_backendMatch_failed hr hp hbody, ← h0, ← h1]
        rfl
      · rw [hagain] at hport hbody
        rw [← hargs] at hport
        refine ⟨_, exec_pushMatch_done hready hclean hport, fun _ => ?_, fun h => ?_⟩
        · rw [exec_backendMatch_done hr hp hbody]
          rfl
        · cases h
  · rw [hv] at hf
    cases hf

end Full

end Sys2Proof.Proofs

namespace Sys2Proof.Proofs

open Sys2Proof Sys2Proof.Machine Sys2Proof.Laws

/-! ### The outcomes of PUSH_MATCH (R252) -/

section Outcomes

variable {s : State}

theorem pushMatch_before {pos ref : Int} {n : Nat} (h : pos < s.enc.srcLiteral.toInt) :
    pushMatch pos ref n s = .error { cause := .badOperand, info := 0 } := raiseIf_pos (decide_eq_true h) _ _ _

theorem pushMatch_far {pos ref : Int} {n : Nat} (h1 : s.enc.srcLiteral.toInt ≤ pos)
    (h : pos ≤ ref ∨ 262139 < pos - ref) : pushMatch pos ref n s = .error { cause := .badOperand, info := 1 } := by
  rw [pushMatch, raiseIf_neg (decide_eq_false (not_lt.mpr h1))]
  exact raiseIf_pos (decide_eq_true h) _ _ _

theorem pushMatch_beyond {pos ref : Int} {n : Nat} (h1 : s.enc.srcLiteral.toInt ≤ pos) (h2 : ref < pos)
    (h3 : pos - ref ≤ 262139) (h : s.enc.srcLimit.toNat < pos + n) :
    pushMatch pos ref n s = .error { cause := .badOperand, info := 2 } := by
  rw [pushMatch, raiseIf_neg (decide_eq_false (not_lt.mpr h1)), raiseIf_neg (decide_eq_false (by unfold maxDValue; omega))]
  exact raiseIf_pos (decide_eq_true h) _ _ _

/-- PUSH_MATCH has room, as R252 counts it. -/
theorem roomFor_iff {ts : List (Nat × Nat × Nat)} {m : Memory} {l n : Nat} (h : Splits m l n ts) : roomFor s ts ↔
    ¬(ts ≠ [] ∧ (10000 < s.enc.nMatches.toNat + ts.length + 8 ∨ 40000 < s.enc.nLits.toNat + l + 16)) := by
  rw [roomFor, h.literals, not_and_or, not_not, not_or, not_lt, not_lt]

variable (h0 : 0 ≤ s.enc.srcLiteral.toInt)

include h0

/-- The triplets of the match in the operands, counted in natural numbers. -/
theorem splitOf_args : splitOf s (matchArgs s) =
    tripletsOf (s.arg0.toNat - s.enc.srcLiteral.toInt.toNat) s.arg2.toNat (s.arg0.toNat - s.arg1.toNat) := by
  rw [splitOf, matchArgs]
  dsimp only
  congr 1 <;> omega

theorem sendable_args (h1 : s.enc.srcLiteral.toInt.toNat ≤ s.arg0.toNat) (h2 : s.arg1.toNat < s.arg0.toNat)
    (h3 : s.arg0.toNat - s.arg1.toNat ≤ 262139) (h4 : s.arg0.toNat + s.arg2.toNat ≤ s.enc.srcLimit.toNat) :
    Sendable s (matchArgs s) := by
  refine ⟨?_, ?_, ?_, ?_⟩ <;> simp only [matchArgs] <;> omega

/-- PUSH_MATCH of the operands: all its triplets, or STATE_FULL and undone. -/
theorem pushMatch_args_ends (hs : encSourceOpen s) (h1 : s.enc.srcLiteral.toInt.toNat ≤ s.arg0.toNat)
    (h2 : s.arg1.toNat < s.arg0.toNat) (h3 : s.arg0.toNat - s.arg1.toNat ≤ 262139)
    (h4 : s.arg0.toNat + s.arg2.toNat ≤ s.enc.srcLimit.toNat) :
    let l := s.arg0.toNat - s.enc.srcLiteral.toInt.toNat
    let ts := tripletsOf l s.arg2.toNat (s.arg0.toNat - s.arg1.toNat)
    let full := ts ≠ [] ∧ (10000 < s.enc.nMatches.toNat + ts.length + 8 ∨ 40000 < s.enc.nLits.toNat + l + 16)
    (¬full → ∃ t, pushMatch (matchArgs s).pos (matchArgs s).ref (matchArgs s).length s = .ok (true, t) ∧ Pushed ts s t) ∧
      (full → ∃ us t, pushMatch (matchArgs s).pos (matchArgs s).ref (matchArgs s).length s = .ok (false, undoPush s t) ∧
        Pushed us s t) := by
  have hends := pushMatch_ends hs (sendable_args h0 h1 h2 h3 h4)
  have hiff := roomFor_iff (s := s) (tripletsOf_splits (show _ ≤ maxDValue from h3) s.src
    (s.arg0.toNat - s.enc.srcLiteral.toInt.toNat) s.arg2.toNat)
  rw [splitOf_args h0, hiff, not_not] at hends
  exact hends

end Outcomes

theorem undoPush_lit {us : List (Nat × Nat × Nat)} {s t : State} (h : Pushed us s t) {i : Nat} (hi : i < s.enc.nLits.toNat) :
    litAt (undoPush s t).enc.lits i = litAt s.enc.lits i :=
  (arrGet_release_outside _ _ _ _ _ _ _ (by omega)).trans (h.litsBefore i hi)

theorem undoPush_value {us : List (Nat × Nat × Nat)} {s t : State} (h : Pushed us s t) {i : Nat} (hi : i < s.enc.nMatches.toNat)
    (sel : VSel) : valueAt sel (undoPush s t) i = valueAt sel s i := by
  have hout : ¬(s.enc.nMatches.toNat ≤ i ∧ i < matchesPerBlock) := by omega
  rw [← h.others i (.inl hi) sel]
  cases sel with
  | l => exact congrArg BitVec.toNat (arrGet_release_outside _ _ _ _ _ _ _ hout)
  | m => exact congrArg BitVec.toNat (arrGet_release_outside _ _ _ _ _ _ _ hout)
  | d => exact congrArg BitVec.toNat (arrGet_release_outside _ _ _ _ _ _ _ hout)

/-- BACKEND_LITERALS of l literals in the source, with room for their triplets. -/
theorem backendLiterals_room {s : State} {l : Nat} (hs : encSourceOpen s) (hfit : s.enc.srcLiteral.toInt + l ≤ s.enc.srcLimit.toNat)
    (hm : s.enc.nMatches.toNat + (tripletsOf l 0 1).length + 8 ≤ 10000) (hl : s.enc.nLits.toNat + l + 16 ≤ 40000) :
    ∃ t, backendLiterals l s = .ok (true, t) ∧ Pushed (tripletsOf l 0 1) s t := by
  have hsend : Sendable s (literalRun s l) := by
    refine ⟨?_, ?_, ?_, ?_⟩ <;> simp only [literalRun] <;> omega
  have hsplit : splitOf s (literalRun s l) = tripletsOf l 0 1 := by
    rw [splitOf, literalRun]
    dsimp only
    congr 1 <;> omega
  obtain ⟨hdone, -⟩ := pushMatch_ends hs hsend
  rw [hsplit] at hdone
  obtain ⟨t, hpush, ht⟩ := hdone (.inr ⟨hm, by rwa [(tripletsOf_splits (by decide) s.src l 0).literals]⟩)
  exact ⟨t, backendMatch_room hpush, ht⟩

/-- Settles O51: the split is a list of pushes, which has room as a whole or is undone; BACKEND_MATCH is its three bodies in a row. -/
theorem pushMatchSplits : Obligations.PushMatchSplits := by
  intro s hr hs hm hl
  obtain ⟨-, -, hmax, h0⟩ := id hs
  refine ⟨fun hp => ?_, fun hp => ?_⟩
  · show command s (raiseEncPoisoned s _) = _
    rw [raiseEncPoisoned_set hp, command_error hr, takeFault_zero]
  refine ⟨fun h => ?_, fun h1 h => ?_, fun h1 h2 h3 h => ?_, fun ⟨h1, h2, h3, h4⟩ hfull => ?_, fun ⟨h1, h2, h3, h4⟩ hroom => ?_,
    fun ⟨h1, h2, h3, h4⟩ hfull u v hu hv => ?_, fun hz => ?_, fun hpos hfit hmroom hlroom => ?_⟩
  · exact exec_pushMatch_fault hr hp (pushMatch_before (by simp only [matchArgs]; omega))
  · exact exec_pushMatch_fault hr hp (pushMatch_far (by simp only [matchArgs]; omega) (by simp only [matchArgs]; omega))
  · exact exec_pushMatch_fault hr hp (pushMatch_beyond (by simp only [matchArgs]; omega) (by simp only [matchArgs]; omega)
      (by simp only [matchArgs]; omega) (by simp only [matchArgs]; omega))
  · obtain ⟨us, t, hpush, ht⟩ := (pushMatch_args_ends h0 hs h1 h2 h3 h4).2 hfull
    refine ⟨_, exec_pushMatch_full hr hp hpush, ?_, fun i hi sel => undoPush_value ht hi sel, fun i hi => undoPush_lit ht hi⟩
    conv_lhs => rw [undoPush_eq ht]
    rfl
  · obtain ⟨t, hpush, ht⟩ := (pushMatch_args_ends h0 hs h1 h2 h3 h4).1 hroom
    exact ⟨_, exec_pushMatch_done hr hp hpush, exec_backendMatch_done hr hp (backendMatch_room hpush),
      ht.run hs h3 (by omega)⟩
  · obtain ⟨us, t, hpush, ht⟩ := (pushMatch_args_ends h0 hs h1 h2 h3 h4).2 hfull
    have hclean : (undoPush s t).enc.poisoned = false := by
      rw [undoPush_eq ht]
      exact hp
    cases (exec_pushMatch_full hr hp hpush).symm.trans hu
    exact ⟨backendMatch_emitFull hr hp hclean hpush hv, backendMatch_emitted hr hp hclean hpush hv⟩
  · exact exec_backendLiterals_zero hr hp (by rw [hz]; rfl)
  · obtain ⟨t, hpush, ht⟩ := backendLiterals_room hs (by omega) hmroom hlroom
    refine ⟨_, ?_, ht.run hs (by decide) (by omega)⟩
    rw [exec_backendLiterals_some hp (by omega), hpush]
    exact command_ok hr _ _

end Sys2Proof.Proofs

namespace Sys2Proof.Proofs

open Sys2Proof Sys2Proof.Machine Sys2Proof.Laws

/-! ## EMIT_BLOCK (46_encoder_backend.md R258 to R266) -/

/-! ### The payloads as a function of the tables, the room and the symbols (R263, R264) -/

/-- The two payloads of a block, finished, and the coder's states at their ends. -/
structure Payloads where
  lit : LitStates
  lits : Payload
  lmd : LmdStates
  lmds : Payload

/-- The literal payload as far as its last group, `room` bytes being free. -/
def literalGroups (tabs : Quad (Sparse EncEntry)) (room : Nat) (b : BlockSymbols) : Except Trap (Bool × LitStates × Payload) :=
  encodeGroups tabs.lit room b.lits.reverse { s0 := 0, s1 := 0, s2 := 0, s3 := 0 } { bytes := [], out := OutAcc.zero }

/-- The LMD payload as far as its last triplet, `room` bytes being free. -/
def lmdTriplets (tabs : Quad (Sparse EncEntry)) (room : Nat) (b : BlockSymbols) : Except Trap (Bool × LmdStates × Payload) :=
  encodeTriplets tabs room (b.l.zip (b.m.zip b.d)).reverse { l := 0, m := 0, d := 0 }
    { bytes := List.replicate 8 0, out := OutAcc.zero }

/-- Both payloads in `room` bytes; `none` where they do not fit. -/
def payloads (tabs : Quad (Sparse EncEntry)) (room : Nat) (b : BlockSymbols) : Except Trap (Option Payloads) :=
  match literalGroups tabs room b with
  | .error t => .error t
  | .ok (false, _, _) => .ok none
  | .ok (true, x, p) =>
    if room < (finishPayload p).bytes.length + 8 then .ok none
    else
      match lmdTriplets tabs (room - (finishPayload p).bytes.length) b with
      | .error t => .error t
      | .ok (false, _, _) => .ok none
      | .ok (true, y, p') => .ok (some { lit := x, lits := finishPayload p, lmd := y, lmds := finishPayload p' })

/-- OUT and HDR after the literal payload (R263). -/
def withLiterals (x : LitStates) (p : Payload) (s : State) : State := { s with
  out := p.out,
  hdr := { s.hdr with
    literalBits := BitVec.ofInt 32 p.out.nbits,
    literalState0 := BitVec.ofNat 16 x.s0, literalState1 := BitVec.ofNat 16 x.s1,
    literalState2 := BitVec.ofNat 16 x.s2, literalState3 := BitVec.ofNat 16 x.s3,
    nLiteralPayloadBytes := BitVec.ofNat 32 p.bytes.length } }

/-- OUT and HDR after the LMD payload (R264). -/
def withLmd (x : LmdStates) (p : Payload) (s : State) : State := { s with
  out := p.out,
  hdr := { s.hdr with
    lmdBits := BitVec.ofInt 32 p.out.nbits, lState := BitVec.ofNat 16 x.l, mState := BitVec.ofNat 16 x.m,
    dState := BitVec.ofNat 16 x.d, nLmdPayloadBytes := BitVec.ofNat 32 p.bytes.length } }

/-- OUT and HDR after both. -/
def withPayloads (y : Payloads) (s : State) : State := withLmd y.lmd y.lmds (withLiterals y.lit y.lits s)

/-- The bytes free for the payloads, the header's room taken off. -/
def payloadRoom (s : State) : Nat := s.enc.dstEnd.toNat - (s.enc.dstPos.toNat + s.hdrSize.toNat)

section Stages

variable {s0 s : State} {b : BlockSymbols} {q room : Nat}

theorem encodeLiterals_eq (hroom : s.enc.dstEnd.toNat - q = room) : encodeLiterals q b s =
    match literalGroups s.encTab room b with
    | .error t => .error t
    | .ok (false, _, p) => .ok (.full { s with out := p.out })
    | .ok (true, x, p) => .ok (.done (finishPayload p).bytes (withLiterals x (finishPayload p) s)) := by
  subst hroom
  rfl

theorem encodeLmd_eq (hroom : s.enc.dstEnd.toNat - q = room) : encodeLmd q b s =
    if s.enc.dstEnd.toNat < q + 8 then .ok (.full s)
    else
      match lmdTriplets s.encTab room b with
      | .error t => .error t
      | .ok (false, _, p) => .ok (.full { s with out := p.out })
      | .ok (true, x, p) => .ok (.done (finishPayload p).bytes (withLmd x (finishPayload p) s)) := by
  subst hroom
  rfl

/-- How the payload stages of an EMIT_BLOCK entered in `s0` end in `s`. -/
inductive PayloadEnds (s0 s : State) : Option Payloads → Except Trap (Bool × State) → Prop
  | full (o : OutAcc) (h : Hdr) : PayloadEnds s0 s none (.ok (false, rollback s0 { s with out := o, hdr := h }))
  | done (y : Payloads) : PayloadEnds s0 s (some y)
      ((closeBlock s0.enc.nLits.toNat (y.lits.bytes ++ y.lmds.bytes) (withPayloads y s)).map fun u => (true, u))

theorem emitPayload_payloads {o : Option Payloads} (h : payloads s.encTab (payloadRoom s) b = .ok o) :
    PayloadEnds s0 s o (emitPayload s0 b s) := by
  unfold payloads at h
  unfold emitPayload
  dsimp only
  rw [encodeLiterals_eq (room := payloadRoom s) rfl]
  cases hg : literalGroups s.encTab (payloadRoom s) b with
  | error t =>
    rw [hg] at h
    cases h
  | ok r =>
    obtain ⟨_ | _, x, p⟩ := r
    · rw [hg] at h
      cases h
      exact .full _ _
    · rw [hg] at h
      dsimp only at h ⊢
      rw [encodeLmd_eq (room := payloadRoom s - (finishPayload p).bytes.length) (s := withLiterals x (finishPayload p) s) (by
        show s.enc.dstEnd.toNat - _ = _
        unfold payloadRoom
        omega)]
      have hshort : (withLiterals x (finishPayload p) s).enc.dstEnd.toNat <
          s.enc.dstPos.toNat + s.hdrSize.toNat + (finishPayload p).bytes.length + 8 ↔
          payloadRoom s < (finishPayload p).bytes.length + 8 := by
        show s.enc.dstEnd.toNat < _ ↔ _
        unfold payloadRoom
        omega
      rw [if_congr hshort rfl rfl]
      split at h
      · rename_i hroom
        cases h
        rw [if_pos hroom]
        exact .full _ _
      · rename_i hroom
        rw [if_neg hroom]
        have htab : (withLiterals x (finishPayload p) s).encTab = s.encTab := rfl
        rw [htab]
        cases ht : lmdTriplets s.encTab (payloadRoom s - (finishPayload p).bytes.length) b with
        | error t =>
          rw [ht] at h
          cases h
        | ok r' =>
          obtain ⟨_ | _, y, p'⟩ := r'
          · rw [ht] at h
            cases h
            exact .full _ _
          · rw [ht] at h
            cases h
            exact .done { lit := x, lits := finishPayload p, lmd := y, lmds := finishPayload p' }

end Stages

end Sys2Proof.Proofs

namespace Sys2Proof.Proofs

open Sys2Proof Sys2Proof.Machine Sys2Proof.Laws

/-! ### The arrays as EMIT_BLOCK codes them (R259, R260) -/

/-- The state with padded literals and repeated distances replaced. -/
abbrev prepared (s : State) : State := substituteDistances (padLiterals s)

theorem substituteRepeats_length (dprev : Nat) (l : List Nat) : (substituteRepeats dprev l).length = l.length := by
  induction l generalizing dprev with
  | nil => rfl
  | cons d r ih =>
    rw [substituteRepeats]
    split
    · rw [List.length_cons, ih, List.length_cons]
    · rw [List.length_cons, ih, List.length_cons]

theorem valueAt_lt (sel : VSel) (s : State) (i : Nat) : valueAt sel s i < 2 ^ 32 := BitVec.isLt _

theorem valueList_prepared_d (s : State) : valueList .d (prepared s) = substituteRepeats 0 (valueList .d s) := by
  have hlen : (substituteRepeats 0 (valueList .d s)).length = s.enc.nMatches.toNat := by
    rw [substituteRepeats_length, valueList_length]
  refine List.ext_getElem ?_ fun i h1 h2 => ?_
  · rw [valueList_length, hlen]
    rfl
  · have hlt : (substituteRepeats 0 (valueList .d s))[i] < 2 ^ 32 := by
      rcases mem_substituteRepeats (List.getElem_mem h2) with h | h
      · rw [h]
        decide
      · obtain ⟨j, -, hj⟩ := List.mem_map.mp h
        rw [← hj]
        exact valueAt_lt .d s j
    have hi : i < ((substituteRepeats 0 (valueList .d s)).map (BitVec.ofNat 32)).length := by rwa [List.length_map]
    have hget := arrGet_setAll_inside 0 (freeValue .d) (padLiterals s).enc.dValues 0 i _ hi
    rw [List.getElem_map, Nat.zero_add] at hget
    simp only [valueList, List.getElem_map, List.getElem_range]
    exact (congrArg BitVec.toNat hget).trans (ofNat32_toNat hlt)

theorem prepared_nLits {s : State} (h : s.enc.nLits.toNat ≤ 40000) :
    (prepared s).enc.nLits.toNat = s.enc.nLits.toNat + padCount s.enc.nLits.toNat :=
  ofNat32_toNat (by unfold padCount; omega)

theorem encLitList_prepared {s : State} (h : s.enc.nLits.toNat ≤ 40000) :
    encLitList (prepared s) = encLitList s ++ List.replicate (padCount s.enc.nLits.toNat) 0 := by
  have hpad : (List.replicate (padCount s.enc.nLits.toNat) (0 : U8)).length = padCount s.enc.nLits.toNat := List.length_replicate
  rw [encLitList, prepared_nLits h, List.range_add, List.map_append, List.map_map]
  congr 1
  · refine List.map_congr_left fun i hi => congrArg BitVec.toNat ?_
    exact arrGet_setAll_outside _ _ _ _ _ _ (.inl (List.mem_range.mp hi))
  · refine List.eq_replicate_iff.mpr ⟨by rw [List.length_map, List.length_range], fun x hx => ?_⟩
    obtain ⟨j, hj, rfl⟩ := List.mem_map.mp hx
    have hj' : j < (List.replicate (padCount s.enc.nLits.toNat) (0 : U8)).length := hpad.symm ▸ List.mem_range.mp hj
    have hget := arrGet_setAll_inside 0 Config.freeByte s.enc.lits s.enc.nLits.toNat j _ hj'
    rw [List.getElem_replicate] at hget
    exact congrArg BitVec.toNat hget

/-! ### What EMIT_BLOCK reads of the block -/

/-- Two states hold the same block: the same triplets and literals. -/
structure SameBlock (s t : State) : Prop where
  nMatches : t.enc.nMatches = s.enc.nMatches
  nLits : t.enc.nLits = s.enc.nLits
  values (sel : VSel) (i : Nat) : i < s.enc.nMatches.toNat → valueAt sel t i = valueAt sel s i
  lits (i : Nat) : i < s.enc.nLits.toNat → litAt t.enc.lits i = litAt s.enc.lits i

section Same

variable {s t : State} (h : SameBlock s t)

include h

theorem SameBlock.valueList (sel : VSel) : valueList sel t = valueList sel s := by
  rw [Machine.valueList, h.nMatches]
  exact List.map_congr_left fun i hi => h.values sel i (List.mem_range.mp hi)

theorem SameBlock.encLitList : encLitList t = encLitList s := by
  rw [Machine.encLitList, h.nLits]
  exact List.map_congr_left fun i hi => congrArg BitVec.toNat (h.lits i (List.mem_range.mp hi))

theorem SameBlock.blockSymbols (hn : s.enc.nLits.toNat ≤ 40000) : blockSymbols (prepared t) = blockSymbols (prepared s) := by
  have hl : Machine.valueList .l (prepared t) = Machine.valueList .l (prepared s) := h.valueList .l
  have hm : Machine.valueList .m (prepared t) = Machine.valueList .m (prepared s) := h.valueList .m
  have hd : Machine.valueList .d (prepared t) = Machine.valueList .d (prepared s) := by
    rw [valueList_prepared_d, valueList_prepared_d, h.valueList]
  have hlits : Machine.encLitList (prepared t) = Machine.encLitList (prepared s) := by
    rw [encLitList_prepared hn, encLitList_prepared (h.nLits ▸ hn), h.encLitList, h.nLits]
  rw [Machine.blockSymbols, Machine.blockSymbols, hl, hm, hd, hlits]

end Same

/-! ### The plan of a block: its symbols and tables (R261, R262) -/

theorem buildTables_eq {s t : State} (h : buildTables s = .ok t) :
    t = { s with freq := t.freq, hdrSize := t.hdrSize, encTab := t.encTab } := by
  unfold buildTables at h
  split at h
  · cases h
  · split at h
    · cases h
    · split at h
      · cases h
      · split at h
        · cases h
        · cases h
          rfl

theorem histograms_occ_eq (b : BlockSymbols) (s t : State) : (histograms b t).occ = (histograms b s).occ := by
  rw [histograms, histograms]

/-- The tables depend on the histograms alone. -/
theorem buildTables_congr {s s' t : State} (hocc : s'.occ = s.occ) (h : buildTables s = .ok t) :
    buildTables s' = .ok { s' with freq := t.freq, hdrSize := t.hdrSize, encTab := t.encTab } := by
  have hnorm (sel : Sel) : normalized s' sel = normalized s sel := by
    rw [normalized, normalized, State.occList, State.occList, hocc]
  unfold buildTables at h ⊢
  rw [hnorm, hnorm, hnorm, hnorm]
  split at h
  · cases h
  · split at h
    · cases h
    · split at h
      · cases h
      · split at h
        · cases h
        · cases h
          rfl

/-- EMIT_BLOCK in `s` codes the symbols `b` with the tables in `u`. -/
structure Planned (s : State) (b : BlockSymbols) (u : State) : Prop where
  symbols : blockSymbols (prepared s) = .ok b
  fit : SymbolsFit b
  tables : buildTables (histograms b (prepared s)) = .ok u
  tablesFor : TablesFor b u

theorem planned_of_legal {s : State} (h : EncArraysLegal s.enc) : ∃ b u, Planned s b u := by
  obtain ⟨b, hb, hfit⟩ := blockSymbols_ok (s := prepared s) (preparedEnc_legal h)
  obtain ⟨u, hu, T⟩ := buildTables_ok hfit (prepared s)
  exact ⟨b, u, hb, hfit, hu, T⟩

section Plan

variable {s t u : State} {b : BlockSymbols} (h : Planned s b u)

include h

/-- The state in which the payloads are coded. -/
theorem Planned.state : u = { s with
    occ := u.occ, freq := u.freq, hdrSize := u.hdrSize, encTab := u.encTab, enc := preparedEnc s } := by
  have hu := buildTables_eq h.tables
  generalize hv : histograms b (prepared s) = v at hu
  have hvs : v = { s with occ := v.occ, enc := preparedEnc s } := by
    rw [← hv]
    rfl
  have hocc : u.occ = v.occ := (congrArg State.occ hu).trans rfl
  rw [hocc]
  conv_lhs => rw [hu, hvs]

theorem Planned.enc : u.enc = preparedEnc s := by
  rw [h.state]

/-- The same block is coded alike, whatever else the state holds. -/
theorem Planned.congr (hsame : SameBlock s t) (hn : s.enc.nLits.toNat ≤ 40000) :
    ∃ v, Planned t b v ∧ v.freq = u.freq ∧ v.hdrSize = u.hdrSize ∧ v.encTab = u.encTab := by
  have htables := buildTables_congr (histograms_occ_eq b (prepared s) (prepared t)) h.tables
  refine ⟨_, ⟨(hsame.blockSymbols hn).trans h.symbols, h.fit, htables, ?_⟩, rfl, rfl, rfl⟩
  exact ⟨h.tablesFor.encTab, h.tablesFor.total, h.tablesFor.used⟩

end Plan

end Sys2Proof.Proofs

namespace Sys2Proof.Proofs

open Sys2Proof Sys2Proof.Machine Sys2Proof.Laws

/-! ### The ends of EMIT_BLOCK (R258, R266) -/

/-- What the payloads of a block keep to: the coder's states are states, and every length and bit count fits its header field. -/
structure PayloadsFit (b : BlockSymbols) (y : Payloads) : Prop where
  lit : LitStatesFit y.lit
  lmd : LmdStatesFit y.lmd
  lits : ∃ p, Steady (2 * b.lits.length) p ∧ y.lits = finishPayload p
  lmds : ∃ p, Steady (8 + 8 * b.l.length) p ∧ y.lmds = finishPayload p

theorem mem_blockTriplets {b : BlockSymbols} :
    ∀ c ∈ (b.l.zip (b.m.zip b.d)).reverse, c.1 ∈ b.l ∧ c.2.1 ∈ b.m ∧ c.2.2 ∈ b.d := fun c hc => by
  obtain ⟨hl, hmd⟩ := List.of_mem_zip (List.mem_reverse.mp hc)
  exact ⟨hl, List.of_mem_zip hmd⟩

section Payloads

variable {b : BlockSymbols} {u : State} (T : TablesFor b u) (hb : SymbolsFit b)

include T

theorem literalGroups_ok (room : Nat) : ∃ c x p, literalGroups u.encTab room b = .ok (c, x, p) ∧ LitStatesFit x ∧
    Steady (2 * b.lits.length) p := by
  have h := encodeGroups_ok T room (l := b.lits.reverse) (x := { s0 := 0, s1 := 0, s2 := 0, s3 := 0 })
    (p := { bytes := [], out := OutAcc.zero }) (n := 0) (fun y hy => List.mem_reverse.mp hy)
    ⟨by decide, by decide, by decide, by decide⟩ ⟨outHeld_zero, by decide, le_rfl⟩
  rwa [List.length_reverse, Nat.zero_add] at h

include hb

theorem lmdTriplets_ok (room : Nat) : ∃ c x p, lmdTriplets u.encTab room b = .ok (c, x, p) ∧ LmdStatesFit x ∧
    Steady (8 + 8 * b.l.length) p := by
  obtain ⟨c, x, p, heq, hx, hheld, hfew, hshort⟩ := encodeTriplets_ok T hb room (x := { l := 0, m := 0, d := 0 })
    (p := { bytes := List.replicate 8 0, out := OutAcc.zero }) (n := 8) mem_blockTriplets ⟨by decide, by decide, by decide⟩
    ⟨outHeld_zero, by decide, by decide⟩
  rw [List.length_reverse, List.length_zip] at hshort
  exact ⟨c, x, p, heq, hx, hheld, hfew, by omega⟩

theorem payloads_ok (room : Nat) : ∃ o, payloads u.encTab room b = .ok o ∧ ∀ y, o = some y → PayloadsFit b y := by
  obtain ⟨c, x, p, hg, hx, hp⟩ := literalGroups_ok T room
  unfold payloads
  rw [hg]
  cases c with
  | false => exact ⟨none, rfl, nofun⟩
  | true =>
    dsimp only
    split
    · exact ⟨none, rfl, nofun⟩
    · obtain ⟨c', x', p', ht, hx', hp'⟩ := lmdTriplets_ok T hb (room - (finishPayload p).bytes.length)
      rw [ht]
      cases c' with
      | false => exact ⟨none, rfl, nofun⟩
      | true => exact ⟨_, rfl, fun y hy => Option.some.inj hy ▸ ⟨hx, hx', ⟨p, hp, rfl⟩, ⟨p', hp', rfl⟩⟩⟩

/-- WRITE_HEADER finds every field in its range. -/
theorem closeBlock_payloads {y : Payloads} (hy : PayloadsFit b y) (hlits : u.enc.nLits.toNat ≤ 40000)
    (hmatches : u.enc.nMatches.toNat ≤ 10000) (n : Nat) (p : List U8) :
    closeBlock n p (withPayloads y u) = .ok (closedBlock n p (withPayloads y u)) := by
  obtain ⟨hlit, hlmd, ⟨pl, hpl, hpl'⟩, ⟨pm, hpm, hpm'⟩⟩ := hy
  have hlen := hb.length .lit
  have htriplets := hb.triplets
  simp only [symbolsOf] at hlen
  obtain ⟨hlbits, hlbytes⟩ := hpl.finish (by omega)
  obtain ⟨hmbits, hmbytes⟩ := hpm.finish (by omega)
  rw [← hpl'] at hlbits hlbytes
  rw [← hpm'] at hmbits hmbytes
  obtain ⟨v, hv⟩ := closeBlock_writes (s := withPayloads y u) hlits hmatches
    ⟨hlbytes, hlbits, ofNat16_toNat_lt hlit.s0, ofNat16_toNat_lt hlit.s1, ofNat16_toNat_lt hlit.s2, ofNat16_toNat_lt hlit.s3⟩
    ⟨hmbytes, hmbits, ofNat16_toNat_lt (hlmd.l.trans (by decide)), ofNat16_toNat_lt (hlmd.m.trans (by decide)),
      ofNat16_toNat_lt (hlmd.d.trans (by decide))⟩ T.total n p
  rw [closeBlock_eq] at hv ⊢
  rw [(raiseOpt_ok hv).1, raiseOpt_none]

end Payloads

/-- How EMIT_BLOCK ends with the block `b` planned and the tables in `u`. -/
inductive EmitEnds (s : State) (b : BlockSymbols) (u : State) : Except Trap (Bool × State) → Prop
  | noRoom : s.enc.dstEnd.toNat < s.enc.dstPos.toNat + 752 →
      EmitEnds s b u (.ok (false, rollback s (histograms b (prepared s))))
  | full (o : OutAcc) (h : Hdr) : s.enc.dstPos.toNat + 752 ≤ s.enc.dstEnd.toNat →
      payloads u.encTab (payloadRoom u) b = .ok none → EmitEnds s b u (.ok (false, rollback s { u with out := o, hdr := h }))
  | done (y : Payloads) : s.enc.dstPos.toNat + 752 ≤ s.enc.dstEnd.toNat → PayloadsFit b y →
      payloads u.encTab (payloadRoom u) b = .ok (some y) →
      EmitEnds s b u (.ok (true, closedBlock s.enc.nLits.toNat (y.lits.bytes ++ y.lmds.bytes) (withPayloads y u)))

theorem nothingToEmit_false {s : State} (h : s.enc.nLits ≠ 0 ∨ s.enc.nMatches ≠ 0) : nothingToEmit s = false :=
  decide_eq_false fun ⟨hl, hm⟩ => h.elim (· hl) (· hm)

theorem Planned.ends {s u : State} {b : BlockSymbols} (h : Planned s b u) (ha : EncArraysLegal s.enc)
    (hne : s.enc.nLits ≠ 0 ∨ s.enc.nMatches ≠ 0) : EmitEnds s b u (emitBlock s) := by
  have hp : EncArraysLegal u.enc := by
    rw [h.state]
    exact preparedEnc_legal ha
  rw [emitBlock, nothingToEmit_false hne, if_neg (by decide), emitFilled]
  dsimp only
  rw [h.symbols]
  dsimp only
  split
  · exact .noRoom ‹_›
  · rename_i hroom
    rw [h.tables]
    obtain ⟨o, ho, hfit⟩ := payloads_ok h.tablesFor h.fit (payloadRoom u)
    have hend := emitPayload_payloads (s0 := s) ho
    dsimp only
    generalize emitPayload s b u = r at hend
    cases hend with
    | full o' hdr => exact .full o' hdr (not_lt.mp hroom) ho
    | done y =>
      rw [closeBlock_payloads h.tablesFor h.fit (hfit y rfl) hp.nLits hp.nMatches]
      exact .done y (not_lt.mp hroom) (hfit y rfl) ho

end Sys2Proof.Proofs

namespace Sys2Proof.Proofs

open Sys2Proof Sys2Proof.Machine Sys2Proof.Laws

/-! ### The roll-back (R266) -/

/-- EMIT_BLOCK, entered in `s`, has come as far as `u` without storing anything: only what it owns has changed, and the block is
prepared. -/
def Drafted (s u : State) : Prop := u = { s with
  occ := u.occ, freq := u.freq, encTab := u.encTab, hdr := u.hdr, hdrSize := u.hdrSize, out := u.out, enc := preparedEnc s }

theorem histograms_drafted (b : BlockSymbols) (s : State) : Drafted s (histograms b (prepared s)) := rfl

theorem Planned.drafted {s u : State} {b : BlockSymbols} (h : Planned s b u) (o : OutAcc) (hd : Hdr) :
    Drafted s { u with out := o, hdr := hd } := by
  have hu := h.state
  unfold Drafted
  dsimp only
  conv_lhs => rw [hu]

section Rollback

variable {s u : State} (h : Drafted s u)

include h

theorem drafted_enc : u.enc = preparedEnc s := (congrArg State.enc h).trans rfl

omit h in
theorem rollback_rest : rollback s u =
    { u with dst := (rollback s u).dst, freeTag := (rollback s u).freeTag, enc := (rollback s u).enc } := by
  rw [rollback_enc]
  exact releaseDst_eq ..

theorem rollback_lengths : (rollback s u).enc = { s.enc with
    lValues := (rollback s u).enc.lValues, mValues := (rollback s u).enc.mValues,
    dValues := (rollback s u).enc.dValues, lits := (rollback s u).enc.lits } := by
  have henc := drafted_enc h
  rw [rollback_enc]
  dsimp only [releaseEncArrays]
  rw [henc]
  rfl

theorem rollback_eq : rollback s u = { s with
    occ := u.occ, freq := u.freq, encTab := u.encTab, hdr := u.hdr, hdrSize := u.hdrSize, out := u.out,
    dst := (rollback s u).dst, freeTag := (rollback s u).freeTag,
    enc := { s.enc with
      lValues := (rollback s u).enc.lValues, mValues := (rollback s u).enc.mValues,
      dValues := (rollback s u).enc.dValues, lits := (rollback s u).enc.lits } } := by
  rw [← rollback_lengths h]
  conv_lhs => rw [rollback_rest]
  generalize rollback s u = v
  conv_lhs => rw [h]

theorem rollback_outside : sameOutside s.enc.dstPos.toNat s.enc.dstEnd.toNat s.dst (rollback s u).dst := by
  intro a ha
  rw [rollback, releaseDst_outside _ _ _ _ ha]
  show readByte u.dst a = _
  rw [h]

theorem rollback_block : SameBlock s (rollback s u) := by
  have henc := drafted_enc h
  have hlengths := rollback_lengths h
  refine ⟨by rw [hlengths], by rw [hlengths], fun sel i hi => ?_, fun i hi => ?_⟩
  · have hout : ¬(s.enc.nMatches.toNat ≤ i ∧ i < matchesPerBlock) := by omega
    rw [valueAt, valueAt, State.values.eq_def, rollback_enc]
    dsimp only [releaseEncArrays]
    rw [henc]
    cases sel with
    | l => exact congrArg BitVec.toNat (arrGet_release_outside _ _ _ _ _ _ _ hout)
    | m => exact congrArg BitVec.toNat (arrGet_release_outside _ _ _ _ _ _ _ hout)
    | d => exact congrArg BitVec.toNat (arrGet_release_outside _ _ _ _ _ _ _ hout)
  · rw [rollback_enc]
    dsimp only [releaseEncArrays]
    rw [henc]
    refine (arrGet_release_outside _ _ _ _ _ _ _ (by omega)).trans ?_
    exact arrGet_setAll_outside _ _ _ _ _ _ (.inl hi)

end Rollback

end Sys2Proof.Proofs

namespace Sys2Proof.Proofs

open Sys2Proof Sys2Proof.Machine Sys2Proof.Laws

/-! ### A block that fits (R258, R265) -/

section Closed

variable {n : Nat} {p : List U8} {s : State}

/-- What EMIT_BLOCK leaves with the block: HDR, DST, ENC.dst_pos and the empty arrays. -/
theorem closedBlock_eq : closedBlock n p s = { s with
    hdr := finalHeader s, dst := (closedBlock n p s).dst, freeTag := (closedBlock n p s).freeTag,
    enc := { s.enc with
      dstPos := nat64 (s.enc.dstPos.toNat + (blockBytes p s).length), nMatches := 0, nLits := 0,
      lits := (closedBlock n p s).enc.lits } } := by
  obtain ⟨d, tag, h⟩ : ∃ d tag, releaseDst (s.enc.dstPos.toNat + (blockBytes p s).length) s.enc.dstEnd.toNat (storedBlock p s) =
      { storedBlock p s with dst := d, freeTag := tag } := ⟨_, _, releaseDst_eq ..⟩
  rw [closedBlock, h]
  rfl

theorem closedBlock_dst : (closedBlock n p s).dst =
    (releaseDst (s.enc.dstPos.toNat + (blockBytes p s).length) s.enc.dstEnd.toNat (storedBlock p s)).dst := rfl

theorem storedBlock_dst : (storedBlock p s).dst = writeBytes s.dst s.enc.dstPos.toNat (blockBytes p s) := rfl

/-- The block stands at the old ENC.dst_pos. -/
theorem closedBlock_bytes : bytesAt (closedBlock n p s).dst s.enc.dstPos.toNat (blockBytes p s) := by
  intro i hi
  rw [closedBlock_dst, releaseDst_outside _ _ _ _ (by omega), storedBlock_dst, readByte_writeBytes_inside _ _ _ _ hi]

theorem closedBlock_outside (h : s.enc.dstPos.toNat + (blockBytes p s).length ≤ s.enc.dstEnd.toNat) :
    sameOutside s.enc.dstPos.toNat s.enc.dstEnd.toNat s.dst (closedBlock n p s).dst := by
  intro a ha
  rw [closedBlock_dst, releaseDst_outside _ _ _ _ (by omega), storedBlock_dst, readByte_writeBytes_outside _ _ _ _ (by omega)]

end Closed

/-- The header of a block with these payloads, raw length and counts (R265). -/
def blockHeader (y : Payloads) (raw : Nat) (nLits nMatches : U32) : Hdr where
  magic := BitVec.ofNat 32 magicV2
  nRawBytes := BitVec.ofNat 32 raw
  nPayloadBytes := BitVec.ofNat 32 ((BitVec.ofNat 32 y.lits.bytes.length).toNat + (BitVec.ofNat 32 y.lmds.bytes.length).toNat)
  nLiterals := nLits
  nMatches := nMatches
  nLiteralPayloadBytes := BitVec.ofNat 32 y.lits.bytes.length
  nLmdPayloadBytes := BitVec.ofNat 32 y.lmds.bytes.length
  literalBits := BitVec.ofInt 32 y.lits.out.nbits
  literalState0 := BitVec.ofNat 16 y.lit.s0
  literalState1 := BitVec.ofNat 16 y.lit.s1
  literalState2 := BitVec.ofNat 16 y.lit.s2
  literalState3 := BitVec.ofNat 16 y.lit.s3
  lmdBits := BitVec.ofInt 32 y.lmds.out.nbits
  lState := BitVec.ofNat 16 y.lmd.l
  mState := BitVec.ofNat 16 y.lmd.m
  dState := BitVec.ofNat 16 y.lmd.d

theorem finalHeader_payloads {s u : State} (h : u.enc = preparedEnc s) (y : Payloads) : finalHeader (withPayloads y u) =
    blockHeader y ((valueList .l s).sum + (valueList .m s).sum) (preparedEnc s).nLits s.enc.nMatches := by
  have hl : valueList .l (withPayloads y u) = valueList .l s := by
    show (List.range u.enc.nMatches.toNat).map (fun i => (arrGet 0 (freeValue .l) u.enc.lValues i).toNat) = _
    rw [h]
    rfl
  have hm : valueList .m (withPayloads y u) = valueList .m s := by
    show (List.range u.enc.nMatches.toNat).map (fun i => (arrGet 0 (freeValue .m) u.enc.mValues i).toNat) = _
    rw [h]
    rfl
  have henc : (withPayloads y u).enc = preparedEnc s := h
  rw [finalHeader, hl, hm, henc]
  rfl

theorem allFreqs_congr {s t : State} (h : t.freq = s.freq) : t.allFreqs = s.allFreqs := by
  simp only [State.allFreqs, State.freqList, h]

/-! ### Emission depends on the block and the room alone (R266) -/

section Alike

variable {s t u v : State} {b : BlockSymbols}

/-- The same block, planned twice with the same tables, the destination being the same. -/
structure Alike (s t u v : State) (b : BlockSymbols) : Prop where
  first : Planned s b u
  second : Planned t b v
  block : SameBlock s t
  freq : v.freq = u.freq
  hdrSize : v.hdrSize = u.hdrSize
  encTab : v.encTab = u.encTab
  dstPos : t.enc.dstPos = s.enc.dstPos
  dstEnd : t.enc.dstEnd = s.enc.dstEnd

variable (h : Alike s t u v b)

include h

theorem Alike.payloads : payloads v.encTab (payloadRoom v) b = payloads u.encTab (payloadRoom u) b := by
  have hroom : payloadRoom v = payloadRoom u := by
    rw [payloadRoom, payloadRoom, h.hdrSize, h.first.enc, h.second.enc]
    show t.enc.dstEnd.toNat - (t.enc.dstPos.toNat + _) = s.enc.dstEnd.toNat - (s.enc.dstPos.toNat + _)
    rw [h.dstPos, h.dstEnd]
  rw [h.encTab, hroom]

theorem Alike.header (y : Payloads) : finalHeader (withPayloads y v) = finalHeader (withPayloads y u) := by
  rw [finalHeader_payloads h.first.enc, finalHeader_payloads h.second.enc, h.block.valueList, h.block.valueList,
    h.block.nMatches]
  show blockHeader y _ (BitVec.ofNat 32 (t.enc.nLits.toNat + padCount t.enc.nLits.toNat)) _ = _
  rw [h.block.nLits]
  rfl

theorem Alike.bytes (y : Payloads) (p : List U8) : blockBytes p (withPayloads y v) = blockBytes p (withPayloads y u) := by
  rw [blockBytes, blockBytes, h.header, allFreqs_congr (s := withPayloads y u) (t := withPayloads y v) h.freq]

end Alike

end Sys2Proof.Proofs

namespace Sys2Proof.Proofs

open Sys2Proof Sys2Proof.Machine Sys2Proof.Laws

section Ends

variable {s u : State} {b : BlockSymbols} {r : Except Trap (Bool × State)} (h : EmitEnds s b u r)

include h

theorem EmitEnds.full_of (hshort : s.enc.dstEnd.toNat < s.enc.dstPos.toNat + 752 ∨
    payloads u.encTab (payloadRoom u) b = .ok none) : ∃ x, r = .ok (false, x) := by
  cases h with
  | noRoom => exact ⟨_, rfl⟩
  | full => exact ⟨_, rfl⟩
  | done y hroom _ hy =>
    rcases hshort with hlt | hnone
    · exact absurd hlt (not_lt.mpr hroom)
    · rw [hy] at hnone
      cases hnone

theorem EmitEnds.done_of {y : Payloads} (hroom : s.enc.dstPos.toNat + 752 ≤ s.enc.dstEnd.toNat)
    (hy : payloads u.encTab (payloadRoom u) b = .ok (some y)) :
    r = .ok (true, closedBlock s.enc.nLits.toNat (y.lits.bytes ++ y.lmds.bytes) (withPayloads y u)) := by
  cases h with
  | noRoom hlt => exact absurd hlt (not_lt.mpr hroom)
  | full _ _ _ hnone =>
    rw [hy] at hnone
    cases hnone
  | done y' _ _ hy' =>
    rw [hy] at hy'
    cases hy'
    rfl

end Ends

/-- EMIT_BLOCK that ends OK with a block. -/
theorem exec_emitBlock_closed {s c : State} (hr : ready s) (hp : s.enc.poisoned = false)
    (hne : s.enc.nLits ≠ 0 ∨ s.enc.nMatches ≠ 0) (h : emitBlock s = .ok (true, c)) : exec .emitBlock s = .next
      { writeBackEnc (c.withRes (nat64 (c.enc.dstPos.toNat - s.enc.dstPos.toNat)) (nat64 c.hdrSize.toNat)) with status := .ok } := by
  rw [exec_emitBlock_done hr hp h, endEmit, nothingToEmit_false hne]
  rfl

theorem closedBlock_dstPos (n : Nat) (p : List U8) (s : State) :
    (closedBlock n p s).enc.dstPos = nat64 (s.enc.dstPos.toNat + (blockBytes p s).length) := by
  rw [closedBlock_eq]

theorem closedBlock_hdr (n : Nat) (p : List U8) (s : State) : (closedBlock n p s).hdr = finalHeader s := by
  rw [closedBlock_eq]

theorem closedBlock_hdrSize (n : Nat) (p : List U8) (s : State) : (closedBlock n p s).hdrSize = s.hdrSize := by
  rw [closedBlock_eq]

/-- Two commands that emit at index `p` end with the same status and, where that is OK, with the same results and bytes. -/
def EndAlike (p : Nat) (x y : State) : Prop :=
  y.status = x.status ∧ (x.status = .ok → y.res0 = x.res0 ∧ y.res1 = x.res1 ∧ y.enc.dstPos = x.enc.dstPos ∧ y.hdr = x.hdr ∧
    ∀ a, p ≤ a → a < x.enc.dstPos.toNat → readByte y.dst a = readByte x.dst a)

/-- Two states after blocks with the same bytes, header and header size, at the same place. -/
theorem endAlike_closed {n n' : Nat} {p : List U8} {s t : State} (hpos : t.enc.dstPos = s.enc.dstPos)
    (hhdr : finalHeader t = finalHeader s) (hsize : t.hdrSize = s.hdrSize) (hbytes : blockBytes p t = blockBytes p s) {a : U64}
    {x y : State} (hx : x = closedBlock n p s) (hy : y = closedBlock n' p t) : EndAlike s.enc.dstPos.toNat
      { writeBackEnc (x.withRes (nat64 (x.enc.dstPos.toNat - a.toNat)) (nat64 x.hdrSize.toNat)) with status := .ok }
      { writeBackEnc (y.withRes (nat64 (y.enc.dstPos.toNat - a.toNat)) (nat64 y.hdrSize.toNat)) with status := .ok } := by
  have hpos' : y.enc.dstPos = x.enc.dstPos := by rw [hx, hy, closedBlock_dstPos, closedBlock_dstPos, hpos, hbytes]
  have hsize' : y.hdrSize = x.hdrSize := by rw [hx, hy, closedBlock_hdrSize, closedBlock_hdrSize, hsize]
  have hhdr' : y.hdr = x.hdr := by rw [hx, hy, closedBlock_hdr, closedBlock_hdr, hhdr]
  refine ⟨rfl, fun _ => ⟨?_, ?_, hpos', hhdr', fun i hlo hhi => ?_⟩⟩
  · show nat64 (y.enc.dstPos.toNat - a.toNat) = nat64 (x.enc.dstPos.toNat - a.toNat)
    rw [hpos']
  · show nat64 y.hdrSize.toNat = nat64 x.hdrSize.toNat
    rw [hsize']
  · have hle : x.enc.dstPos.toNat ≤ s.enc.dstPos.toNat + (blockBytes p s).length := by
      rw [hx, closedBlock_dstPos]
      exact Nat.mod_le _ _
    have hi : i - s.enc.dstPos.toNat < (blockBytes p s).length := by
      have hhi' : i < x.enc.dstPos.toNat := hhi
      omega
    have hread := closedBlock_bytes (n := n') (p := p) (s := t) (i - s.enc.dstPos.toNat) (hbytes ▸ hi)
    have hread' := closedBlock_bytes (n := n) (p := p) (s := s) (i - s.enc.dstPos.toNat) hi
    rw [hpos, Nat.add_sub_cancel' hlo, ← hy] at hread
    rw [Nat.add_sub_cancel' hlo, ← hx] at hread'
    show readByte y.dst i = readByte x.dst i
    rw [hread, hread']
    simp only [hbytes]

/-- Two emissions of the same block with the same destination end alike. -/
theorem exec_emitBlock_alike {s t u v : State} {b : BlockSymbols} (h : Alike s t u v b) (hs : EncArraysLegal s.enc)
    (ht : EncArraysLegal t.enc) (hrs : ready s) (hrt : ready t) (hps : s.enc.poisoned = false) (hpt : t.enc.poisoned = false)
    (hne : s.enc.nLits ≠ 0 ∨ s.enc.nMatches ≠ 0) :
    ∃ x y, exec .emitBlock s = .next x ∧ exec .emitBlock t = .next y ∧ EndAlike s.enc.dstPos.toNat x y := by
  have hne' : t.enc.nLits ≠ 0 ∨ t.enc.nMatches ≠ 0 := by rwa [h.block.nLits, h.block.nMatches]
  have hends := h.first.ends hs hne
  have hends' := h.second.ends ht hne'
  have failed {x : State} (hx : emitBlock s = .ok (false, x)) (hshort : t.enc.dstEnd.toNat < t.enc.dstPos.toNat + 752 ∨
      Proofs.payloads v.encTab (payloadRoom v) b = .ok none) :
      ∃ x y, exec .emitBlock s = .next x ∧ exec .emitBlock t = .next y ∧ EndAlike s.enc.dstPos.toNat x y := by
    obtain ⟨y, hy⟩ := hends'.full_of hshort
    exact ⟨_, _, exec_emitBlock_full hrs hps hx, exec_emitBlock_full hrt hpt hy, rfl, nofun⟩
  generalize hrun : emitBlock s = r at hends
  cases hends with
  | noRoom hlt => exact failed hrun (.inl (by rwa [h.dstEnd, h.dstPos]))
  | full o hd _ hnone => exact failed hrun (.inr (h.payloads.trans hnone))
  | done y hroom _ hy =>
    have hrun' := hends'.done_of (by rwa [h.dstEnd, h.dstPos]) (h.payloads.trans hy)
    have hposu : (withPayloads y u).enc.dstPos = s.enc.dstPos := by
      show u.enc.dstPos = s.enc.dstPos
      rw [h.first.enc]
      rfl
    have hposv : (withPayloads y v).enc.dstPos = t.enc.dstPos := by
      show v.enc.dstPos = t.enc.dstPos
      rw [h.second.enc]
      rfl
    refine ⟨_, _, exec_emitBlock_closed hrs hps hne hrun, exec_emitBlock_closed hrt hpt hne' hrun', ?_⟩
    have halike := endAlike_closed (n := s.enc.nLits.toNat) (n' := t.enc.nLits.toNat) (a := s.enc.dstPos)
      (by rw [hposu, hposv, h.dstPos]) (h.header y) h.hdrSize (h.bytes y (y.lits.bytes ++ y.lmds.bytes)) rfl rfl
    rw [hposu] at halike
    rwa [h.dstPos]

end Sys2Proof.Proofs

namespace Sys2Proof.Proofs

open Sys2Proof Sys2Proof.Machine Sys2Proof.Laws

/-! ### DST_FULL (R258, R266) -/

/-- The state with another end of the destination. -/
def withDstEnd (e : U64) (s : State) : State := { s with enc := { s.enc with dstEnd := e } }

theorem encArrays_withDstEnd {s : State} (h : EncArraysLegal s.enc) (e : U64) : EncArraysLegal (withDstEnd e s).enc :=
  ⟨h.nMatches, h.nLits, h.lValues, h.mValues, h.dValues⟩

/-- What DST_FULL leaves, in the state that EMIT_BLOCK answers. -/
structure RolledBack (s t : State) : Prop where
  state : t = { s with
    occ := t.occ, freq := t.freq, encTab := t.encTab, hdr := t.hdr, hdrSize := t.hdrSize, out := t.out,
    dst := t.dst, freeTag := t.freeTag,
    enc := { s.enc with lValues := t.enc.lValues, mValues := t.enc.mValues, dValues := t.enc.dValues, lits := t.enc.lits },
    cur := encCursors s.enc, status := .dstFull }
  block : SameBlock s t
  outside : sameOutside s.enc.dstPos.toNat s.enc.dstEnd.toNat s.dst t.dst

theorem rolledBack_of_drafted {s u : State} (h : Drafted s u) :
    RolledBack s { writeBackEnc (rollback s u) with status := .dstFull } := by
  have hblock := rollback_block h
  refine ⟨?_, ⟨hblock.nMatches, hblock.nLits, hblock.values, hblock.lits⟩, rollback_outside h⟩
  obtain ⟨d, tag, lv, mv, dv, li, heq⟩ : ∃ d tag lv mv dv li, rollback s u = { s with
      occ := u.occ, freq := u.freq, encTab := u.encTab, hdr := u.hdr, hdrSize := u.hdrSize, out := u.out,
      dst := d, freeTag := tag, enc := { s.enc with lValues := lv, mValues := mv, dValues := dv, lits := li } } :=
    ⟨_, _, _, _, _, _, rollback_eq h⟩
  rw [heq]
  rfl

theorem RolledBack.same {s t : State} (h : RolledBack s t) (e : U64) : SameBlock (withDstEnd e s) (withDstEnd e t) :=
  ⟨h.block.nMatches, h.block.nLits, h.block.values, h.block.lits⟩

/-- A later EMIT_BLOCK with another end ends as it would have without the failed attempt. -/
theorem RolledBack.again {s t : State} (h : RolledBack s t) (hr : ready s) (hp : s.enc.poisoned = false)
    (hs : EncArraysLegal s.enc) (ht : EncArraysLegal t.enc) (hne : s.enc.nLits ≠ 0 ∨ s.enc.nMatches ≠ 0) (e : U64) :
    ∃ v w, exec .emitBlock (withDstEnd e s) = .next v ∧ exec .emitBlock (withDstEnd e t) = .next w ∧
      EndAlike s.enc.dstPos.toNat v w := by
  have hs' := encArrays_withDstEnd hs e
  obtain ⟨b, u, hu⟩ := planned_of_legal hs'
  obtain ⟨v, hv, hfreq, hsize, htab⟩ := hu.congr (h.same e) hs.nLits
  have hpos : (withDstEnd e t).enc.dstPos = (withDstEnd e s).enc.dstPos := by
    show t.enc.dstPos = s.enc.dstPos
    rw [h.state]
  have hfault : t.fault = s.fault := by rw [h.state]
  have hpoison : t.enc.poisoned = s.enc.poisoned := by rw [h.state]
  exact exec_emitBlock_alike ⟨hu, hv, h.same e, hfreq, hsize, htab, hpos, rfl⟩ hs' (encArrays_withDstEnd ht e) hr
    (hfault.trans hr) hp (hpoison.trans hp) hne

theorem exec_emitBlock_empty {s : State} (hr : ready s) (hp : s.enc.poisoned = false) (hl : s.enc.nLits = 0)
    (hm : s.enc.nMatches = 0) :
    exec .emitBlock s = .next { s with cur := encCursors s.enc, res0 := 0, res1 := 0, status := .ok } := by
  have hnothing : nothingToEmit s = true := decide_eq_true ⟨hl, hm⟩
  rw [exec_emitBlock_done hr hp (if_pos hnothing), endEmit, if_pos hnothing]
  rfl

/-- How EMIT_BLOCK ends with something to emit: OK, or DST_FULL and rolled back, always so below 752 bytes of room, where no table
is built. -/
inductive EmitOutcome (s t : State) : Prop
  | ok : s.enc.dstPos.toNat + 752 ≤ s.enc.dstEnd.toNat → t.status = .ok → EmitOutcome s t
  | full : (s.enc.dstEnd.toNat < s.enc.dstPos.toNat + 752 →
        t.freq = s.freq ∧ t.encTab = s.encTab ∧ t.hdr = s.hdr ∧ t.hdrSize = s.hdrSize ∧ t.out = s.out) →
      t.status = .dstFull → RolledBack s t → EncArraysLegal t.enc → EmitOutcome s t

theorem exec_emitBlock_outcome {s : State} (hr : ready s) (hp : s.enc.poisoned = false) (hs : EncArraysLegal s.enc)
    (hne : s.enc.nLits ≠ 0 ∨ s.enc.nMatches ≠ 0) : ∃ t, exec .emitBlock s = .next t ∧ EmitOutcome s t := by
  obtain ⟨b, u, hu⟩ := planned_of_legal hs
  have hends := hu.ends hs hne
  generalize hrun : emitBlock s = r at hends
  cases hends with
  | noRoom hlt =>
    refine ⟨_, exec_emitBlock_full hr hp hrun, .full (fun _ => ?_) rfl (rolledBack_of_drafted (histograms_drafted b s))
      ((emitBlock_keeps hrun).encArrays hs)⟩
    have heq := rollback_eq (histograms_drafted b s)
    generalize rollback s (histograms b (prepared s)) = v at heq
    rw [heq]
    exact ⟨rfl, rfl, rfl, rfl, rfl⟩
  | full o hd hroom _ =>
    exact ⟨_, exec_emitBlock_full hr hp hrun, .full (fun hlt => absurd hlt (not_lt.mpr hroom)) rfl
      (rolledBack_of_drafted (hu.drafted o hd)) ((emitBlock_keeps hrun).encArrays hs)⟩
  | done y hroom _ _ => exact ⟨_, exec_emitBlock_closed hr hp hne hrun, .ok hroom rfl⟩

/-- Settles O53: nothing is emitted of an empty block; else the block, planned in legal arrays, fits or is rolled back, and the plan
and the room alone say what is written. -/
theorem emitBlockOtherwise : Obligations.EmitBlockOtherwise := by
  refine fun s hr hp => ⟨exec_emitBlock_empty hr hp, fun hne ha => ?_⟩
  obtain ⟨hs, -⟩ := arraysLegal_iff.mp ha
  obtain ⟨t, hrun, hend⟩ := exec_emitBlock_outcome hr hp hs hne
  refine ⟨t, hrun, ?_⟩
  cases hend with
  | ok hroom hok =>
    refine ⟨.inl hok, fun hlt => absurd hlt (not_lt.mpr hroom), fun hfull => ?_⟩
    rw [hok] at hfull
    cases hfull
  | full hshort hfull hback ht =>
    exact ⟨.inr hfull, fun hlt => ⟨hfull, hshort hlt⟩, fun _ => ⟨hback.state, fun i hi sel => hback.block.values sel i hi,
      hback.block.lits, hback.outside, hback.again hr hp hs ht hne⟩⟩

end Sys2Proof.Proofs

namespace Sys2Proof.Proofs

open Sys2Proof Sys2Proof.Machine Sys2Proof.Laws

/-! ### Several fields between two flushes (R132, R137, R141, R143) -/

/-- `o'` is OUT after the fields `g` were pushed onto `o`, the first of the list last. -/
structure Stacks (g : List (Nat × Nat)) (o o' : OutAcc) : Prop where
  nbits : o'.nbits = o.nbits + fieldsWidth g
  accum : o'.accum.toNat = o.accum.toNat + fieldsValue g * 2 ^ o.nbits.toNat

theorem Stacks.append {g g' : List (Nat × Nat)} {o o1 o2 : OutAcc} (h : Stacks g o o1) (h' : Stacks g' o1 o2)
    (h0 : 0 ≤ o.nbits) : Stacks (g' ++ g) o o2 := by
  obtain ⟨hn, ha⟩ := h
  obtain ⟨hn', ha'⟩ := h'
  refine ⟨?_, ?_⟩
  · rw [hn', hn, fieldsWidth_append]
    omega
  · rw [ha', ha, show o1.nbits.toNat = o.nbits.toNat + fieldsWidth g by omega, fieldsValue_append, pow_add]
    ring

/-- A flush after the pushes puts the fields on the stack. -/
theorem PayloadHolds.pushed {g g' : List (Nat × Nat)} {p : Payload} {o : OutAcc} (h : PayloadHolds g p)
    (hp : Stacks g' p.out o) (ho : outHeld o) : PayloadHolds (g' ++ g) (flushPayload { p with out := o }) := by
  obtain ⟨hflushed, hfew⟩ := outFlushed_held ho
  refine ⟨hflushed, hfew, ?_, ?_⟩
  · have hlen : (outFlushBytes o).length = o.nbits.toNat / 8 := leBytes_length _ _
    have hw := h.width
    have h0 := h.held.1
    have hn := hp.nbits
    simp only [flushPayload, List.length_append, hlen, outFlushed, outWholeBytes, fieldsWidth_append]
    omega
  · rw [payloadValue_flush, fieldsValue_append, ← h.width, ← h.value]
    simp only [payloadValue, hp.accum]
    ring

theorem inFlush_lo {m : Memory} {x y : InAcc} (h : inFlush m x = some y) : y.lo = x.lo := by
  unfold inFlush at h
  dsimp only at h
  split at h
  · cases h
  · cases h
    rfl

theorem inLoad_lo {m : Memory} {x y : InAcc} {stop lo c n : Nat} (h : inLoad m x stop lo c n = (true, y)) : y.lo = nat64 lo := by
  unfold inLoad at h
  split at h
  · cases h
  · dsimp only at h
    split at h
    · cases h
      rfl
    · cases h

theorem inInit_lo {m : Memory} {x y : InAcc} {n : Int} {stop lo : Nat} (h : inInit m x n stop lo = (true, y)) :
    y.lo = nat64 lo := by
  unfold inInit at h
  split at h
  · cases h
  · split at h
    · exact inLoad_lo h
    · exact inLoad_lo h

/-- A pull takes the top field off the stack and its width off the bits loaded. -/
theorem StreamHolds.pulled {m : Memory} {g : List (Nat × Nat)} {f : Nat × Nat} {x : InAcc} (h : StreamHolds m (f :: g) x)
    (hg : FieldsFit g) (hn : f.1 ≤ x.nbits) :
    ∃ y, inPull x f.1 = .ok (f.2, y) ∧ StreamHolds m g y ∧ y.nbits = x.nbits - f.1 ∧ y.lo = x.lo := by
  obtain ⟨y, hpull, hy⟩ := h.pull hg hn
  have hrest := (inPull_ok h.valid hn).symm.trans hpull
  injection hrest with hrest
  obtain ⟨-, rfl⟩ := Prod.mk.inj hrest
  exact ⟨_, hpull, hy, rfl, rfl⟩

theorem fieldsFit_cons {f : Nat × Nat} {g : List (Nat × Nat)} (hf : f.2 < 2 ^ f.1) (hg : FieldsFit g) : FieldsFit (f :: g) :=
  List.forall_mem_cons.mpr ⟨hf, hg⟩

theorem fieldsFit_append {g r : List (Nat × Nat)} (hg : FieldsFit g) (hr : FieldsFit r) : FieldsFit (g ++ r) :=
  List.forall_mem_append.mpr ⟨hg, hr⟩

/-! ### One symbol, coded and decoded (R170, R172, R174, R176) -/

/-- The literal decoder's table, as BUILD_DEC makes it of FREQ. -/
def litTable (s : State) : Sparse DecEntry := tableOf (stacked (decSymbolEntries 1024) 0 (s.freqList .lit))

/-- A value decoder's table, as BUILD_VDEC makes it of FREQ. -/
def valueTable (s : State) (sel : VSel) : Sparse VEntry :=
  tableOf (stacked (valueEntries sel) 0 (s.freqList (streamOf sel)))

/-- A step of the coder that ends in state `y < n`, having pushed the field `f` of at most `width` bits. -/
structure Coded (n width : Nat) (f : Nat × Nat) (o o' : OutAcc) (y : Nat) : Prop where
  state : y < n
  pushed : Stacks [f] o o'
  held : outHeld o'
  width : f.1 ≤ width
  fits : f.2 < 2 ^ f.1

/-- Pulling the field `f` in state `y`, the literal decoder finds `x` and goes to `st`. -/
def DecodesLiteral (s : State) (f : Nat × Nat) (y st x : Nat) : Prop :=
  ∀ z z', inPull z f.1 = .ok (f.2, z') → fseDecode (litTable s) z y = .ok ((st : Int), x, z')

/-- Pulling the field `f` in state `y`, a value decoder finds `v` and goes to `st`. -/
def DecodesValue (s : State) (sel : VSel) (f : Nat × Nat) (y st v : Nat) : Prop :=
  ∀ z z', inPull z f.1 = .ok (f.2, z') → fseVdecode (valueTable s sel) z y = .ok ((st : Int), (v : Int), z')

/-- The value that a symbol with its extra bits stands for (R104). -/
def symbolValue (sel : VSel) (x : Nat × Nat) : Nat := (vbase sel).getD x.1 0 + x.2

section Coding

variable {b : BlockSymbols} {u : State} (T : TablesFor b u)

include T

/-- A symbol of the block encodes to one of its states, with at most as many bits as number the states. -/
theorem TablesFor.encodes {sel : Sel} {o : OutAcc} {st x : Nat} (hx : x ∈ symbolsOf b sel) (hst : st < nstates sel)
    (ho : outHeld o) (hroom : o.nbits + Nat.log2 (nstates sel) ≤ 64) :
    ∃ o' j nb d, EncodesSymbol u sel x st o o' j nb d ∧ nb ≤ Nat.log2 (nstates sel) ∧ freqBefore u sel x + j < nstates sel ∧
      outHeld o' ∧ encodeSymbol (u.encTab.get sel) o st x = .ok (o', freqBefore u sel x + j) := by
  obtain ⟨hlt, hf⟩ := T.used sel x hx
  have htotal : freqTotal u sel ≤ nstates sel := by rw [freqTotal_eq, T.total sel]
  have hle := (freqBefore_add_le (s := u) hlt).trans htotal
  obtain ⟨o', j, nb, d, h⟩ := encodesSymbol htotal hlt hf hst ho hroom
  have hj := h.lt
  have hsym : encodeSymbol (u.encTab.get sel) o st x = .ok (o', freqBefore u sel x + j) := by
    rw [T.encTab, encodeSymbol, h.encode]
    rfl
  refine ⟨o', j, nb, d, h, ?_, by omega, encodeSymbol_held hsym ho.sound, hsym⟩
  rw [fseEncode_bits ((encTable_find hlt _).trans (if_neg hf)) h.encode]
  exact encodeBits_le (stateCount_nstates sel) hf hle st

theorem TablesFor.literal {o : OutAcc} {st x : Nat} (hx : x ∈ b.lits) (hst : st < 1024) (ho : outHeld o)
    (hroom : o.nbits + 10 ≤ 64) : ∃ o' y f, encodeSymbol u.encTab.lit o st x = .ok (o', y) ∧ Coded 1024 10 f o o' y ∧
      DecodesLiteral u f y st x := by
  obtain ⟨o', j, nb, d, h, hnb, hy, ho', hsym⟩ := T.encodes (sel := .lit) hx hst ho hroom
  refine ⟨o', _, (nb, st % 2 ^ nb), hsym, ⟨hy, ⟨h.nbits, ?_⟩, ho', h.width, Nat.mod_lt _ (by positivity)⟩,
    fun z z' hpull => ?_⟩
  · rw [h.accum, fieldsValue, fieldsValue, fieldsWidth]
    ring
  · rw [litTable, fseDecode_table (T.used .lit x hx).1 h.lt h.form h.width h.delta_lt hpull, h.old]

theorem TablesFor.value {sel : VSel} {o : OutAcc} {st : Nat} {x : Nat × Nat} (hx : x.1 ∈ symbolsOf b (streamOf sel))
    (hfit : symbolFits sel x) (hst : st < nstates (streamOf sel)) (ho : outHeld o) (hroom : o.nbits + valueWidth sel ≤ 64) :
    ∃ o' y f, encodeValue sel (u.encTab.get (streamOf sel)) o st x = .ok (o', y) ∧
      Coded (nstates (streamOf sel)) (valueWidth sel) f o o' y ∧ DecodesValue u sel f y st (symbolValue sel x) := by
  obtain ⟨hlt, hextra⟩ := hfit
  have hwidth := vbits_valueWidth sel x.1 hlt
  obtain ⟨o1, hpush, ho1, hn1, ha1⟩ := outPush_adds hextra ho (by omega)
  obtain ⟨o', j, nb, d, h, hnb, hy, ho', hsym⟩ := T.encodes hx hst ho1 (by omega)
  have h0 := ho.1
  have hlow : st % 2 ^ nb < 2 ^ nb := Nat.mod_lt _ (by positivity)
  refine ⟨o', _, (nb + (vbits sel).getD x.1 0, st % 2 ^ nb * 2 ^ (vbits sel).getD x.1 0 + x.2),
    by rw [encodeValue, hpush]; exact hsym, ⟨hy, ⟨?_, ?_⟩, ho', by dsimp only; omega, ?_⟩, fun z z' hpull => ?_⟩
  · rw [h.nbits, hn1, fieldsWidth, fieldsWidth]
    push_cast
    ring
  · rw [h.accum, ha1, show o1.nbits.toNat = o.nbits.toNat + (vbits sel).getD x.1 0 by omega, fieldsValue, fieldsValue,
      fieldsWidth, pow_add]
    ring
  · calc st % 2 ^ nb * 2 ^ (vbits sel).getD x.1 0 + x.2 < (st % 2 ^ nb + 1) * 2 ^ (vbits sel).getD x.1 0 := by linarith
      _ ≤ 2 ^ nb * 2 ^ (vbits sel).getD x.1 0 := Nat.mul_le_mul_right _ hlow
      _ = 2 ^ (nb + (vbits sel).getD x.1 0) := (pow_add ..).symm
  · rw [valueTable, fseVdecode_table hlt h.lt h.form h.width h.delta_lt hextra hpull, h.old, symbolValue]

end Coding

end Sys2Proof.Proofs

namespace Sys2Proof.Proofs

open Sys2Proof Sys2Proof.Machine Sys2Proof.Laws

/-! ### The literal payload decodes to the literals (R207, R263) -/

/-- The stream `g`, read from the states `x` on, decodes to the literals `l` with the tables made of FREQ in `u`, wherever 64 bits
stand below it. -/
structure LiteralsCoded (u : State) (g : List (Nat × Nat)) (x : LitStates) (l : List Nat) : Prop where
  fits : FieldsFit g
  run (m : Memory) (r : List (Nat × Nat)) (z : InAcc) : FieldsFit r → 64 ≤ fieldsWidth r → StreamHolds m (g ++ r) z →
    ∃ z', Machine.literalRun (litTable u) m (l.length / 4) x z = some (l, z')

theorem literalsCoded_nil (u : State) (x : LitStates) : LiteralsCoded u [] x [] :=
  ⟨nofun, fun _ _ z _ _ _ => ⟨z, rfl⟩⟩

section Group

variable {u : State} {g : List (Nat × Nat)} {x y : LitStates} {l : List Nat} {f0 f1 f2 f3 : Nat × Nat} {b0 b1 b2 b3 : Nat}

/-- A group of four on top of the stream. -/
theorem LiteralsCoded.group (h : LiteralsCoded u g x l) (hfit : FieldsFit [f0, f1, f2, f3])
    (hwidth : ∀ f ∈ [f0, f1, f2, f3], f.1 ≤ 10) (d0 : DecodesLiteral u f0 y.s0 x.s0 b0) (d1 : DecodesLiteral u f1 y.s1 x.s1 b1)
    (d2 : DecodesLiteral u f2 y.s2 x.s2 b2) (d3 : DecodesLiteral u f3 y.s3 x.s3 b3) :
    LiteralsCoded u ([f0, f1, f2, f3] ++ g) y (b0 :: b1 :: b2 :: b3 :: l) := by
  refine ⟨fieldsFit_append hfit h.fits, fun m r z hr h64 hz => ?_⟩
  obtain ⟨w0, w1, w2, w3⟩ : f0.1 ≤ 10 ∧ f1.1 ≤ 10 ∧ f2.1 ≤ 10 ∧ f3.1 ≤ 10 := by simpa using hwidth
  obtain ⟨-, hfit1⟩ := List.forall_mem_cons.mp hfit
  obtain ⟨-, hfit2⟩ := List.forall_mem_cons.mp hfit1
  obtain ⟨-, hfit3⟩ := List.forall_mem_cons.mp hfit2
  have below {k : List (Nat × Nat)} (hk : FieldsFit k) : FieldsFit (k ++ (g ++ r)) :=
    fieldsFit_append hk (fieldsFit_append h.fits hr)
  obtain ⟨z0, hflush, hz0, hn0⟩ := hz.flush (by rw [fieldsWidth_append]; omega)
  obtain ⟨z1, p0, hz1, n1, -⟩ := StreamHolds.pulled (g := [f1, f2, f3] ++ (g ++ r)) (by simpa using hz0) (below hfit1) (by omega)
  obtain ⟨z2, p1, hz2, n2, -⟩ := StreamHolds.pulled (g := [f2, f3] ++ (g ++ r)) hz1 (below hfit2) (by omega)
  obtain ⟨z3, p2, hz3, n3, -⟩ := StreamHolds.pulled (g := [f3] ++ (g ++ r)) hz2 (below hfit3) (by omega)
  obtain ⟨z4, p3, hz4, -, -⟩ := StreamHolds.pulled hz3 (below (k := []) nofun) (by omega)
  obtain ⟨z', hrun⟩ := h.run m r z4 hr h64 hz4
  have hcount : (b0 :: b1 :: b2 :: b3 :: l).length / 4 = l.length / 4 + 1 := by
    simp only [List.length_cons]
    omega
  refine ⟨z', ?_⟩
  rw [hcount, Machine.literalRun, hflush]
  simp only [d0 _ _ p0, d1 _ _ p1, d2 _ _ p2, d3 _ _ p3, Int.toNat_natCast, hrun]

end Group

section Encode

variable {b : BlockSymbols} {u : State} (T : TablesFor b u)

include T

theorem encodeGroup_coded {g : List (Nat × Nat)} {x x' : LitStates} {p : Payload} {o : OutAcc} {l : List Nat} {b0 b1 b2 b3 : Nat}
    (h0 : b0 ∈ b.lits) (h1 : b1 ∈ b.lits) (h2 : b2 ∈ b.lits) (h3 : b3 ∈ b.lits) (hx : LitStatesFit x)
    (hp : PayloadHolds g p) (hl : LiteralsCoded u g x l) (he : encodeGroup u.encTab.lit x p.out b0 b1 b2 b3 = .ok (x', o)) :
    LitStatesFit x' ∧ ∃ g', PayloadHolds g' (flushPayload { p with out := o }) ∧
      LiteralsCoded u g' x' (b0 :: b1 :: b2 :: b3 :: l) := by
  have hfew := hp.few
  obtain ⟨o3, y3, f3, e3, k3, d3⟩ := T.literal h3 hx.s3 hp.held (by omega)
  have w3 := k3.width
  have n3 : o3.nbits = p.out.nbits + (f3.1 + 0 : Nat) := k3.pushed.nbits
  obtain ⟨o2, y2, f2, e2, k2, d2⟩ := T.literal h2 hx.s2 k3.held (by omega)
  have w2 := k2.width
  have p2 := k3.pushed.append k2.pushed hp.held.1
  have n2 : o2.nbits = p.out.nbits + (f2.1 + (f3.1 + 0) : Nat) := p2.nbits
  obtain ⟨o1, y1, f1, e1, k1, d1⟩ := T.literal h1 hx.s1 k2.held (by omega)
  have w1 := k1.width
  have p1 := p2.append k1.pushed hp.held.1
  have n1 : o1.nbits = p.out.nbits + (f1.1 + (f2.1 + (f3.1 + 0)) : Nat) := p1.nbits
  obtain ⟨o0, y0, f0, e0, k0, d0⟩ := T.literal h0 hx.s0 k1.held (by omega)
  have p0 := p1.append k0.pushed hp.held.1
  have hrun : encodeGroup u.encTab.lit x p.out b0 b1 b2 b3 = .ok (⟨y0, y1, y2, y3⟩, o0) := by
    rw [encodeGroup, e3]
    simp only [e2, e1, e0]
  rw [hrun] at he
  cases he
  refine ⟨⟨k0.state, k1.state, k2.state, k3.state⟩, _, hp.pushed p0 k0.held, hl.group ?_ ?_ d0 d1 d2 d3⟩
  · exact fieldsFit_cons k0.fits (fieldsFit_cons k1.fits (fieldsFit_cons k2.fits (fieldsFit_cons k3.fits nofun)))
  · simpa using ⟨k0.width, w1, w2, w3⟩

theorem encodeGroups_coded {room : Nat} {ys l : List Nat} {g : List (Nat × Nat)} {x x' : LitStates} {p p' : Payload}
    (he : encodeGroups u.encTab.lit room ys x p = .ok (true, x', p')) (h4 : 4 ∣ ys.length) (hys : ∀ y ∈ ys, y ∈ b.lits)
    (hx : LitStatesFit x) (hp : PayloadHolds g p) (hl : LiteralsCoded u g x l) :
    ∃ g', PayloadHolds g' p' ∧ LiteralsCoded u g' x' (ys.reverse ++ l) := by
  induction ys, x, p using encodeGroups.induct u.encTab.lit room generalizing g l with
  | case1 b3 b2 b1 b0 r x p hroom =>
    rw [encodeGroups, if_pos hroom] at he
    cases he
  | case2 b3 b2 b1 b0 r x p hroom e hstep =>
    rw [encodeGroups, if_neg hroom, hstep] at he
    cases he
  | case3 b3 b2 b1 b0 r x p hroom x1 o hstep ih =>
    rw [encodeGroups, if_neg hroom, hstep] at he
    obtain ⟨hx1, g1, hp1, hl1⟩ := encodeGroup_coded T (hys b0 (by simp)) (hys b1 (by simp)) (hys b2 (by simp))
      (hys b3 (by simp)) hx hp hl hstep
    have h4' : 4 ∣ r.length := by
      simp only [List.length_cons] at h4
      omega
    obtain ⟨g2, hp2, hl2⟩ := ih he h4' (fun y hy => hys y (by simp [hy])) hx1 hp1 hl1
    exact ⟨g2, hp2, by simpa using hl2⟩
  | case4 ys x p hshort =>
    have hnil : ys = [] := by
      rcases ys with _ | ⟨b3, _ | ⟨b2, _ | ⟨b1, _ | ⟨b0, r⟩⟩⟩⟩
      · rfl
      · exact absurd h4 (show ¬4 ∣ 1 by decide)
      · exact absurd h4 (show ¬4 ∣ 2 by decide)
      · exact absurd h4 (show ¬4 ∣ 3 by decide)
      · exact absurd rfl (hshort b3 b2 b1 b0 r)
    subst hnil
    cases he
    exact ⟨g, hp, hl⟩

/-- The literal payload of a block is a stream that decodes to its literals. -/
theorem literalGroups_coded {room : Nat} {x : LitStates} {p : Payload} (h4 : 4 ∣ b.lits.length)
    (he : literalGroups u.encTab room b = .ok (true, x, p)) : ∃ g, PayloadHolds g p ∧ LiteralsCoded u g x b.lits := by
  obtain ⟨g, hp, hl⟩ := encodeGroups_coded T he (by rwa [List.length_reverse]) (fun y hy => List.mem_reverse.mp hy)
    ⟨by decide, by decide, by decide, by decide⟩ payloadHolds_nil (literalsCoded_nil u _)
  exact ⟨g, hp, by rwa [List.reverse_reverse, List.append_nil] at hl⟩

end Encode

end Sys2Proof.Proofs

namespace Sys2Proof.Proofs

open Sys2Proof Sys2Proof.Machine Sys2Proof.Laws

/-! ### The LMD payload decodes to the triplets (R210, R264) -/

/-- The state `s` is about to pull a triplet from the states `x`, with the tables made of FREQ in `u`. -/
structure LmdAt (u : State) (x : LmdStates) (s : State) : Prop where
  tabs : s.vdecTab = { l := valueTable u .l, m := valueTable u .m, d := valueTable u .d }
  lo : s.in1.lo = s.dec.lmdLo
  l : s.dec.lState.toNat = x.l
  m : s.dec.mState.toNat = x.m
  d : s.dec.dState.toNat = x.d

/-- A triplet as the decoder reads it. -/
def asRead (t : Nat × Nat × Nat) : Int × Int × Int := (t.1, t.2.1, t.2.2)

/-- The stream `g`, read from the states `x` on, decodes to the triplets `ts` with the tables made of FREQ in `u`, wherever 64 bits
stand below it. -/
structure TripletsCoded (u : State) (g : List (Nat × Nat)) (x : LmdStates) (ts : List (Nat × Nat × Nat)) : Prop where
  fits : FieldsFit g
  run (s : State) (r : List (Nat × Nat)) : LmdAt u x s → FieldsFit r → 64 ≤ fieldsWidth r → StreamHolds s.src (g ++ r) s.in1 →
    lmdRun ts.length s = some (ts.map asRead)

theorem tripletsCoded_nil (u : State) (x : LmdStates) : TripletsCoded u [] x [] := ⟨nofun, fun _ _ _ _ _ _ => rfl⟩

theorem ofInt16_natCast {n : Nat} (h : n < 2 ^ 16) : (BitVec.ofInt 16 (n : Int)).toNat = n := by
  rw [BitVec.ofInt_natCast, BitVec.toNat_ofNat, Nat.mod_eq_of_lt h]

section Triplet

variable {u : State} {g : List (Nat × Nat)} {x y : LmdStates} {ts : List (Nat × Nat × Nat)} {fl fm fd : Nat × Nat} {l m d : Nat}

/-- A triplet on top of the stream. -/
theorem TripletsCoded.triplet (h : TripletsCoded u g x ts) (hx : LmdStatesFit x) (hfit : FieldsFit [fl, fm, fd])
    (hwl : fl.1 ≤ valueWidth .l) (hwm : fm.1 ≤ valueWidth .m) (hwd : fd.1 ≤ valueWidth .d)
    (dl : DecodesValue u .l fl y.l x.l l) (dm : DecodesValue u .m fm y.m x.m m) (dd : DecodesValue u .d fd y.d x.d d) :
    TripletsCoded u ([fl, fm, fd] ++ g) y ((l, m, d) :: ts) := by
  refine ⟨fieldsFit_append hfit h.fits, fun s r hs hr h64 hz => ?_⟩
  obtain ⟨htabs, hlo, hl, hm, hd⟩ := hs
  simp only [valueWidth] at hwl hwm hwd
  obtain ⟨-, hfit1⟩ := List.forall_mem_cons.mp hfit
  obtain ⟨-, hfit2⟩ := List.forall_mem_cons.mp hfit1
  have below {k : List (Nat × Nat)} (hk : FieldsFit k) : FieldsFit (k ++ (g ++ r)) :=
    fieldsFit_append hk (fieldsFit_append h.fits hr)
  obtain ⟨z0, hflush, hz0, hn0⟩ := hz.flush (by rw [fieldsWidth_append]; omega)
  obtain ⟨z1, p0, hz1, n1, lo1⟩ := StreamHolds.pulled (g := [fm, fd] ++ (g ++ r)) (by simpa using hz0) (below hfit1) (by omega)
  obtain ⟨z2, p1, hz2, n2, lo2⟩ := StreamHolds.pulled (g := [fd] ++ (g ++ r)) hz1 (below hfit2) (by omega)
  obtain ⟨z3, p2, hz3, -, lo3⟩ := StreamHolds.pulled hz2 (below (k := []) nofun) (by omega)
  have hin : { s.in1 with lo := s.dec.lmdLo } = s.in1 := by rw [← hlo]
  have hpull : lmdPull s = some
      { l := (l : Int), m := (m : Int), d := (d : Int), lNext := (x.l : Int), mNext := (x.m : Int), dNext := (x.d : Int),
        acc := z3 } := by
    rw [lmdPull, hin, hflush, htabs, hl, hm, hd]
    simp only [dl _ _ p0, dm _ _ p1, dd _ _ p2]
  have hrun := h.run { s with
    in1 := z3,
    dec := { s.dec with
      lState := BitVec.ofInt 16 (x.l : Int), mState := BitVec.ofInt 16 (x.m : Int), dState := BitVec.ofInt 16 (x.d : Int) } } r
    ⟨htabs, by rw [lo3, lo2, lo1, inFlush_lo hflush]; exact hlo, ofInt16_natCast (hx.l.trans (by decide)),
      ofInt16_natCast (hx.m.trans (by decide)), ofInt16_natCast (hx.d.trans (by decide))⟩ hr h64 hz3
  rw [List.length_cons, lmdRun, hpull]
  dsimp only
  rw [hrun]
  rfl

end Triplet

/-- The triplet that three coded values stand for. -/
def codedTriplet (c : (Nat × Nat) × (Nat × Nat) × (Nat × Nat)) : Nat × Nat × Nat :=
  (symbolValue .l c.1, symbolValue .m c.2.1, symbolValue .d c.2.2)

section Encode

variable {b : BlockSymbols} {u : State} (T : TablesFor b u) (hb : SymbolsFit b)

include T hb

theorem encodeTriplet_coded {g base : List (Nat × Nat)} {x x' : LmdStates} {p : Payload} {o : OutAcc}
    {ts : List (Nat × Nat × Nat)} {l m d : Nat × Nat} (hl : l ∈ b.l) (hm : m ∈ b.m) (hd : d ∈ b.d) (hx : LmdStatesFit x)
    (hp : PayloadHolds (g ++ base) p) (hts : TripletsCoded u g x ts) (he : encodeTriplet u.encTab x p.out l m d = .ok (x', o)) :
    LmdStatesFit x' ∧ ∃ g', PayloadHolds (g' ++ base) (flushPayload { p with out := o }) ∧
      TripletsCoded u g' x' (codedTriplet (l, m, d) :: ts) := by
  have hfew := hp.few
  obtain ⟨oD, yd, fd, eD, kd, dd⟩ := T.value (sel := .d) (List.mem_map_of_mem hd) (hb.d d hd) hx.d hp.held
    (show p.out.nbits + (23 : Nat) ≤ 64 by omega)
  have wd : fd.1 ≤ 23 := kd.width
  have nd : oD.nbits = p.out.nbits + (fd.1 + 0 : Nat) := kd.pushed.nbits
  obtain ⟨oM, ym, fm, eM, km, dm⟩ := T.value (sel := .m) (List.mem_map_of_mem hm) (hb.m m hm) hx.m kd.held
    (show oD.nbits + (17 : Nat) ≤ 64 by omega)
  have wm : fm.1 ≤ 17 := km.width
  have pm := kd.pushed.append km.pushed hp.held.1
  have nm : oM.nbits = p.out.nbits + (fm.1 + (fd.1 + 0) : Nat) := pm.nbits
  obtain ⟨oL, yl, fl, eL, kl, dl⟩ := T.value (sel := .l) (List.mem_map_of_mem hl) (hb.l l hl) hx.l km.held
    (show oM.nbits + (14 : Nat) ≤ 64 by omega)
  have pl := pm.append kl.pushed hp.held.1
  simp only [streamOf, Quad.get] at eD eM eL
  have hrun : encodeTriplet u.encTab x p.out l m d = .ok (⟨yl, ym, yd⟩, oL) := by
    rw [encodeTriplet, eD]
    simp only [eM, eL]
  rw [hrun] at he
  cases he
  refine ⟨⟨kl.state, km.state, kd.state⟩, [fl, fm, fd] ++ g, ?_, hts.triplet hx ?_ kl.width wm wd dl dm dd⟩
  · simpa using hp.pushed pl kl.held
  · exact fieldsFit_cons kl.fits (fieldsFit_cons km.fits (fieldsFit_cons kd.fits nofun))

theorem encodeTriplets_coded {room : Nat} {cs : List ((Nat × Nat) × (Nat × Nat) × (Nat × Nat))} {g base : List (Nat × Nat)}
    {x x' : LmdStates} {p p' : Payload} {ts : List (Nat × Nat × Nat)}
    (he : encodeTriplets u.encTab room cs x p = .ok (true, x', p')) (hcs : ∀ c ∈ cs, c.1 ∈ b.l ∧ c.2.1 ∈ b.m ∧ c.2.2 ∈ b.d)
    (hx : LmdStatesFit x) (hp : PayloadHolds (g ++ base) p) (hts : TripletsCoded u g x ts) :
    ∃ g', PayloadHolds (g' ++ base) p' ∧ TripletsCoded u g' x' ((cs.map codedTriplet).reverse ++ ts) := by
  induction cs generalizing x p g ts with
  | nil =>
    cases he
    exact ⟨g, hp, hts⟩
  | cons c r ih =>
    obtain ⟨l, m, d⟩ := c
    obtain ⟨hl, hm, hd⟩ := hcs _ List.mem_cons_self
    rw [encodeTriplets] at he
    split at he
    · cases he
    · split at he
      · cases he
      · rename_i x1 o hstep
        obtain ⟨hx1, g1, hp1, hts1⟩ := encodeTriplet_coded T hb hl hm hd hx hp hts hstep
        obtain ⟨g2, hp2, hts2⟩ := ih he (fun c hc => hcs c (List.mem_cons_of_mem _ hc)) hx1 hp1 hts1
        exact ⟨g2, hp2, by simpa using hts2⟩

omit T hb in
/-- The 8 zero bytes at the start of the LMD payload (R264). -/
theorem payloadHolds_zeros : PayloadHolds [(64, 0)] { bytes := List.replicate 8 0, out := OutAcc.zero } :=
  ⟨outHeld_zero, by decide, by decide, by decide⟩

/-- The LMD payload of a block, 8 zero bytes and a stream that decodes to its triplets. -/
theorem lmdTriplets_coded {room : Nat} {x : LmdStates} {p : Payload} (he : lmdTriplets u.encTab room b = .ok (true, x, p)) :
    ∃ g, PayloadHolds (g ++ [(64, 0)]) p ∧ TripletsCoded u g x ((b.l.zip (b.m.zip b.d)).map codedTriplet) := by
  obtain ⟨g, hp, hts⟩ := encodeTriplets_coded T hb (g := []) he mem_blockTriplets ⟨by decide, by decide, by decide⟩
    payloadHolds_zeros (tripletsCoded_nil u _)
  exact ⟨g, hp, by rwa [List.map_reverse, List.reverse_reverse, List.append_nil] at hts⟩

end Encode

end Sys2Proof.Proofs

namespace Sys2Proof.Proofs

open Sys2Proof Sys2Proof.Machine Sys2Proof.Laws

/-! ### Room enough (R258, R262 to R264) -/

section Room

variable {b : BlockSymbols} {u : State} (T : TablesFor b u) (hb : SymbolsFit b) {room n : Nat}

include T

/-- No group finds fewer than 16 bytes where each literal has 2 bytes and 8 more are free. -/
theorem encodeGroups_room {l : List Nat} {x : LitStates} {p : Payload} (hroom : n + 2 * l.length + 8 ≤ room)
    (hl : ∀ y ∈ l, y ∈ b.lits) (hx : LitStatesFit x) (hp : Steady n p) :
    ∃ x' p', encodeGroups u.encTab.lit room l x p = .ok (true, x', p') := by
  induction l, x, p using encodeGroups.induct u.encTab.lit room generalizing n with
  | case1 b3 b2 b1 b0 r x p hfull =>
    have := hp.short
    simp only [List.length_cons] at hroom
    omega
  | case2 b3 b2 b1 b0 r x p _ e he =>
    obtain ⟨x', o', hok, -⟩ := encodeGroup_ok T (hl b0 (by simp)) (hl b1 (by simp)) (hl b2 (by simp)) (hl b3 (by simp))
      hx hp.held hp.few
    rw [hok] at he
    cases he
  | case3 b3 b2 b1 b0 r x p hfull x' o he ih =>
    obtain ⟨x1, o1, hok, hx1, ho1⟩ := encodeGroup_ok T (hl b0 (by simp)) (hl b1 (by simp)) (hl b2 (by simp))
      (hl b3 (by simp)) hx hp.held hp.few
    rw [hok] at he
    cases he
    simp only [List.length_cons] at hroom
    obtain ⟨x2, p2, heq⟩ := ih (n := n + 8) (by omega) (fun y hy => hl y (by simp [hy])) hx1 (steady_flush hp.short ho1)
    exact ⟨x2, p2, by rw [encodeGroups, if_neg hfull, hok]; exact heq⟩
  | case4 l x p hshort =>
    exact ⟨x, p, by rw [encodeGroups]; exact hshort⟩

include hb

/-- No triplet finds fewer than 16 bytes where each has 8 bytes and 8 more are free. -/
theorem encodeTriplets_room {cs : List ((Nat × Nat) × (Nat × Nat) × (Nat × Nat))} {x : LmdStates} {p : Payload}
    (hroom : n + 8 * cs.length + 8 ≤ room) (hcs : ∀ c ∈ cs, c.1 ∈ b.l ∧ c.2.1 ∈ b.m ∧ c.2.2 ∈ b.d) (hx : LmdStatesFit x)
    (hp : Steady n p) : ∃ x' p', encodeTriplets u.encTab room cs x p = .ok (true, x', p') := by
  induction cs generalizing x p n with
  | nil => exact ⟨x, p, rfl⟩
  | cons c r ih =>
    obtain ⟨l, m, d⟩ := c
    obtain ⟨hl, hm, hd⟩ := hcs _ List.mem_cons_self
    obtain ⟨x1, o1, hok, hx1, ho1⟩ := encodeTriplet_ok T hb hl hm hd hx hp.held hp.few
    have hshort := hp.short
    rw [List.length_cons] at hroom
    rw [encodeTriplets, if_neg (by omega), hok]
    exact ih (n := n + 8) (by omega) (fun c hc => hcs c (List.mem_cons_of_mem _ hc)) hx1 (steady_flush hshort ho1)

/-- Both payloads fit where there are 2 bytes a literal, 8 a triplet and 25 more. -/
theorem payloads_room (hroom : 2 * b.lits.length + 8 * b.l.length + 25 ≤ room) :
    ∃ y, payloads u.encTab room b = .ok (some y) := by
  obtain ⟨c, x, p, hlit, -, hp⟩ := literalGroups_ok T room
  obtain ⟨x1, p1, hdone⟩ := encodeGroups_room T (l := b.lits.reverse) (x := { s0 := 0, s1 := 0, s2 := 0, s3 := 0 })
    (p := { bytes := [], out := OutAcc.zero }) (n := 0) (room := room) (by rw [List.length_reverse]; omega)
    (fun y hy => List.mem_reverse.mp hy) ⟨by decide, by decide, by decide, by decide⟩ ⟨outHeld_zero, by decide, le_rfl⟩
  obtain ⟨rfl, rfl, rfl⟩ : c = true ∧ x = x1 ∧ p = p1 := by
    have h := hlit.symm.trans hdone
    simpa using h
  have hbytes : (finishPayload p).bytes.length ≤ 2 * b.lits.length + 1 := by
    have hshort := hp.short
    have hfew := hp.few
    have hcount : (outFinishBytes p.out).length = (p.out.nbits.toNat + 7) / 8 := leBytes_length _ _
    rw [finishPayload, List.length_append, hcount]
    omega
  obtain ⟨x', p', hlmd⟩ := encodeTriplets_room T hb (cs := (b.l.zip (b.m.zip b.d)).reverse) (x := { l := 0, m := 0, d := 0 })
    (p := { bytes := List.replicate 8 0, out := OutAcc.zero }) (n := 8) (room := room - (finishPayload p).bytes.length)
    (by rw [List.length_reverse, List.length_zip]; omega) mem_blockTriplets ⟨by decide, by decide, by decide⟩
    ⟨outHeld_zero, by decide, by decide⟩
  have hlmd' : lmdTriplets u.encTab (room - (finishPayload p).bytes.length) b = .ok (true, x', p') := hlmd
  rw [payloads, hlit]
  dsimp only
  rw [if_neg (by omega), hlmd']
  exact ⟨_, rfl⟩

end Room

/-! ### What the symbols of a block stand for (R259 to R261) -/

theorem valueSymbols_values {sel : VSel} {vs : List Nat} {xs : List (Nat × Nat)} (h : valueSymbols sel vs = .ok xs) :
    xs.map (symbolValue sel) = vs := by
  induction vs generalizing xs with
  | nil =>
    cases h
    rfl
  | cons v r ih =>
    rw [valueSymbols] at h
    split at h
    · cases h
    · rename_i x hx
      split at h
      · cases h
      · rename_i ys hys
        cases h
        rw [List.map_cons, ih hys, symbolValue, (symbolOfValue_ok hx).2.1]

/-- The triplets of a block, and its literals, as its symbols give them. -/
theorem blockSymbols_parts {s : State} {b : BlockSymbols} (h : blockSymbols s = .ok b) :
    (b.l.map (symbolValue .l) = valueList .l s ∧ b.m.map (symbolValue .m) = valueList .m s ∧
      b.d.map (symbolValue .d) = valueList .d s) ∧ b.lits = encLitList s := by
  unfold blockSymbols at h
  split at h
  · cases h
  · rename_i l hl
    split at h
    · cases h
    · rename_i m hm
      split at h
      · cases h
      · rename_i d hd
        cases h
        exact ⟨⟨valueSymbols_values hl, valueSymbols_values hm, valueSymbols_values hd⟩, rfl⟩

theorem substituteRepeats_getElem {dprev : Nat} {l : List Nat} {i : Nat} (hi : i < l.length)
    (hi' : i < (substituteRepeats dprev l).length) :
    (substituteRepeats dprev l)[i] = if l[i] = (if i = 0 then dprev else l[i - 1]) then 0 else l[i] := by
  induction l generalizing dprev i with
  | nil => cases hi
  | cons d r ih =>
    have hcons : substituteRepeats dprev (d :: r) = (if d = dprev then 0 else d) :: substituteRepeats d r := by
      rw [substituteRepeats]
      split
      · rename_i heq
        rw [heq]
      · rfl
    simp only [hcons] at hi' ⊢
    cases i with
    | zero => rfl
    | succ i =>
      have hr := Nat.lt_of_succ_lt_succ hi
      rw [List.getElem_cons_succ, ih hr]
      cases i <;> rfl

theorem substituteRepeats_valueList (s : State) :
    substituteRepeats 0 (valueList .d s) = (List.range s.enc.nMatches.toNat).map (codedDistance s) := by
  refine List.ext_getElem ?_ fun i h1 h2 => ?_
  · rw [substituteRepeats_length, valueList_length, List.length_map, List.length_range]
  · rw [substituteRepeats_getElem (by rwa [substituteRepeats_length] at h1)]
    simp only [valueList, List.getElem_map, List.getElem_range, codedDistance]

theorem paddedLits_eq (s : State) : paddedLits s ((s.enc.nLits.toNat + 3) / 4 * 4) =
    encLitList s ++ List.replicate (padCount s.enc.nLits.toNat) 0 := by
  have hcount : (s.enc.nLits.toNat + 3) / 4 * 4 = s.enc.nLits.toNat + padCount s.enc.nLits.toNat := by
    unfold padCount
    omega
  rw [paddedLits, hcount, List.range_add, List.map_append, List.map_map]
  congr 1
  · exact List.map_congr_left fun i hi => if_pos (List.mem_range.mp hi)
  · refine List.eq_replicate_iff.mpr ⟨by rw [List.length_map, List.length_range], fun x hx => ?_⟩
    obtain ⟨j, -, rfl⟩ := List.mem_map.mp hx
    exact if_neg (Nat.not_lt.mpr (Nat.le_add_right _ _))

section Plan

variable {s u : State} {b : BlockSymbols} (h : Planned s b u)

include h

/-- HDR_SIZE is the size of the packed header (R262). -/
theorem Planned.hdrSize : u.hdrSize.toNat = headerSizeOf u := by
  choose f hf hfor using normalized_ok h.fit (prepared s)
  have hu := h.tables
  rw [buildTables, hf .l, hf .m, hf .d, hf .lit] at hu
  injection hu with hu
  have hlist (sel : Sel) (hput : u.freq.get sel = freqOfList (f sel)) : u.freqList sel = f sel := by
    refine freqList_put (hfor sel).length ?_ hput
    rw [(hfor sel).sum]
    cases sel <;> decide
  have hall : u.allFreqs = f .l ++ f .m ++ f .d ++ f .lit := by
    rw [State.allFreqs, hlist .l (by rw [← hu]; rfl), hlist .m (by rw [← hu]; rfl), hlist .d (by rw [← hu]; rfl),
      hlist .lit (by rw [← hu]; rfl)]
  have hsize : u.hdrSize = BitVec.ofNat 32 (headerSizeOf u) := by
    rw [← headerSizeOf_eq, hall, ← hu]
    rfl
  have hbound := (headerSizeOf_bounds u).2
  rw [hsize, ofNat32_toNat (by omega)]

theorem Planned.lits_length (hn : s.enc.nLits.toNat ≤ 40000) : b.lits.length = (s.enc.nLits.toNat + 3) / 4 * 4 := by
  rw [(blockSymbols_parts h.symbols).2, encLitList, List.length_map, List.length_range, prepared_nLits hn, padCount]
  omega

theorem Planned.lits (hn : s.enc.nLits.toNat ≤ 40000) : b.lits = paddedLits s ((s.enc.nLits.toNat + 3) / 4 * 4) := by
  rw [(blockSymbols_parts h.symbols).2, encLitList_prepared hn, paddedLits_eq]

/-- The triplets coded are those of the block, repeated distances replaced. -/
theorem Planned.triplets : ((b.l.zip (b.m.zip b.d)).map codedTriplet).map asRead = codedTriplets s := by
  obtain ⟨⟨hl, hm, hd⟩, -⟩ := blockSymbols_parts h.symbols
  have hlist : valueList .l (prepared s) = valueList .l s := rfl
  have hlist' : valueList .m (prepared s) = valueList .m s := rfl
  have hzip : (b.l.zip (b.m.zip b.d)).map codedTriplet =
      (b.l.map (symbolValue .l)).zip ((b.m.map (symbolValue .m)).zip (b.d.map (symbolValue .d))) := by
    rw [List.zip_map, List.zip_map]
    rfl
  rw [hzip, hl, hm, hd, valueList_prepared_d, substituteRepeats_valueList, hlist, hlist', valueList, valueList, List.zip_map',
    List.zip_map', List.map_map]
  rfl

theorem Planned.triplets_length : b.l.length = s.enc.nMatches.toNat ∧ (b.l.zip (b.m.zip b.d)).length = s.enc.nMatches.toNat := by
  obtain ⟨⟨hl, hm, hd⟩, -⟩ := blockSymbols_parts h.symbols
  have hlen {sel : VSel} {xs : List (Nat × Nat)} (hxs : xs.map (symbolValue sel) = valueList sel (prepared s)) :
      xs.length = s.enc.nMatches.toNat := by
    rw [← List.length_map (symbolValue sel), hxs, valueList_length]
    rfl
  rw [List.length_zip, List.length_zip, hlen hl, hlen hm, hlen hd, min_self, min_self]
  exact ⟨rfl, rfl⟩

end Plan

end Sys2Proof.Proofs

namespace Sys2Proof.Proofs

open Sys2Proof Sys2Proof.Machine Sys2Proof.Laws

/-! ### A finished payload in memory (R139, R207, R210) -/

theorem fieldsFit_bytesField (m : Memory) (a n : Nat) : FieldsFit [bytesField m a n] :=
  fieldsFit_cons (memRead_lt _ _ _) nofun

theorem fieldsFit_zeros : FieldsFit [(64, 0)] := fieldsFit_cons (by decide) nofun

section Opened

variable {m : Memory} {a lo : Nat} {p : Payload} (hbytes : bytesAt m a (finishPayload p).bytes)
  (hend : a + (finishPayload p).bytes.length < 2 ^ 64)

include hbytes hend

/-- IN_INIT opens the stack of a finished payload, over one field for the bytes between the lower bound and the payload. -/
theorem PayloadHolds.opens {g : List (Nat × Nat)} (h : PayloadHolds g p) (hg : FieldsFit g) (z : InAcc) (hlo : lo ≤ a)
    (h8 : lo + 8 ≤ a + (finishPayload p).bytes.length) :
    ∃ y, inInit m z (finishPayload p).out.nbits (a + (finishPayload p).bytes.length) lo = (true, y) ∧
      StreamHolds m (g ++ [bytesField m lo (a - lo)]) y := by
  obtain ⟨hvalue, hwidth, hl, hu⟩ := h.finish
  have hfit : FieldsFit (g ++ [bytesField m lo (a - lo)]) := fieldsFit_append hg (fieldsFit_bytesField _ _ _)
  refine inInit_holds z hl hu h8 hend hfit ?_ ?_
  · rw [fieldsWidth_append, fieldsWidth_bytesField]
    omega
  · rw [show a + (finishPayload p).bytes.length - lo = (a - lo) + (finishPayload p).bytes.length by omega, memRead_add,
      show lo + (a - lo) = a by omega, memRead_of_bytesAt hbytes, hvalue, fieldsValue_append, fieldsWidth_bytesField,
      fieldsValue_bytesField]
    ring

/-- The literal payload, with 8 bytes below it, decodes to the literals. -/
theorem literals_decode {u : State} {g : List (Nat × Nat)} {x : LitStates} {l : List Nat} (h : PayloadHolds g p)
    (hl : LiteralsCoded u g x l) (z : InAcc) (hlo : lo + 8 ≤ a) :
    (inInit m z (finishPayload p).out.nbits (a + (finishPayload p).bytes.length) lo).1 = true ∧
    ∃ z', Machine.literalRun (litTable u) m (l.length / 4) x
      (inInit m z (finishPayload p).out.nbits (a + (finishPayload p).bytes.length) lo).2 = some (l, z') := by
  obtain ⟨y, hinit, hy⟩ := h.opens (lo := lo) hbytes hend hl.fits z (by omega) (by omega)
  rw [hinit]
  refine ⟨rfl, hl.run m _ y (fieldsFit_bytesField _ _ _) ?_ hy⟩
  rw [fieldsWidth_bytesField]
  omega

/-- The LMD payload starts with 8 zero bytes and decodes to the triplets. -/
theorem triplets_decode {u : State} {g : List (Nat × Nat)} {x : LmdStates} {ts : List (Nat × Nat × Nat)}
    (h : PayloadHolds (g ++ [(64, 0)]) p) (hts : TripletsCoded u g x ts) (z : InAcc) :
    memRead m a 8 = 0 ∧ (inInit m z (finishPayload p).out.nbits (a + (finishPayload p).bytes.length) a).1 = true ∧
    ∀ s : State, s.src = m → s.in1 = (inInit m z (finishPayload p).out.nbits (a + (finishPayload p).bytes.length) a).2 →
      s.vdecTab = { l := valueTable u .l, m := valueTable u .m, d := valueTable u .d } → s.dec.lmdLo = nat64 a →
      s.dec.lState.toNat = x.l → s.dec.mState.toNat = x.m → s.dec.dState.toNat = x.d →
      lmdRun ts.length s = some (ts.map asRead) := by
  obtain ⟨hvalue, hwidth, hl, hu⟩ := h.finish
  have h8 : 8 ≤ (finishPayload p).bytes.length := by
    rw [fieldsWidth_append] at hwidth
    simp only [fieldsWidth] at hwidth
    omega
  have hfit : FieldsFit (g ++ [(64, 0)]) := fieldsFit_append hts.fits fieldsFit_zeros
  obtain ⟨y, hinit, hy⟩ := h.opens hbytes hend hfit z le_rfl (by omega)
  rw [hinit]
  refine ⟨?_, rfl, fun s hsrc hin htab hlo hsl hsm hsd => ?_⟩
  · have hread := memRead_of_bytesAt hbytes
    rw [hvalue, fieldsValue_append, ← Nat.add_sub_cancel' h8, memRead_add] at hread
    have hlt := memRead_lt m a 8
    simp only [fieldsWidth, fieldsValue] at hread
    omega
  · subst hsrc
    rw [List.append_assoc] at hy
    have hy' : s.in1 = y := hin
    exact hts.run s _ ⟨htab, by rw [hy', inInit_lo hinit, hlo], hsl, hsm, hsd⟩
      (fieldsFit_append fieldsFit_zeros (fieldsFit_bytesField _ _ _)) (Nat.le_add_right _ _) (by rwa [hy'])

end Opened

/-! ### The tables a decoder makes of the frequencies of the header (R206, R208) -/

section Tables

variable {u r : State} (h : r.freq = u.freq)

include h

theorem freqList_congr (sel : Sel) : r.freqList sel = u.freqList sel := by
  rw [State.freqList, State.freqList, h]

theorem litTable_congr : litTable r = litTable u := by
  rw [litTable, litTable, freqList_congr h]

theorem valueTable_congr (sel : VSel) : valueTable r sel = valueTable u sel := by
  rw [valueTable, valueTable, freqList_congr h]

end Tables

/-- BUILD_DEC and BUILD_VDEC on the frequencies of a block make its decoders' tables. -/
theorem TablesFor.decoders {b : BlockSymbols} {u r : State} (T : TablesFor b u) (hr : ready r) (hopen : compressedOpen r = false)
    (hfreq : r.freq = u.freq) :
    (∃ t, (exec .buildDec r = .next t ∧ t.status = .ok) ∧ t.decTab = litTable u) ∧
    ∀ sel, ∃ t, (exec (.buildVdec sel) r = .next t ∧ t.status = .ok) ∧ t.vdecTab.get sel = valueTable u sel := by
  have htotal (sel : Sel) : freqTotal r sel ≤ nstates sel := by
    rw [freqTotal_eq, freqList_congr hfreq, T.total]
  refine ⟨?_, fun sel => ?_⟩
  · have hrun := exec_buildDec_fits hr (htotal .lit)
    exact ⟨_, ⟨hrun, rfl⟩, (decTab_of_buildDec hr (htotal .lit) hrun).trans (litTable_congr hfreq)⟩
  · have hrun := exec_buildVdec_fits hr hopen (htotal (streamOf sel))
    exact ⟨_, ⟨hrun, rfl⟩, (vdecTab_of_buildVdec hr hopen (htotal (streamOf sel)) hrun).trans (valueTable_congr hfreq sel)⟩

end Sys2Proof.Proofs

namespace Sys2Proof.Proofs

open Sys2Proof Sys2Proof.Machine Sys2Proof.Laws

/-! ### The header of a block reads back (R185, R265) -/

/-- A header as HDR_UNPACK reads it back (R185). -/
def readBack (h : Hdr) : Hdr :=
  { h with magic := 0x31787662, nPayloadBytes := h.nLiteralPayloadBytes + h.nLmdPayloadBytes }

theorem unpackHeader_packed {m : Memory} {p lim : Nat} {s : State} (hfits : ∀ id, fieldFits s id)
    (hb : bytesAt m p (packedHeader s.hdr s.allFreqs)) (hlim : p + headerSizeOf s ≤ lim) :
    memRead m p 4 = 0x32787662 ∧ unpackHeader m p lim = .ok (readBack s.hdr) (concatFreqs s) (headerSizeOf s) := by
  have hpacked := packedAt_of_bytes hfits hb
  obtain ⟨-, -, -, -, -, hregion⟩ := packedHeader_layout hb
  rw [freqRegion_eq] at hregion
  have hhdr := hdr_of_packed hpacked (unpackedAt_fields m p)
  obtain ⟨hmagic, -, -, -, -, -, -, -, -, -, -, -, -, -, hn, -⟩ := hpacked
  have hsize := (headerSizeOf_bounds s).1
  refine ⟨hmagic, ?_⟩
  unfold unpackHeader
  rw [if_neg (by omega), hn]
  dsimp only
  rw [if_neg (by omega), if_neg (by omega),
    (unpackFreqs_iff (by omega)).mpr (regionCodes_of_bytes (concatFreqs_le hfits) hregion), hhdr]
  rfl

/-- What the decoder takes from the header of a block with these payloads. -/
structure HeaderFor (y : Payloads) (h : Hdr) : Prop where
  litBytes : h.nLiteralPayloadBytes.toNat = y.lits.bytes.length
  litBits : h.literalBits.toInt = y.lits.out.nbits
  litStates : (⟨h.literalState0.toNat, h.literalState1.toNat, h.literalState2.toNat, h.literalState3.toNat⟩ : LitStates) = y.lit
  lmdBytes : h.nLmdPayloadBytes.toNat = y.lmds.bytes.length
  lmdBits : h.lmdBits.toInt = y.lmds.out.nbits
  lmdStates : (⟨h.lState.toNat, h.mState.toNat, h.dState.toNat⟩ : LmdStates) = y.lmd

/-- A finished payload is short, and its bit count small. -/
theorem Steady.finished {n : Nat} {p : Payload} (h : Steady n p) : (finishPayload p).bytes.length ≤ n + 1 ∧
    -7 ≤ (finishPayload p).out.nbits ∧ (finishPayload p).out.nbits ≤ 0 := by
  obtain ⟨⟨h0, -, -⟩, h7, hshort⟩ := h
  have hbits : (finishPayload p).out.nbits = p.out.nbits - 8 * (outFinishCount p.out : Int) := rfl
  have hbytes : (finishPayload p).bytes.length = p.bytes.length + outFinishCount p.out := by
    rw [finishPayload, List.length_append, outFinishBytes, leBytes_length]
  have hcount : outFinishCount p.out = (p.out.nbits.toNat + 7) / 8 := rfl
  rw [hbits, hbytes]
  omega

theorem ofInt32_toInt_small {i : Int} (hl : -7 ≤ i) (hu : i ≤ 0) : (BitVec.ofInt 32 i).toInt = i := by
  rw [BitVec.toInt_ofInt, Int.bmod_def]
  omega

theorem ofNat16_toNat {n : Nat} (h : n < 1024) : (BitVec.ofNat 16 n).toNat = n := by
  rw [BitVec.toNat_ofNat]
  omega

/-- The payloads' lengths together, far below a word. -/
theorem PayloadsFit.lengths {b : BlockSymbols} {y : Payloads} (hb : SymbolsFit b) (h : PayloadsFit b y) :
    y.lits.bytes.length ≤ 80001 ∧ y.lmds.bytes.length ≤ 80009 := by
  obtain ⟨-, -, ⟨pl, hpl, hpl'⟩, ⟨pm, hpm, hpm'⟩⟩ := h
  have hlits := hb.length .lit
  have htriplets := hb.triplets
  simp only [symbolsOf] at hlits
  have hl := hpl.finished.1
  have hm := hpm.finished.1
  rw [← hpl'] at hl
  rw [← hpm'] at hm
  omega

theorem PayloadsFit.header {b : BlockSymbols} {y : Payloads} (hb : SymbolsFit b) (h : PayloadsFit b y) (raw : Nat)
    (nLits nMatches : U32) : HeaderFor y (readBack (blockHeader y raw nLits nMatches)) := by
  obtain ⟨hlits, hlmds⟩ := h.lengths hb
  obtain ⟨hlit, hlmd, ⟨pl, hpl, hpl'⟩, ⟨pm, hpm, hpm'⟩⟩ := h
  obtain ⟨-, hll, hlu⟩ := hpl.finished
  obtain ⟨-, hml, hmu⟩ := hpm.finished
  rw [← hpl'] at hll hlu
  rw [← hpm'] at hml hmu
  obtain ⟨h0, h1, h2, h3⟩ := hlit
  obtain ⟨hL, hM, hD⟩ := hlmd
  exact {
    litBytes := ofNat32_toNat (by omega)
    litBits := ofInt32_toInt_small hll hlu
    litStates := by simp only [readBack, blockHeader, ofNat16_toNat h0, ofNat16_toNat h1, ofNat16_toNat h2, ofNat16_toNat h3]
    lmdBytes := ofNat32_toNat (by omega)
    lmdBits := ofInt32_toInt_small hml hmu
    lmdStates := by
      simp only [readBack, blockHeader, ofNat16_toNat (hL.trans (by decide)), ofNat16_toNat (hM.trans (by decide)),
        ofNat16_toNat (hD.trans (by decide))] }

/-! ### The payloads of a block decode to it (R206 to R210, R263, R264) -/

/-- The payloads are finished streams that decode to the block's literals and triplets. -/
structure PayloadsCoded (b : BlockSymbols) (u : State) (y : Payloads) : Prop where
  lits : ∃ p g, y.lits = finishPayload p ∧ PayloadHolds g p ∧ LiteralsCoded u g y.lit b.lits
  lmds : ∃ p g, y.lmds = finishPayload p ∧ PayloadHolds (g ++ [(64, 0)]) p ∧
    TripletsCoded u g y.lmd ((b.l.zip (b.m.zip b.d)).map codedTriplet)

/-- Payloads that fit the room are made of both runs of the coder. -/
theorem payloads_some {tabs : Quad (Sparse EncEntry)} {room : Nat} {b : BlockSymbols} {y : Payloads}
    (h : payloads tabs room b = .ok (some y)) : ∃ p q,
      (literalGroups tabs room b = .ok (true, y.lit, p) ∧ y.lits = finishPayload p) ∧
      (lmdTriplets tabs (room - y.lits.bytes.length) b = .ok (true, y.lmd, q) ∧ y.lmds = finishPayload q) ∧
      y.lits.bytes.length + 8 ≤ room := by
  unfold payloads at h
  split at h
  · cases h
  · cases h
  · rename_i x p hlit
    split at h
    · cases h
    · rename_i hroom
      split at h
      · cases h
      · cases h
      · rename_i x' q hlmd
        cases h
        exact ⟨p, q, ⟨hlit, rfl⟩, ⟨hlmd, rfl⟩, by dsimp only; omega⟩

/-- The payloads that fit are no longer than the room. -/
theorem payloads_length {tabs : Quad (Sparse EncEntry)} {room : Nat} {b : BlockSymbols} {y : Payloads}
    (h : payloads tabs room b = .ok (some y)) : 0 < room ∧ y.lits.bytes.length + y.lmds.bytes.length ≤ room := by
  obtain ⟨p, q, -, ⟨hlmd, hq⟩, hroom⟩ := payloads_some h
  have hfits := (encodeTriplets_fits hlmd (payloadFits_start _ _)).finish.1
  rw [← hq, List.length_replicate] at hfits
  omega

theorem payloads_coded {room : Nat} {b : BlockSymbols} {u : State} {y : Payloads} (T : TablesFor b u) (hb : SymbolsFit b)
    (h4 : 4 ∣ b.lits.length) (h : payloads u.encTab room b = .ok (some y)) : PayloadsCoded b u y := by
  obtain ⟨p, q, ⟨hlit, hp⟩, ⟨hlmd, hq⟩, -⟩ := payloads_some h
  obtain ⟨g, hg, hl⟩ := literalGroups_coded T h4 hlit
  obtain ⟨g', hg', ht⟩ := lmdTriplets_coded T hb hlmd
  exact ⟨⟨p, g, hp, hg, hl⟩, ⟨q, g', hq, hg', ht⟩⟩

theorem payloadsDecode_of_coded {b : BlockSymbols} {u r : State} {y : Payloads} {h : Hdr} {hs p : Nat} (T : TablesFor b u)
    (hy : PayloadsCoded b u y) (hh : HeaderFor y h) (hn : h.nLiterals.toNat = b.lits.length)
    (hm : h.nMatches.toNat = (b.l.zip (b.m.zip b.d)).length) (hr : ready r) (hopen : compressedOpen r = false)
    (hfreq : r.freq = u.freq) (h8 : 8 ≤ hs) (hend : p + hs + y.lits.bytes.length + y.lmds.bytes.length < 2 ^ 64)
    (hlits : bytesAt r.src (p + hs) y.lits.bytes) (hlmds : bytesAt r.src (p + hs + y.lits.bytes.length) y.lmds.bytes) :
    payloadsDecode h hs p b.lits (((b.l.zip (b.m.zip b.d)).map codedTriplet).map asRead) r := by
  obtain ⟨⟨pl, gl, hpl, hgl, hl⟩, ⟨pm, gm, hpm, hgm, ht⟩⟩ := hy
  obtain ⟨hlitBytes, hlitBits, hlitStates, hlmdBytes, hlmdBits, hlmdStates⟩ := hh
  obtain ⟨⟨td, htd, hdec⟩, hv⟩ := T.decoders hr hopen hfreq
  obtain ⟨tl, htl, hvl⟩ := hv .l
  obtain ⟨tm, htm, hvm⟩ := hv .m
  obtain ⟨tv, htv, hvd⟩ := hv .d
  rw [hpl] at hlits hlmds hend hlitBytes hlitBits
  rw [hpm] at hlmds hend hlmdBytes hlmdBits
  obtain ⟨hzero, hinit, hrun⟩ := triplets_decode hlmds (by omega) hgm ht r.in1
  unfold payloadsDecode
  dsimp only
  rw [hlitBytes, hlitBits, hlmdBytes, hlmdBits, hn, hm]
  refine ⟨td, tl, tm, tv, htd, htl, htm, htv, fun lo hlo => ?_, hzero, hinit, ?_⟩
  · rw [hdec, hlitStates]
    exact literals_decode hlits (by omega) hgl hl r.in0 (by omega)
  · rw [← List.length_map codedTriplet]
    refine hrun _ rfl rfl ?_ rfl (congrArg LmdStates.l hlmdStates) (congrArg LmdStates.m hlmdStates)
      (congrArg LmdStates.d hlmdStates)
    rw [← hvl, ← hvm, ← hvd]
    rfl

end Sys2Proof.Proofs

namespace Sys2Proof.Proofs

open Sys2Proof Sys2Proof.Machine Sys2Proof.Laws

/-! ### EMIT_BLOCK that ends OK (R258, R265) -/

/-- The header that stands in the block. -/
def sentHeader (s : State) (y : Payloads) : Hdr :=
  blockHeader y ((valueList .l s).sum + (valueList .m s).sum) (preparedEnc s).nLits s.enc.nMatches

/-- The block that EMIT_BLOCK stores: the header with the frequencies in `u`, and both payloads. -/
def sentBytes (s u : State) (y : Payloads) : List U8 :=
  packedHeader (sentHeader s y) u.allFreqs ++ (y.lits.bytes ++ y.lmds.bytes)

/-- The block's length in `u`'s header and both payloads. -/
def sentLength (u : State) (y : Payloads) : Nat := headerSizeOf u + (y.lits.bytes.length + y.lmds.bytes.length)

theorem sentBytes_length (s u : State) (y : Payloads) : (sentBytes s u y).length = sentLength u y := by
  rw [sentBytes, sentLength, List.length_append, List.length_append, packedHeader_length, ← headerSizeOf_eq, v2FixedSize]

/-- The state in which EMIT_BLOCK leaves the block of these payloads. -/
def emitted (s u : State) (y : Payloads) : State :=
  closedBlock s.enc.nLits.toNat (y.lits.bytes ++ y.lmds.bytes) (withPayloads y u)

theorem sum_valueList_le {s : State} (h : EncArraysLegal s.enc) (sel : VSel) :
    (valueList sel s).sum ≤ 10000 * maxValue sel := by
  have hsum := List.sum_le_card_nsmul (valueList sel s) (maxValue sel) (valueList_le h sel)
  rw [valueList_length, smul_eq_mul] at hsum
  exact hsum.trans (Nat.mul_le_mul_right _ h.nMatches)

section Emitted

variable {s u : State} {b : BlockSymbols} {y : Payloads} (hu : Planned s b u)

include hu

theorem sent_blockBytes : blockBytes (y.lits.bytes ++ y.lmds.bytes) (withPayloads y u) = sentBytes s u y := by
  rw [blockBytes, finalHeader_payloads hu.enc]
  rfl

theorem emitted_hdrSize : (emitted s u y).hdrSize.toNat = headerSizeOf u := by
  rw [emitted, closedBlock_hdrSize]
  exact hu.hdrSize

omit hu in
theorem emitted_freq : (emitted s u y).freq = u.freq := by
  rw [emitted, closedBlock_eq]
  rfl

theorem withPayloads_dstPos : (withPayloads y u).enc.dstPos = s.enc.dstPos := by
  show u.enc.dstPos = _
  rw [hu.enc]
  rfl

theorem emitted_bytes : bytesAt (emitted s u y).dst s.enc.dstPos.toNat (sentBytes s u y) := by
  have h := closedBlock_bytes (n := s.enc.nLits.toNat) (p := y.lits.bytes ++ y.lmds.bytes) (s := withPayloads y u)
  rwa [withPayloads_dstPos hu, sent_blockBytes hu] at h

theorem emitted_state : emitted s u y = { s with
    occ := (emitted s u y).occ, freq := (emitted s u y).freq, encTab := (emitted s u y).encTab, hdr := (emitted s u y).hdr,
    hdrSize := (emitted s u y).hdrSize, out := (emitted s u y).out, dst := (emitted s u y).dst,
    freeTag := (emitted s u y).freeTag,
    enc := { s.enc with
      dstPos := (emitted s u y).enc.dstPos, dValues := (emitted s u y).enc.dValues, lits := (emitted s u y).enc.lits,
      nMatches := 0, nLits := 0 } } := by
  have hc : emitted s u y = _ := closedBlock_eq
  generalize emitted s u y = c at hc
  have hus := hu.state
  obtain ⟨dv, li, nl, henc⟩ : ∃ dv li nl, preparedEnc s = { s.enc with dValues := dv, lits := li, nLits := nl } :=
    ⟨_, _, _, rfl⟩
  rw [henc] at hus
  generalize finalHeader (withPayloads y u) = hd at hc
  rw [hus] at hc
  rw [hc]
  rfl

section Fits

variable (hy : payloads u.encTab (payloadRoom u) b = .ok (some y))

include hy

theorem sent_fits : s.enc.dstPos.toNat + sentLength u y ≤ s.enc.dstEnd.toNat := by
  have hlen := payloads_length hy
  rw [payloadRoom, hu.hdrSize, hu.enc] at hlen
  have hpos : (preparedEnc s).dstPos = s.enc.dstPos := rfl
  have hend : (preparedEnc s).dstEnd = s.enc.dstEnd := rfl
  rw [hpos, hend] at hlen
  unfold sentLength
  omega

theorem emitted_dstPos : (emitted s u y).enc.dstPos.toNat = s.enc.dstPos.toNat + sentLength u y := by
  rw [emitted, closedBlock_dstPos, withPayloads_dstPos hu, sent_blockBytes hu, sentBytes_length]
  exact nat64_toNat_le (sent_fits hu hy)

theorem emitted_outside : sameOutside s.enc.dstPos.toNat s.enc.dstEnd.toNat s.dst (emitted s u y).dst := by
  have hend : (withPayloads y u).enc.dstEnd = s.enc.dstEnd := by
    show u.enc.dstEnd = _
    rw [hu.enc]
    rfl
  have hdst : (withPayloads y u).dst = s.dst := by
    show u.dst = _
    rw [hu.state]
  have h := closedBlock_outside (n := s.enc.nLits.toNat) (p := y.lits.bytes ++ y.lmds.bytes) (s := withPayloads y u) (by
    rw [withPayloads_dstPos hu, sent_blockBytes hu, sentBytes_length, hend]
    exact sent_fits hu hy)
  rwa [withPayloads_dstPos hu, hend, hdst] at h

/-- What EMIT_BLOCK that ends OK has done in `c`, with the plan `u` and the payloads `y`. -/
structure Emitted (s u : State) (y : Payloads) (c : State) : Prop where
  state : c = { s with
    occ := c.occ, freq := c.freq, encTab := c.encTab, hdr := c.hdr, hdrSize := c.hdrSize, out := c.out, dst := c.dst,
    freeTag := c.freeTag,
    enc := { s.enc with dstPos := c.enc.dstPos, dValues := c.enc.dValues, lits := c.enc.lits, nMatches := 0, nLits := 0 } }
  dstPos : c.enc.dstPos.toNat = s.enc.dstPos.toNat + sentLength u y
  hdrSize : c.hdrSize.toNat = headerSizeOf u
  freq : c.freq = u.freq
  bytes : bytesAt c.dst s.enc.dstPos.toNat (sentBytes s u y)
  outside : sameOutside s.enc.dstPos.toNat s.enc.dstEnd.toNat s.dst c.dst

theorem emitted_spec : Emitted s u y (emitted s u y) :=
  ⟨emitted_state hu, emitted_dstPos hu hy, emitted_hdrSize hu, emitted_freq, emitted_bytes hu, emitted_outside hu hy⟩

end Fits

variable (hs : EncArraysLegal s.enc) (hfit : PayloadsFit b y)

include hs hfit

/-- Wherever the block stands, its header reads back. -/
theorem sent_unpacks {m : Memory} {p lim : Nat} (hb : bytesAt m p (sentBytes s u y)) (hlim : p + headerSizeOf u ≤ lim) :
    memRead m p 4 = 0x32787662 ∧
      unpackHeader m p lim = .ok (readBack (sentHeader s y)) (concatFreqs u) (headerSizeOf u) := by
  have hprep : EncArraysLegal u.enc := hu.enc ▸ preparedEnc_legal hs
  have hclose := closeBlock_payloads hu.tablesFor hu.fit hfit hprep.nLits hprep.nMatches 0 []
  rw [closeBlock_eq, finalHeader_payloads hu.enc] at hclose
  obtain ⟨hnone, -⟩ := raiseOpt_ok hclose
  have hfits : ∀ id, fieldFits { u with hdr := sentHeader s y } id := by
    rcases fieldOverflow_cases { u with hdr := sentHeader s y } with ⟨-, h⟩ | ⟨id, -, -, h⟩
    · exact h
    · exact absurd (hnone.symm.trans h) nofun
  exact unpackHeader_packed (s := { u with hdr := sentHeader s y }) hfits (bytesAt_append.mp hb).1 hlim

/-- Wherever the block stands, its payloads decode to it. -/
theorem sent_decodes (hy : payloads u.encTab (payloadRoom u) b = .ok (some y)) {r : State} {p : Nat} (hr : ready r)
    (hopen : compressedOpen r = false) (hfreq : r.freq = u.freq) (hend : p + sentLength u y < 2 ^ 64)
    (hb : bytesAt r.src p (sentBytes s u y)) :
    payloadsDecode (readBack (sentHeader s y)) (headerSizeOf u) p (paddedLits s ((s.enc.nLits.toNat + 3) / 4 * 4))
      (codedTriplets s) r := by
  have hsize := (headerSizeOf_bounds u).1
  have hlen : (packedHeader (sentHeader s y) u.allFreqs).length = headerSizeOf u := by
    rw [packedHeader_length, ← headerSizeOf_eq, v2FixedSize]
  obtain ⟨-, hpayload⟩ := bytesAt_append.mp hb
  obtain ⟨hlits, hlmds⟩ := bytesAt_append.mp hpayload
  rw [hlen] at hlits hlmds
  have hcount : (readBack (sentHeader s y)).nLiterals.toNat = b.lits.length := by
    rw [hu.lits_length hs.nLits]
    refine (prepared_nLits hs.nLits).trans ?_
    unfold padCount
    omega
  have hcoded := payloads_coded hu.tablesFor hu.fit (hu.lits_length hs.nLits ▸ Nat.dvd_mul_left _ _) hy
  unfold sentLength at hend
  have h := payloadsDecode_of_coded (p := p) hu.tablesFor hcoded (hfit.header hu.fit _ _ _) hcount hu.triplets_length.2.symm hr
    hopen hfreq (by omega) (by omega) hlits hlmds
  rwa [hu.triplets, hu.lits hs.nLits] at h

omit hu hs hfit in
/-- The counts in the header of the block. -/
theorem sentHeader_counts (hs : EncArraysLegal s.enc) :
    (readBack (sentHeader s y)).nLiterals.toNat = (s.enc.nLits.toNat + 3) / 4 * 4 ∧
    (readBack (sentHeader s y)).nRawBytes.toNat = (valueList .l s).sum + (valueList .m s).sum := by
  refine ⟨(prepared_nLits hs.nLits).trans (by unfold padCount; omega), ofNat32_toNat ?_⟩
  have hl := sum_valueList_le hs .l
  have hm := sum_valueList_le hs .m
  simp only [maxValue, maxLValue, maxMValue] at hl hm
  omega

end Emitted

section Outcome

variable {s u : State} {b : BlockSymbols} (hu : Planned s b u) (hs : EncArraysLegal s.enc) (hr : ready s)
  (hp : s.enc.poisoned = false) (hne : s.enc.nLits ≠ 0 ∨ s.enc.nMatches ≠ 0)

include hu hs hr hp hne

/-- With 752 bytes, 2 a literal and 8 a triplet, no step finds too little room. -/
theorem exec_emitBlock_room
    (hroom : s.enc.dstPos.toNat + 752 + 2 * s.enc.nLits.toNat + 8 * s.enc.nMatches.toNat ≤ s.enc.dstEnd.toNat) :
    ∃ t, exec .emitBlock s = .next t ∧ t.status = .ok := by
  have hmax := (headerSizeOf_bounds u).2
  obtain ⟨y, hy⟩ : ∃ y, payloads u.encTab (payloadRoom u) b = .ok (some y) := by
    refine payloads_room hu.tablesFor hu.fit ?_
    have hpos : u.enc.dstPos = s.enc.dstPos := by rw [hu.enc]; rfl
    have hend : u.enc.dstEnd = s.enc.dstEnd := by rw [hu.enc]; rfl
    rw [hu.lits_length hs.nLits, hu.triplets_length.1, payloadRoom, hu.hdrSize, hpos, hend]
    omega
  exact ⟨_, exec_emitBlock_closed hr hp hne ((hu.ends hs hne).done_of (by omega) hy), rfl⟩

/-- Where EMIT_BLOCK ends OK, the block's payloads fit. -/
theorem exec_emitBlock_ok {t : State} (ht : exec .emitBlock s = .next t) (hok : t.status = .ok) :
    ∃ y c, PayloadsFit b y ∧ payloads u.encTab (payloadRoom u) b = .ok (some y) ∧ Emitted s u y c ∧
      t = { writeBackEnc (c.withRes (nat64 (c.enc.dstPos.toNat - s.enc.dstPos.toNat)) (nat64 c.hdrSize.toNat)) with
        status := .ok } := by
  have hends := hu.ends hs hne
  generalize hrun : emitBlock s = e at hends
  cases hends with
  | noRoom =>
    rw [exec_emitBlock_full hr hp hrun] at ht
    cases ht
    cases hok
  | full =>
    rw [exec_emitBlock_full hr hp hrun] at ht
    cases ht
    cases hok
  | done y _ hfit hy =>
    have hexec := exec_emitBlock_closed hr hp hne (c := emitted s u y) hrun
    rw [hexec] at ht
    injection ht with ht
    exact ⟨y, emitted s u y, hfit, hy, emitted_spec hu hy, ht.symm⟩

end Outcome

/-- The state in which the command ends OK, cursors and results written. -/
theorem Emitted.ends {s u c : State} {y : Payloads} (h : Emitted s u y c) :
    { writeBackEnc (c.withRes (nat64 (c.enc.dstPos.toNat - s.enc.dstPos.toNat)) (nat64 c.hdrSize.toNat)) with status := .ok } =
      { s with
        occ := c.occ, freq := c.freq, encTab := c.encTab, hdr := c.hdr, hdrSize := c.hdrSize, out := c.out, dst := c.dst,
        freeTag := c.freeTag,
        enc := { s.enc with dstPos := c.enc.dstPos, dValues := c.enc.dValues, lits := c.enc.lits, nMatches := 0, nLits := 0 },
        cur := encCursors c.enc, res0 := c.enc.dstPos - s.enc.dstPos, res1 := nat64 c.hdrSize.toNat, status := .ok } := by
  have hpos := h.dstPos
  have hres : c.enc.dstPos - s.enc.dstPos = nat64 (c.enc.dstPos.toNat - s.enc.dstPos.toNat) :=
    sub_eq_ofNat_of_toNat_eq (by omega)
  rw [hres]
  generalize nat64 (c.enc.dstPos.toNat - s.enc.dstPos.toNat) = v
  obtain ⟨o, f, e, hd, n, ou, d, tag, q, dv, li, rfl⟩ : ∃ o f e hd n ou d tag q dv li, c = { s with
      occ := o, freq := f, encTab := e, hdr := hd, hdrSize := n, out := ou, dst := d, freeTag := tag,
      enc := { s.enc with dstPos := q, dValues := dv, lits := li, nMatches := 0, nLits := 0 } } :=
    ⟨_, _, _, _, _, _, _, _, _, _, _, h.state⟩
  rfl

/-- Settles O52: the decoder's steps undo the coder's, so the stack of fields in each payload decodes to the block; with 752 bytes, 2 a
literal and 8 a triplet, no step finds too little room. -/
theorem emitBlockCompletes : Obligations.EmitBlockCompletes := by
  intro s hr hp ha hne
  obtain ⟨hs, -⟩ := arraysLegal_iff.mp ha
  obtain ⟨b, u, hu⟩ := planned_of_legal hs
  refine ⟨exec_emitBlock_room hu hs hr hp hne, fun t ht hok => ?_⟩
  obtain ⟨y, c, hfit, hy, hc, rfl⟩ := exec_emitBlock_ok hu hs hr hp hne ht hok
  obtain ⟨hmin, hmax⟩ := headerSizeOf_bounds u
  have hheader := hfit.header hu.fit ((valueList .l s).sum + (valueList .m s).sum) (preparedEnc s).nLits s.enc.nMatches
  obtain ⟨hcount, hraw⟩ := sentHeader_counts (y := y) hs
  have hfits := sent_fits hu hy
  obtain ⟨-, hpos, hsize, hfreq, hbytes, houtside⟩ := id hc
  obtain ⟨hmagic, hunpack⟩ := sent_unpacks hu hs hfit hbytes (lim := c.enc.dstPos.toNat) (by rw [hpos, sentLength]; omega)
  rw [← hsize] at hmin hmax hunpack
  refine ⟨readBack (sentHeader s y), concatFreqs u, ?_, hmin, hmax, hmagic, hunpack, rfl, hcount, hraw, ?_, ?_,
    hpos.trans_le hfits, houtside, fun r p hrr hopen hrfreq hend hcopy => ?_⟩
  · exact hc.ends
  · rw [concatFreqs_eq, concatFreqs_eq]
    exact (allFreqs_congr hfreq).symm
  · show c.enc.dstPos.toNat = s.enc.dstPos.toNat + c.hdrSize.toNat + _ + _
    rw [hpos, hsize, sentLength, sentHeader, hheader.litBytes, hheader.lmdBytes]
    omega
  · have hlen : c.enc.dstPos.toNat - s.enc.dstPos.toNat = sentLength u y := by omega
    have hb : bytesAt r.src p (sentBytes s u y) := fun i hi => by
      rw [hcopy i (hlen ▸ sentBytes_length s u y ▸ hi)]
      exact hbytes i hi
    have h := sent_decodes hu hs hfit hy hrr hopen (hrfreq.trans hfreq) (hlen ▸ hend) hb
    rwa [← hsize, ← hcount] at h

end Sys2Proof.Proofs
